-- ==== Sys2Proof/Word.lean ====
section
/-! DEFINITION. Sys2Proof/Word.lean: the word types of the FW8-8192-KA (00 R6, 09 R175). -/

namespace Sys2Proof

/-- A 64-bit register or memory word. -/
abbrev Word := BitVec 64
/-- A byte of memory. -/
abbrev Byte := BitVec 8
/-- A vector lane or an immediate field. -/
abbrev W32 := BitVec 32
/-- A v register: 16 lanes, lane 0 first (09 R175). -/
abbrev VReg := Vector (BitVec 32) 16
/-- A logical tile, numbered 128 * wafer row + wafer column (01 R12). -/
abbrev Tile := Nat

end Sys2Proof
end

