-- ==== Sys2Proof/Config.lean ====
section
/-! DEFINITION. Sys2Proof/Config.lean: what the manual names but does not define, as constants that no proof can see
into: free values (log 4) and the ciphers, hash and signature of the key services (log 12, 13). -/

namespace Sys2Proof.Config

/-- A value the manual leaves open, one for each number of the model's counter `fresh` (log 4). -/
opaque freeWord : Nat → BitVec 64
/-- A choice the manual leaves open, one for each number of the counter `fresh` (log 4). -/
opaque freeChoice : Nat → Bool
/-- SM4 under a 128-bit key, a permutation of 128-bit blocks (18 R380; log 12). -/
opaque sm4 : BitVec 128 → Equiv.Perm (BitVec 128)
/-- SM4 in GCM mode, opening: the plain bytes when the tag passes (18 R381; log 13). -/
opaque gcmOpen : BitVec 128 → List (BitVec 8) → Option (List (BitVec 8))
/-- SM4 in GCM mode, sealing: the bytes of a frame of a module link (18 R386; log 13). -/
opaque gcmSeal : BitVec 128 → List (BitVec 8) → List (BitVec 8)
/-- The key that an SM2 exchange agrees, one for each number of the counter `fresh` (18 R381, R386; log 13). -/
opaque sm2Key : Nat → BitVec 128
/-- SM3 of a byte string (18 R390; log 13). -/
opaque sm3 : List (BitVec 8) → BitVec 256
/-- The crown's SM2 signature of a digest (18 R390; log 13). -/
opaque sm2Sign : BitVec 256 → BitVec 512
/-- The check syndrome of a word whose error is found first at this read (03 R417: implementation-specific; log 14). -/
opaque syndrome : Nat → BitVec 11

/-- The vault bank group that holds a physical vault address, one of eight (03 R55: the manual gives no map; log 78). -/
opaque bankGroup : Nat → Nat

/-- A byte of the progress that a save slot holds for a bank operator (15 Table 15.6: content implementation-specific; log 82). -/
opaque progressByte : List Nat → Nat → BitVec 8

/-- The MSI-X vector of a function for a kind of report (18 R384: the manual gives 64 and no assignment; log 91). -/
opaque msixVector : Nat → Nat → Nat

end Sys2Proof.Config
end

