-- ==== Sys2Proof/Syntax.lean ====
section
/-! DEFINITION. Sys2Proof/Syntax.lean: the Etmin instructions and the events of the other agents, one constructor per
row of spec/opcode_table.json. Operand types follow chapter 09 (R166 to R184). -/

namespace Sys2Proof

/-- g0 to g15. -/
abbrev G := Fin 16
/-- v0 to v7. -/
abbrev V := Fin 8
/-- p0 to p7. -/
abbrev P := Fin 8
/-- k0 to k3. -/
abbrev K := Fin 4
/-- h0 to h15. -/
abbrev H := Fin 16

/-- The four directions, in port order (R169, R210). -/
inductive Dir where | n | e | s | w
  deriving DecidableEq, Repr

/-- An operand that may name a g register or a port (R198). -/
inductive GP where | g (r : G) | port (d : Dir)
  deriving DecidableEq, Repr

/-- Operand B of the integer families: a register, a port or the immediate of R173 (zx: IZX). -/
inductive Src where | reg (x : GP) | imm (zx : Bool) (v : BitVec 32)
  deriving DecidableEq, Repr

/-- Operand B of CMP and TST: a g register or the immediate of R173. -/
inductive GSrc where | reg (x : G) | imm (zx : Bool) (v : BitVec 32)
  deriving DecidableEq, Repr

/-- Operand B of scalar floating point: a g register or a binary32 immediate (R216). -/
inductive FSrc where | reg (x : G) | imm (v : BitVec 32)
  deriving DecidableEq, Repr

/-- Operand B of the vector families: a v register, a broadcast g register or an immediate pattern (R252). -/
inductive VSrc where | v (x : V) | g (x : G) | imm (v : BitVec 32)
  deriving DecidableEq, Repr

/-- Table 9.4: the type codes, code 15 being reserved. -/
inductive Ty where
  | u8 | i8 | u16 | i16 | u32 | i32 | u64 | i64 | u128 | f32 | f64 | i16x2 | h16x2 | b16x2 | i8x4
  deriving DecidableEq, Repr

/-- Conditions of CMP, TST, FCMP and VCMP (Tables 10.5 and 10.8). -/
inductive Cond where | eq | ne | lt | le | gt | ge | un
  deriving DecidableEq, Repr

/-- A rounding selector: 0 takes FCR.RM (R217). -/
inductive RSel where | dyn | rne | rtz | rpi | rni
  deriving DecidableEq, Repr

/-- An indexed memory operand (R224): base + index * 2^scale + disp. -/
structure MemX where
  base : G
  index : G
  scale : BitVec 2
  disp : BitVec 32
  deriving DecidableEq, Repr

/-- A based memory operand (R224). -/
structure MemB where
  base : G
  disp : BitVec 32
  deriving DecidableEq, Repr

/-- The modifier of the vector families (R251). -/
structure VMod where
  k : K
  sat : Bool
  z : Bool
  deriving DecidableEq, Repr

/-- Operations of VRED and VSCAN (R263). -/
inductive RedOp where | sum | min | max | and | or | xor
  deriving DecidableEq, Repr

/-- Source of VBCAST (Table 12.5). -/
inductive BSrc where | g (x : G) | v (x : V) (lane : BitVec 4)
  deriving DecidableEq, Repr

/-- Forms of KMOV (R267). -/
inductive KForm where | kk (d a : K) | gk (d : K) (a : G) | kg (d : G) (a : K) | imm (d : K) (v : BitVec 16)
  deriving DecidableEq, Repr

/-- The special registers of Table 9.6. -/
inductive Sr where
  | pc | tfl | tid | hop | org | vlive | fcr | fst | prt | tco | np (d : Dir) | lcyc | rpc (i : Fin 6)
  | msat | munf | movf | mcan | win (n : Fin 16) (w : Fin 5)
  deriving DecidableEq, Repr

/-- Who makes a system-space or debug write (R28, R363): a context of a tile, the field firmware core, the host's debug path. -/
inductive Writer where | ctx (t : Nat) (c : Nat) | firmware | host
  deriving DecidableEq, Repr

/-- The parameters firmware sets (R93, R157, R353). -/
inductive Param where | holdLimit | bounceLim | pinSpan | drainInt | balInt | promoteInt
  deriving DecidableEq, Repr

/-- An array that may enter retention (R55). -/
inductive Arr where | pane (h : H) | l2 (group : Fin 4) | bank (group : Fin 8)
  deriving DecidableEq, Repr

/-- A partition request (R379): number, origin and size in tiles, edge channels, module links, the supervisor tile of each
block with the entry PC of its c30, and the service cores that carry a virtual function. -/
structure PartReq where
  pid : Nat
  x0 : Nat
  y0 : Nat
  w : Nat
  h : Nat
  chans : List Nat
  links : List Nat
  sups : List (Nat × BitVec 64)
  scs : List Nat
  deriving DecidableEq, Repr

/-- A queue descriptor, the five words of Table 16.1. -/
structure QDesc where
  ring : BitVec 64
  wake : BitVec 64
  ridx : BitVec 64
  qsta : BitVec 64
  cfg : BitVec 64
  deriving DecidableEq, Repr

/-- R14: what the defect map gives of the spares: the tiles that stand on one, each with its column, and the bad ones, each by its
block and column. -/
structure SpareMap where
  moved : List (Nat × Nat)
  bad : List (Nat × Nat)
  deriving DecidableEq, Repr

/-- R390: what the tests of bring-up find: the tiles that run reduced, and the fields that a failing step stops. -/
structure TestMap where
  reduced : List Nat
  failed : List Nat
  deriving DecidableEq, Repr

/-- The configuration word of a peer segment (R386): an edge segment or a tile's vault on the joined module. -/
inductive PeerTarget where | edge (seg : Nat) | vault (tile : Nat)
  deriving DecidableEq, Repr

/-- One constructor per row of spec/opcode_table.json: the Etmin instructions in table order, then the events. -/
inductive Instr where
  /-- ADD (R201). Adds A and B at the size TY gives and writes the extended result to D. -/
  | add (ty : Ty) (d : GP) (a : GP) (b : Src)
  /-- SUB (R201). Subtracts B from A at the size TY gives. -/
  | sub (ty : Ty) (d : GP) (a : GP) (b : Src)
  /-- MUL (R201). Writes the low n bits of A times B. -/
  | mul (ty : Ty) (d : GP) (a : GP) (b : Src)
  /-- MULH (R201). Writes the high n bits of the signed product of A and B. -/
  | mulh (ty : Ty) (d : GP) (a : GP) (b : Src)
  /-- MULHU (R201). Writes the high n bits of the unsigned product of A and B. -/
  | mulhu (ty : Ty) (d : GP) (a : GP) (b : Src)
  /-- DIV (R202). Signed division truncating toward zero that never traps. -/
  | div (ty : Ty) (d : GP) (a : GP) (b : Src)
  /-- DIVU (R202). Unsigned division that never traps. -/
  | divu (ty : Ty) (d : GP) (a : GP) (b : Src)
  /-- REM (R202). Signed remainder with the sign of the dividend. -/
  | rem (ty : Ty) (d : GP) (a : GP) (b : Src)
  /-- REMU (R202). Unsigned remainder. -/
  | remu (ty : Ty) (d : GP) (a : GP) (b : Src)
  /-- NEG (R201). Writes 0 minus A. -/
  | neg (ty : Ty) (d : GP) (a : GP)
  /-- ABS (R201). Writes the absolute value of signed A. -/
  | abs (ty : Ty) (d : GP) (a : GP)
  /-- MIN (R201). Writes the signed smaller of A and B. -/
  | min (ty : Ty) (d : GP) (a : GP) (b : Src)
  /-- MAX (R201). Writes the signed larger of A and B. -/
  | max (ty : Ty) (d : GP) (a : GP) (b : Src)
  /-- MINU (R201). Writes the unsigned smaller of A and B. -/
  | minu (ty : Ty) (d : GP) (a : GP) (b : Src)
  /-- MAXU (R201). Writes the unsigned larger of A and B. -/
  | maxu (ty : Ty) (d : GP) (a : GP) (b : Src)
  /-- AND (R203). Bitwise AND of A and B. -/
  | and (ty : Ty) (d : GP) (a : GP) (b : Src)
  /-- OR (R203). Bitwise OR of A and B. -/
  | or (ty : Ty) (d : GP) (a : GP) (b : Src)
  /-- XOR (R203). Bitwise XOR of A and B. -/
  | xor (ty : Ty) (d : GP) (a : GP) (b : Src)
  /-- ANDN (R203). A AND NOT B. -/
  | andn (ty : Ty) (d : GP) (a : GP) (b : Src)
  /-- ORN (R203). A OR NOT B. -/
  | orn (ty : Ty) (d : GP) (a : GP) (b : Src)
  /-- XNOR (R203). NOT (A XOR B). -/
  | xnor (ty : Ty) (d : GP) (a : GP) (b : Src)
  /-- NOT (R203). Bitwise NOT of A. -/
  | not (ty : Ty) (d : GP) (a : GP)
  /-- SHL (R203). Shifts A left by B mod n, shifting in zeros. -/
  | shl (ty : Ty) (d : GP) (a : GP) (b : Src)
  /-- SHR (R203). Shifts A right by B mod n, shifting in zeros. -/
  | shr (ty : Ty) (d : GP) (a : GP) (b : Src)
  /-- SRA (R203). Shifts A right arithmetically by B mod n. -/
  | sra (ty : Ty) (d : GP) (a : GP) (b : Src)
  /-- ROL (R203). Rotates A left within n bits. -/
  | rol (ty : Ty) (d : GP) (a : GP) (b : Src)
  /-- ROR (R203). Rotates A right within n bits. -/
  | ror (ty : Ty) (d : GP) (a : GP) (b : Src)
  /-- CLZ (R204). Counts the leading zeros of A. -/
  | clz (ty : Ty) (d : GP) (a : GP)
  /-- CTZ (R204). Counts the trailing zeros of A. -/
  | ctz (ty : Ty) (d : GP) (a : GP)
  /-- POPC (R204). Counts the one bits of A. -/
  | popc (ty : Ty) (d : GP) (a : GP)
  /-- BREV (R204). Reverses the bit order of A. -/
  | brev (ty : Ty) (d : GP) (a : GP)
  /-- BSWAP (R204). Reverses the byte order of A. -/
  | bswap (ty : Ty) (d : GP) (a : GP)
  /-- BEXT (R205). Extracts a bit field of A and sign-extends it. -/
  | bext (d : GP) (a : GP) (pos : BitVec 6) (len : BitVec 7)
  /-- BEXTU (R205). Extracts a bit field of A and zero-extends it. -/
  | bextu (d : GP) (a : GP) (pos : BitVec 6) (len : BitVec 7)
  /-- BINS (R205). Inserts the low bits of A into a field of D. -/
  | bins (d : G) (a : GP) (pos : BitVec 6) (len : BitVec 7)
  /-- MOV (R206). Copies A to D with extension by TY. -/
  | mov (ty : Ty) (d : GP) (a : GP)
  /-- MOVI (R206). Writes the extended immediate to D. -/
  | movi (d : GP) (zx : Bool) (v : BitVec 32)
  /-- MOVH (R206). Writes the immediate to the high 32 bits of D. -/
  | movh (d : G) (v : BitVec 32)
  /-- SEL (R206). Selects A or B by a predicate. -/
  | sel (ty : Ty) (d : GP) (a : GP) (b : Src) (pn : P)
  /-- SEXT (R206). Sign-extends the low w bits of A. -/
  | sext (d : GP) (a : GP) (w : BitVec 32)
  /-- ZEXT (R206). Zero-extends the low w bits of A. -/
  | zext (d : GP) (a : GP) (w : BitVec 32)
  /-- LEA (R207). Computes a base plus scaled index plus displacement without checks. -/
  | lea (d : G) (m : MemX)
  /-- GADDR (R208). Composes a global address on a named partition tile. -/
  | gaddr (d : G) (a : G) (b : G)
  /-- HOME (R209). Reports the home of an address without raising its fault. -/
  | home (d : G) (a : G)
  /-- NBR (R210). Forms an address on the neighbour in a direction from the neighbour pointer. -/
  | nbr (d : G) (a : G) (dir : Dir)
  /-- CMP (R211). Compares A and B under a condition into a predicate. -/
  | cmp (c : Cond) (ty : Ty) (d : P) (a : G) (b : GSrc)
  /-- TST (R211). Tests A AND B for zero into a predicate. -/
  | tst (c : Cond) (ty : Ty) (d : P) (a : G) (b : GSrc)
  /-- PAND (R212). Predicate AND. -/
  | pand (d : P) (a : P) (b : P)
  /-- POR (R212). Predicate OR. -/
  | por (d : P) (a : P) (b : P)
  /-- PXOR (R212). Predicate XOR. -/
  | pxor (d : P) (a : P) (b : P)
  /-- PNOT (R212). Predicate NOT. -/
  | pnot (d : P) (a : P)
  /-- PMOV (R212). Predicate copy. -/
  | pmov (d : P) (a : P)
  /-- PSET (R212). Sets a predicate to an immediate 0 or 1. -/
  | pset (d : P) (v : Bool)
  /-- BR (R213). Branches by a word offset. -/
  | br (off : BitVec 32)
  /-- BRX (R213). Branches to the address in A. -/
  | brx (a : G)
  /-- CALL (R213). Writes the link to g15 and branches by offset. -/
  | call (off : BitVec 32)
  /-- CALLX (R213). Writes the link to g15 and branches to A. -/
  | callx (a : G)
  /-- RET (R213). Branches to g15. -/
  | ret
  /-- LOOP (R213). Decrements D and branches while it is nonzero. -/
  | loop (d : G) (off : BitVec 32)
  /-- NOP (R213). Advances the PC only. -/
  | nop
  /-- EXIT (R215). Waits for pending and outstanding writes, releases stream, ports, gang and charge, and frees the context. -/
  | exit
  /-- FADD (R217). Floating add rounded once. -/
  | fadd (rm : RSel) (ty : Ty) (d : G) (a : G) (b : FSrc)
  /-- FSUB (R217). Floating subtract rounded once. -/
  | fsub (rm : RSel) (ty : Ty) (d : G) (a : G) (b : FSrc)
  /-- FMUL (R217). Floating multiply rounded once. -/
  | fmul (rm : RSel) (ty : Ty) (d : G) (a : G) (b : FSrc)
  /-- FFMA (R217). Fused multiply-add with one rounding. -/
  | ffma (rm : RSel) (ty : Ty) (d : G) (a : G) (b : FSrc)
  /-- FDIV (R218). Floating divide with divide-by-zero handling. -/
  | fdiv (rm : RSel) (ty : Ty) (d : G) (a : G) (b : FSrc)
  /-- FSQRT (R218). Floating square root. -/
  | fsqrt (rm : RSel) (ty : Ty) (d : G) (a : G)
  /-- FMIN (R219). Floating minimum with NaN rules. -/
  | fmin (ty : Ty) (d : G) (a : G) (b : FSrc)
  /-- FMAX (R219). Floating maximum with NaN rules. -/
  | fmax (ty : Ty) (d : G) (a : G) (b : FSrc)
  /-- FABS (R218). Clears the sign bit. -/
  | fabs (ty : Ty) (d : G) (a : G)
  /-- FNEG (R218). Inverts the sign bit. -/
  | fneg (ty : Ty) (d : G) (a : G)
  /-- FCMP (R220). Floating compare into a predicate. -/
  | fcmp (c : Cond) (ty : Ty) (d : P) (a : G) (b : FSrc)
  /-- FCVT (R221). Converts between integer and floating types. -/
  | fcvt (rm : RSel) (dt : Ty) (sty : Ty) (d : G) (a : G)
  /-- FCLASS (R222). Classifies a floating value into one of ten bits. -/
  | fclass (ty : Ty) (d : G) (a : G)
  /-- LD (R228). Loads from memory, locally, by migration, as a GET when pinned, or by edge request. -/
  | ld (ty : Ty) (d : G) (m : MemX)
  /-- ST (R228). Stores to memory, locally, by migration, as a PUT when pinned, or by edge request. -/
  | st (ty : Ty) (d : G) (m : MemX)
  /-- GET (R229). Loads without migrating, leaving a remote destination pending. -/
  | get (ty : Ty) (d : G) (m : MemX)
  /-- PUT (R229). Stores without migrating, outstanding until acknowledged. -/
  | put (ty : Ty) (d : G) (m : MemX)
  /-- PUTC (R230). Stores and then adds an increment to a completion counter. -/
  | putc (ty : Ty) (d : G) (m : MemB) (cnt : G) (inc : BitVec 4)
  /-- MIGR (R231). Moves the thread to an address's home unless pinned. -/
  | migr (pn : P) (m : MemB)
  /-- PIN (R231). Sets the explicit pin. -/
  | pin
  /-- UNPIN (R231). Clears the explicit pin. -/
  | unpin
  /-- VLD (R233). Loads 16 contiguous 32-bit lanes under a mask. -/
  | vld (ty : Ty) (k : K) (d : V) (m : MemX)
  /-- VST (R233). Stores 16 contiguous 32-bit lanes under a mask. -/
  | vst (ty : Ty) (k : K) (d : V) (m : MemX)
  /-- VLDS (R234). Strided vector load, lane by lane sorted by home. -/
  | vlds (ty : Ty) (k : K) (sc : BitVec 2) (d : V) (m : MemB) (b : G)
  /-- VSTS (R234). Strided vector store, lane by lane sorted by home. -/
  | vsts (ty : Ty) (k : K) (sc : BitVec 2) (d : V) (m : MemB) (b : G)
  /-- VGATH (R234). Gathers lanes by 64-bit offsets. -/
  | vgath (ty : Ty) (k : K) (sc : BitVec 2) (d : V) (m : MemB) (b : V)
  /-- VSCAT (R234). Scatters lanes by 64-bit offsets. -/
  | vscat (ty : Ty) (k : K) (sc : BitVec 2) (d : V) (m : MemB) (b : V)
  /-- AADD (R236). Fire-and-forget add placed in the combining buffer. -/
  | aadd (ty : Ty) (d : G) (m : MemX)
  /-- AFADD (R237). Fire-and-forget floating add that never merges. -/
  | afadd (ty : Ty) (d : G) (m : MemX)
  /-- AMIN (R236). Fire-and-forget minimum. -/
  | amin (ty : Ty) (d : G) (m : MemX)
  /-- AMAX (R236). Fire-and-forget maximum. -/
  | amax (ty : Ty) (d : G) (m : MemX)
  /-- AAND (R236). Fire-and-forget AND. -/
  | aand (ty : Ty) (d : G) (m : MemX)
  /-- AOR (R236). Fire-and-forget OR. -/
  | aor (ty : Ty) (d : G) (m : MemX)
  /-- AXOR (R236). Fire-and-forget XOR. -/
  | axor (ty : Ty) (d : G) (m : MemX)
  /-- XADD (R238). Returning atomic add as one step in the location order. -/
  | xadd (ty : Ty) (d : G) (m : MemB) (b : G)
  /-- XCHG (R238). Returning atomic exchange. -/
  | xchg (ty : Ty) (d : G) (m : MemB) (b : G)
  /-- CAS (R238). Compare-and-swap returning the old value. -/
  | cas (ty : Ty) (d : G) (m : MemB) (b : G)
  /-- TAKE (R107). Takes a full sync word, or waits in its deferred list. -/
  | take (d : G) (m : MemB)
  /-- TRYT (R107). Takes a full sync word or fails without waiting. -/
  | tryt (d : G) (pn : P) (m : MemB)
  /-- GIVE (R113). Releases over the binding snapshot, then fills the sync word or serves its list. -/
  | give (pn : P) (m : MemB) (b : G)
  /-- PEEK (R107). Reads a full sync word or waits for a GIVE. -/
  | peek (d : G) (m : MemB)
  /-- SETE (R107). Sets a sync word's tag to empty. -/
  | sete (m : MemB)
  /-- FEQ (R107). Tests whether a sync word is full. -/
  | feq (pn : P) (m : MemB)
  /-- BIND (R240). Adds a binding of a sync word to a region. -/
  | bind (pn : P) (m : MemB) (base : G) (len : G)
  /-- UNBIND (R240). Removes a binding of a sync word to a region. -/
  | unbind (pn : P) (m : MemB) (base : G) (len : G)
  /-- FENCE_ACQ (R115). Waits for earlier covered reads before later instructions issue. -/
  | fenceAcq (sc : Fin 16)
  /-- FENCE_REL (R115). Makes later writes and releases wait for earlier covered accesses. -/
  | fenceRel (sc : Fin 16)
  /-- FENCE_FULL (R115). Waits for every earlier covered read and write. -/
  | fenceFull (sc : Fin 16)
  /-- CWAIT (R117). Completes when a counter meets a target, or waits for an increment. -/
  | cwait (m : MemB) (b : G)
  /-- CTEST (R242). Compares a counter with a target without waiting. -/
  | ctest (pn : P) (m : MemB) (b : G)
  /-- BARR (R246). Arrives at a barrier unit and waits on the token. -/
  | barr (rel : Bool) (d : G) (pn : P) (a : G) (b : G)
  /-- BARA (R244). Arrives at a barrier unit and returns a token. -/
  | bara (rel : Bool) (d : G) (a : G)
  /-- BARW (R245). Waits on a barrier token with a timeout. -/
  | barw (pn : P) (a : G) (b : G)
  /-- PREF (R50). Brings a local range into L2 and optionally increments a counter. -/
  | pref (m : MemB) (b : G) (d : G) (inc : BitVec 4)
  /-- LOCKL (R51). Locks lines of a local range within the quota. -/
  | lockl (d : G) (pn : P) (m : MemB) (b : G)
  /-- UNLOCKL (R248). Ends the locks of a range and returns their charge. -/
  | unlockl (m : MemB) (b : G)
  /-- WBACK (R248). Writes back dirty lines of a range. -/
  | wback (m : MemB) (b : G)
  /-- WBINV (R248). Writes back and invalidates the lines of a range. -/
  | wbinv (m : MemB) (b : G)
  /-- INVAL (R248). Discards the lines of a range without write-back. -/
  | inval (m : MemB) (b : G)
  /-- SPAWN (R272). Pushes a continuation record with a label code pointer onto the local deque. -/
  | spawn (pn : P) (off : BitVec 32) (a : G) (b : G)
  /-- SPAWN_INDIRECT (R272). Pushes a continuation record whose code pointer is in a register. -/
  | spawnIndirect (pn : P) (d : G) (a : G) (b : G)
  /-- SPAWNX (R273). Sends a continuation record to the deque of an address's home. -/
  | spawnx (pn : P) (off : BitVec 32) (a : G) (b : G) (d : G)
  /-- JOIN (R274). Decrements a join counter and exits unless it reaches zero. -/
  | join (m : MemB)
  /-- YIELD (R275). Sets yield_skip for the context. -/
  | yield
  /-- LEAD (R276). Reserves k tiles along a direction to form a gang. -/
  | lead (k : BitVec 3) (dir : Dir)
  /-- FOLLOW (R159). Arms c29 as a gang follower. -/
  | follow
  /-- UNLEAD (R277). Ends the gang after followers drain their queues. -/
  | unlead
  /-- PCLAIM (R278). Claims a port for the context. -/
  | pclaim (pn : P) (port : Dir)
  /-- PFREE (R278). Releases a port claim. -/
  | pfree (port : Dir)
  /-- PCFG (R280). Writes a pane configuration word, resetting pointers and slots. -/
  | pcfg (h : H) (a : G)
  /-- SOPEN (R281). Opens a stream on a stream pane and starts the copy unit. -/
  | sopen (h : H) (m : MemB)
  /-- SCLOSE (R282). Closes the stream, empties the pane and ends the pin. -/
  | sclose (h : H)
  /-- PWAIT (R283). Consumer claim of n ready slots. -/
  | pwait (d : G) (h : H) (n : BitVec 32)
  /-- PADV_P (R283). Producer advance of the oldest filling slots. -/
  | padvP (h : H) (n : BitVec 32)
  /-- PADV_C (R283). Consumer advance of the oldest draining slots. -/
  | padvC (h : H) (n : BitVec 32)
  /-- PFILL (R283). Producer claim of n empty slots. -/
  | pfill (d : G) (h : H) (n : BitVec 32)
  /-- PSTAT (R285). Reads a pane's configuration or cursor word. -/
  | pstat (c : Bool) (d : G) (h : H)
  /-- VPOP (R284). Pops one 64-byte unit from a pane into a vector register. -/
  | vpop (ty : Ty) (d : V) (h : H)
  /-- VPUSH (R284). Pushes one 64-byte unit from a vector register into a pane. -/
  | vpush (ty : Ty) (h : H) (a : V)
  /-- JOB (R286). Submits a job card to the local job scheduler. -/
  | job (pool : Bool) (m : MemB)
  /-- NCMD (R287). Sends one bank operator to the local tuber core with a pending reply. -/
  | ncmd (pool : Bool) (d : G) (m : MemB)
  /-- MLDS (R308). Loads the shadow plane from a view provenance. -/
  | mlds (a : G) (b : G) (nc : BitVec 32)
  /-- MSWP (R308). Exchanges the active and shadow planes. -/
  | mswp
  /-- MMUL (R300). Queues a graded matrix multiply with replay ladder. -/
  | mmul (pool : Bool) (m : MemB)
  /-- MMULG (R310). Queues a grouped matrix multiply. -/
  | mmulg (pool : Bool) (m : MemB)
  /-- MRED (R311). Queues a rank-ordered reduction of bank rows into a root tile. -/
  | mred (pool : Bool) (m : MemB)
  /-- MSTO (R312). Queues a store of bank cells as A64 or FP32. -/
  | msto (pool : Bool) (m : MemB)
  /-- MZERO (R308). Zeroes every cell of a bank. -/
  | mzero (b : Bool)
  /-- MSTAT (R313). Reads the engine state or a plane provenance, optionally after the queue drains. -/
  | mstat (w : Bool) (d : G) (which : BitVec 32)
  /-- VADD (R254). Vector add per active element. -/
  | vadd (m : VMod) (ty : Ty) (d : V) (a : V) (b : VSrc)
  /-- VSUB (R254). Vector subtract. -/
  | vsub (m : VMod) (ty : Ty) (d : V) (a : V) (b : VSrc)
  /-- VMUL (R254). Vector multiply. -/
  | vmul (m : VMod) (ty : Ty) (d : V) (a : V) (b : VSrc)
  /-- VFMA (R256). Vector fused multiply-add. -/
  | vfma (m : VMod) (ty : Ty) (d : V) (a : V) (b : VSrc)
  /-- VFMS (R256). Vector fused multiply-subtract. -/
  | vfms (m : VMod) (ty : Ty) (d : V) (a : V) (b : VSrc)
  /-- VMIN (R254). Vector minimum. -/
  | vmin (m : VMod) (ty : Ty) (d : V) (a : V) (b : VSrc)
  /-- VMAX (R254). Vector maximum. -/
  | vmax (m : VMod) (ty : Ty) (d : V) (a : V) (b : VSrc)
  /-- VABS (R255). Vector absolute value. -/
  | vabs (m : VMod) (ty : Ty) (d : V) (a : V)
  /-- VNEG (R255). Vector negate. -/
  | vneg (m : VMod) (ty : Ty) (d : V) (a : V)
  /-- VAND (R254). Vector bitwise AND. -/
  | vand (m : VMod) (ty : Ty) (d : V) (a : V) (b : VSrc)
  /-- VOR (R254). Vector bitwise OR. -/
  | vor (m : VMod) (ty : Ty) (d : V) (a : V) (b : VSrc)
  /-- VXOR (R254). Vector bitwise XOR. -/
  | vxor (m : VMod) (ty : Ty) (d : V) (a : V) (b : VSrc)
  /-- VSHL (R255). Vector shift left. -/
  | vshl (m : VMod) (ty : Ty) (d : V) (a : V) (b : VSrc)
  /-- VSHR (R255). Vector logical shift right. -/
  | vshr (m : VMod) (ty : Ty) (d : V) (a : V) (b : VSrc)
  /-- VSRA (R255). Vector arithmetic shift right. -/
  | vsra (m : VMod) (ty : Ty) (d : V) (a : V) (b : VSrc)
  /-- VCMP (R258). Compares every lane into a lane mask. -/
  | vcmp (c : Cond) (ty : Ty) (d : K) (a : V) (b : VSrc)
  /-- VSEL (R259). Selects lanes of A or B by a mask. -/
  | vsel (k : K) (ty : Ty) (d : V) (a : V) (b : VSrc)
  /-- VRCP (R257). Correctly rounded reciprocal. -/
  | vrcp (m : VMod) (ty : Ty) (d : V) (a : V)
  /-- VRSQ (R257). Correctly rounded reciprocal square root. -/
  | vrsq (m : VMod) (ty : Ty) (d : V) (a : V)
  /-- VEXP2 (R257). Correctly rounded power of two. -/
  | vexp2 (m : VMod) (ty : Ty) (d : V) (a : V)
  /-- VLOG2 (R257). Correctly rounded base-2 logarithm. -/
  | vlog2 (m : VMod) (ty : Ty) (d : V) (a : V)
  /-- VDIV (R256). Vector floating divide. -/
  | vdiv (m : VMod) (ty : Ty) (d : V) (a : V) (b : VSrc)
  /-- VSQRT (R256). Vector floating square root. -/
  | vsqrt (m : VMod) (ty : Ty) (d : V) (a : V)
  /-- VPOPC (R254). Counts one bits per lane. -/
  | vpopc (m : VMod) (ty : Ty) (d : V) (a : V)
  /-- VDOT4 (R255). Four-way signed byte dot product accumulated into i32 lanes. -/
  | vdot4 (m : VMod) (ty : Ty) (d : V) (a : V) (b : VSrc)
  /-- VCVT (R260). Converts lane elements between types. -/
  | vcvt (rm : RSel) (k : K) (z : Bool) (dt : Ty) (sty : Ty) (part : BitVec 2) (d : V) (a : V)
  /-- VQNT (R261). Quantises a register block into a lane unit. -/
  | vqnt (ty : Ty) (d : V) (a : V) (tier : BitVec 3) (scale : Option G)
  /-- VDQT (R262). Dequantises a lane unit into 32 f32 values. -/
  | vdqt (d : V) (a : V) (tier : BitVec 3)
  /-- VRED (R264). Reduces active lanes in a fixed pairwise tree. -/
  | vred (op : RedOp) (ty : Ty) (k : K) (d : G) (a : V)
  /-- VSCAN (R265). Prefix-combines active lanes in lane order. -/
  | vscan (op : RedOp) (excl : Bool) (ty : Ty) (k : K) (z : Bool) (d : V) (a : V)
  /-- VPERM (R263). Permutes lanes by indices. -/
  | vperm (ty : Ty) (k : K) (z : Bool) (d : V) (a : V) (b : V)
  /-- VBCAST (R263). Broadcasts a value or lane to every lane. -/
  | vbcast (ty : Ty) (k : K) (z : Bool) (d : V) (src : BSrc)
  /-- VEXT (R263). Extracts one lane into a g register. -/
  | vext (ty : Ty) (d : G) (a : V) (lane : BitVec 4)
  /-- VINS (R263). Inserts a g value into one lane. -/
  | vins (ty : Ty) (d : V) (a : G) (lane : BitVec 4)
  /-- KAND (R266). Lane mask AND. -/
  | kand (d : K) (a : K) (b : K)
  /-- KOR (R266). Lane mask OR. -/
  | kor (d : K) (a : K) (b : K)
  /-- KNOT (R266). Lane mask NOT. -/
  | knot (d : K) (a : K)
  /-- KMOV (R267). Moves a mask between k, g and immediate forms. -/
  | kmov (f : KForm)
  /-- KPOPC (R266). Counts the one bits of a mask. -/
  | kpopc (d : G) (a : K)
  /-- BSCAN (R334). Opens the tuber scan over a range of 64-byte rows. -/
  | bscan (a : G) (b : G) (d : G)
  /-- HAMM (R338). Inserts Hamming distances of passing rows into the top-k list. -/
  | hamm (d : G) (a : V)
  /-- FILT (R335). Arms the scan's attribute filter. -/
  | filt (ne : Bool) (d : G) (a : G) (b : G)
  /-- TOPK (R336). Inserts one (distance, id) into the top-k list. -/
  | topk (a : G) (b : G)
  /-- TOPK_INIT (R336). Sets the top-k capacity and empties the list. -/
  | topkInit (k : BitVec 32)
  /-- TKRD (R337). Writes the top-k list with sentinels to memory. -/
  | tkrd (d : G) (m : MemB)
  /-- BDOT (R339). Tree-ordered f32 dot product over vault ranges. -/
  | bdot (d : G) (a : G) (b : G) (c : G)
  /-- BADD (R340). Element-wise f32 add of vault ranges. -/
  | badd (d : G) (a : G) (b : G) (c : G)
  /-- BAXPY (R340). In-place a·x + y over vault ranges. -/
  | baxpy (d : G) (a : G) (b : G) (c : G)
  /-- BFILL (R340). Fills a vault range with a word. -/
  | bfill (d : G) (b : G) (c : G)
  /-- BCOPY (R340). Copies a vault range. -/
  | bcopy (d : G) (a : G) (c : G)
  /-- SRD (R288). Reads a special register. -/
  | srd (d : G) (sr : Sr)
  /-- SWR (R288). Writes a special register. -/
  | swr (sr : Sr) (a : G)
  /-- TRAP (R289). Retires and freezes the context with cause TRAP. -/
  | trap (code : BitVec 16)
  /-- BKPT (R289). Freezes the context at its own address with cause BKPT. -/
  | bkpt
  /-- ISYNC (R290). Waits for outstanding writes and invalidates the tile's instruction cache. -/
  | isync
  /-- ILLEGAL (R182). A fetched word that fails decoding checks freezes the context precisely. -/
  | illegal
  /-- POOLEXEC (R183). A fetched pool unit freezes the context precisely. -/
  | poolexec
  /-- RETURN_TRAP (R328). A tuber context meeting a word outside the profile packs its thread as a return pod. -/
  | returnTrap
  /-- RETURN_POD_SEND (R328). A returning tuber context sends its pod once the tile has charge room. -/
  | returnPodSend (t : Nat) (c : Nat)
  /-- POD_ARRIVAL (R85). A pod reaching its home is installed, put in the arrival ring, or refused. -/
  | podArrival (n : Nat)
  /-- ACCEPT (R89). The origin receiving ACCEPT frees the held context. -/
  | accept (n : Nat)
  /-- REFUSE (R87). The origin receiving REFUSE holds the thread and starts the hold timer. -/
  | refuse (n : Nat)
  /-- CONTEXT_FREE_NOTICE (R87). A notice from a home makes held or parked pods for it be resent, oldest first. -/
  | contextFreeNotice (n : Nat)
  /-- PARK (R87). HOLD_LIMIT expiry parks a held pod in its charge tile's park ring. -/
  | park (t : Nat) (c : Nat)
  /-- PARK_DEPOSIT (R87). A park deposit on VC2 is written into the charge tile's park ring and sent on. -/
  | parkDeposit (n : Nat)
  /-- CHARGE_RELEASE (R86). A charge release decrements the old charge tile's count. -/
  | chargeRelease (n : Nat)
  /-- CONTEXT_FILL (R155). A free user context is filled from the arrival ring, a population or a deque pop. -/
  | contextFill (t : Nat)
  /-- PIN_SPAN_EXPIRY (R92). PSPAN reaching zero ends the automatic pin. -/
  | pinSpanExpiry (t : Nat) (c : Nat)
  /-- GET_REQUEST (R94). The home's handler performs a GET and sends the reply. -/
  | getRequest (t : Nat)
  /-- PUT_REQUEST (R95). The home's handler performs a PUT and acknowledges it. -/
  | putRequest (t : Nat)
  /-- PUTC_REQUEST (R95). The home performs a PUTC write and sends its counter increment. -/
  | putcRequest (t : Nat)
  /-- HANDLER_MESSAGE (R225). The home's handler performs a pinned thread's atomic, sync or counter operation. -/
  | handlerMessage (t : Nat)
  /-- BINDING_QUERY (R113). The word's home answers a pinned GIVE's binding query with the snapshot. -/
  | bindingQuery (t : Nat)
  /-- BINDING_SNAPSHOT (R113). A received snapshot lets the pinned GIVE wait for its covered accesses. -/
  | bindingSnapshot (n : Nat)
  /-- GET_REPLY (R94). A reply writes the pending destination or freezes the context on a fault. -/
  | getReply (n : Nat)
  /-- PUT_ACK (R95). An acknowledgement ends an outstanding write or freezes on a fault. -/
  | putAck (n : Nat)
  /-- COUNTER_INCREMENT (R117). An increment at a counter's home serves its CWAIT entries in list order. -/
  | counterIncrement (n : Nat)
  /-- COMBINING_FLUSH (R97). DRAIN_INT expiry flushes a combining-buffer entry to its home. -/
  | combiningFlush (t : Nat) (e : Nat)
  /-- ATOMIC_FLUSH (R96). The home applies flushed combining entries in order and acknowledges them. -/
  | atomicFlush (t : Nat)
  /-- ATOMIC_ACK (R236). An entry acknowledgement ends the atomics or freezes contributors on a fault. -/
  | atomicAck (n : Nat)
  /-- WAIT_RECORD_DEPOSIT (R108). A wait record and pod are written into the charge tile's slot. -/
  | waitRecordDeposit (n : Nat)
  /-- LINK_UPDATE (R108). A VC2 link update writes a deferred-list pointer in a remote record. -/
  | linkUpdate (n : Nat)
  /-- WAKE (R109). A wake at the charge tile resends the waiter's pod or answers a pinned waiter. -/
  | wake (n : Nat)
  /-- WAKE_RETURN (R110). A TAKE value returned from an unlinked record is served as a GIVE. -/
  | wakeReturn (n : Nat)
  /-- SPAWNX_RECORD (R156). A home pushes or refuses a remote record and replies. -/
  | spawnxRecord (t : Nat)
  /-- SPAWNX_REPLY (R273). The outcome reply sets the SPAWNX predicate. -/
  | spawnxReply (n : Nat)
  /-- BALANCE_PERIOD (R157). BAL_INT expiry reports depth and ships records to the least-loaded neighbour. -/
  | balancePeriod (t : Nat)
  /-- DEPTH_REPORT (R157). A neighbour's depth report is recorded. -/
  | depthReport (n : Nat)
  /-- BALANCE_SHIPMENT (R157). A receiver pushes accepted shipped records and replies with the count. -/
  | balanceShipment (t : Nat)
  /-- SHIPMENT_REPLY (R157). The sender restores refused entries at its oldest end. -/
  | shipmentReply (n : Nat)
  /-- EDGE_REQUEST (R98). An edge request is performed at its channel and answered. -/
  | edgeRequest (n : Nat)
  /-- EDGE_REPLY (R98). An edge reply writes the destination or freezes the context. -/
  | edgeReply (n : Nat)
  /-- PORT_WORD (R163). A port word enters the receiving port's queue. -/
  | portWord (n : Nat)
  /-- PORT_CREDIT (R163). A returned credit lets a waiting port write send. -/
  | portCredit (n : Nat)
  /-- LEAD_RESERVATION (R276). A reservation reaches a tile and is held or contested by rank. -/
  | leadReservation (n : Nat)
  /-- GANG_FORM (R159). When all k followers are reserved and armed they become followers at once. -/
  | gangForm (t : Nat) (c : Nat)
  /-- PANE_CLAIM_GRANT (R45). A waiting claim takes its slots when they reach the required state. -/
  | paneClaimGrant (t : Nat) (h : H)
  /-- COPY_UNIT_FILL (R47). The stream copy unit fills an empty slot and makes it ready. -/
  | copyUnitFill (t : Nat) (h : H)
  /-- BARRIER_PHASE_COMPLETE (R244). When every tile of the rectangle has arrived, PH increments and waits complete. -/
  | barrierPhaseComplete (t : Nat) (u : Nat)
  /-- BARRIER_TIMEOUT (R245). A barrier wait's timeout sets its predicate false. -/
  | barrierTimeout (t : Nat) (c : Nat)
  /-- JOB_START (R134). An eligible job is started on a free engine by priority and age. -/
  | jobStart (t : Nat) (kind : Nat)
  /-- JOB_COMPLETION (R142). A finished job writes its status, increments its counter and frees its entry. -/
  | jobCompletion (t : Nat) (j : Nat)
  /-- ELEMENT_REQUEST (R141). A home performs an engine's VC6 element request and replies into its reserved slot. -/
  | elementRequest (n : Nat)
  /-- ELEMENT_REPLY (R141). An engine receives an element reply or acknowledgement. -/
  | elementReply (n : Nat)
  /-- VC6_CREDIT (R141). A returned VC6 credit lets a waiting unit send. -/
  | vc6Credit (n : Nat)
  /-- COLL_CONTRIBUTION (R141). A router combines collective contributions in fixed order and sends them on. -/
  | collContribution (t : Nat) (j : Nat)
  /-- COLL_RESULT (R140). A collective result travels down into members' destinations. -/
  | collResult (t : Nat) (j : Nat)
  /-- MRED_CONTRIBUTION (R311). The root receives a participant's cells into its rank's buffer or refuses it. -/
  | mredContribution (n : Nat)
  /-- MATRIX_START (R314). The engine starts the next queued matrix instruction and runs its attempts. -/
  | matrixStart (t : Nat) (upset : List Nat)
  /-- MATRIX_COMPLETE (R304). A matrix instruction writes its count word, status and phase counter. -/
  | matrixComplete (t : Nat)
  /-- TUBER_CONTEXT_FILL (R325). A free tuber context takes a restorable saved thread or the next unstarted thread. -/
  | tuberContextFill (t : Nat)
  /-- TUBER_PREEMPT (R329). A lower-priority tuber context is stopped at a boundary for an unplaced thread. -/
  | tuberPreempt (t : Nat) (c : Nat)
  /-- TUBER_SAVE (R330). A pre-empted tuber context's state is written to a save slot and freed. -/
  | tuberSave (t : Nat) (c : Nat)
  /-- BANK_ACCESS_COMPLETE (R327). A tuber access or operator completes and its context becomes ready. -/
  | bankAccessComplete (t : Nat) (c : Nat)
  /-- AGED_REQUEST (R327). A tuber request waiting 512 tuber cycles takes the next bank slot. -/
  | agedRequest (t : Nat) (c : Nat)
  /-- NCMD_REPLY (R287). The operator's reply writes D, frees the window entry or freezes on a cause. -/
  | ncmdReply (n : Nat)
  /-- WAKE_NOTICE (R344). The command processor reads the queue's wake word. -/
  | wakeNotice (n : Nat)
  /-- PACKET_TAKE (R347). The processor copies and checks the next packet and writes the read count. -/
  | packetTake (q : Nat)
  /-- PACKET_PREFETCH (R354). Packets behind a blocked one have code and arguments prefilled. -/
  | packetPrefetch (q : Nat)
  /-- LAUNCH (R348). A LAUNCH packet takes a launch index, writes the launch word and installs populations. -/
  | launch (q : Nat) (j : Nat)
  /-- TILE_VACATED (R373). A held tile with no victim work left begins the pre-empting population. -/
  | tileVacated (t : Nat) (li : Nat)
  /-- JOB_PACKET (R352). A JOB packet submits its card to the card's home scheduler. -/
  | jobPacket (q : Nat) (j : Nat)
  /-- GRAPH (R356). A GRAPH packet takes an argument copy, applies patches and starts a replay. -/
  | graph (q : Nat) (j : Nat)
  /-- GRAPH_NODE_START (R356). A replay node starts when its predecessors and earlier replays' node completed. -/
  | graphNodeStart (q : Nat) (j : Nat) (nd : Nat)
  /-- WAIT_PACKET (R352). A WAIT packet completes when its counter reaches the target. -/
  | waitPacket (q : Nat) (j : Nat)
  /-- SIGNAL (R352). A SIGNAL packet adds its increment to a counter. -/
  | signal (q : Nat) (j : Nat)
  /-- BARRIER_PACKET (R352). A BARRIER packet completes when all earlier packets of its queue have. -/
  | barrierPacket (q : Nat) (j : Nat)
  /-- LAUNCH_END (R350). The launch word reaching zero ends the launch and frees its index. -/
  | launchEnd (pid : Nat) (li : Nat)
  /-- PROMOTE_EXPIRY (R353). A queue waiting PROMOTE_INT rises one class. -/
  | promoteExpiry (q : Nat)
  /-- QUEUE_RESET_RETRY (R347). Firmware restarts a stopped queue, taking the failing packet again. -/
  | queueResetRetry (q : Nat)
  /-- QUEUE_RESET_SKIP (R347). Firmware restarts a stopped queue, counting the failing packet as taken. -/
  | queueResetSkip (q : Nat)
  /-- CREATE_QUEUE (R343). Firmware creates a user queue from a descriptor or refuses it with a code. -/
  | createQueue (pid : Nat) (desc : QDesc)
  /-- FAULT_PACKET (R361). The supervisor tile writes a fault packet into its ring or counts it lost. -/
  | faultPacket (n : Nat)
  /-- SERVICE (R365). Takes a frozen context into service. -/
  | service (w : Writer) (t : Nat) (c : Nat)
  /-- RESUME (R365). Makes an in-service context ready at its frame's PC. -/
  | resume (w : Writer) (t : Nat) (c : Nat) (rls : Bool)
  /-- STEP (R367). Resumes a context for one pinned instruction then freezes it with STEP. -/
  | step (w : Writer) (t : Nat) (c : Nat) (rls : Bool)
  /-- STOP (R365). Freezes a context at its next boundary with SUPSTOP. -/
  | stop (w : Writer) (t : Nat) (c : Nat)
  /-- KILL (R366). Ends a frozen or in-service thread without EXIT's waits. -/
  | kill (w : Writer) (t : Nat) (c : Nat)
  /-- RELOCATE (R365). Packs a frozen thread as a relocation pod to the DTGT tile. -/
  | relocate (w : Writer) (t : Nat) (c : Nat)
  /-- PSLOT_KILL (R365). Kills the thread whose pod or record stands in a park-ring slot. -/
  | pslotKill (w : Writer) (t : Nat) (v : BitVec 64)
  /-- PSLOT_RELOCATE (R365). Sends a park-ring slot's pod to a named tile. -/
  | pslotRelocate (w : Writer) (t : Nat) (v : BitVec 64)
  /-- TLBI_ALL (R36). A TLBI write with ALL = 1 invalidates every TLB entry and restarts walks. -/
  | tlbiAll (w : Writer) (t : Nat) (v : BitVec 64)
  /-- TLBI_PAGE (R36). A TLBI write invalidates entries of one page and restarts walks. -/
  | tlbiPage (w : Writer) (t : Nat) (v : BitVec 64)
  /-- WINDOW_ENABLE (R72). A WCTL write with EN = 1 checks and enables the window and advances GEN. -/
  | windowEnable (w : Writer) (t : Nat) (wn : Fin 16) (v : BitVec 64)
  /-- WINDOW_DISABLE (R72). A WCTL write with EN = 0 disables the window and advances GEN. -/
  | windowDisable (w : Writer) (t : Nat) (wn : Fin 16) (v : BitVec 64)
  /-- WINDOW_GEOMETRY_WRITE (R72). A geometry word write takes effect only while the window is disabled. -/
  | windowGeometryWrite (w : Writer) (t : Nat) (wn : Fin 16) (k : Fin 4) (v : BitVec 64)
  /-- REGISTER_WRITE (R28). A write to a system-space or debug register without its own row, refused where not permitted. -/
  | registerWrite (w : Writer) (t : Nat) (off : Nat) (v : BitVec 64)
  /-- BAR2_REQUEST (R385). A host BAR2 access is performed at its home with the partition's rights. -/
  | bar2Request (sc : Nat) (pid : Nat) (off : Nat) (data : Option (List (BitVec 8))) (len : Nat)
  /-- CREATE_PARTITION (R379). Firmware creates a partition over free blocks and clears its state. -/
  | createPartition (r : PartReq)
  /-- DESTROY_PARTITION (R379). Firmware kills all work and zeroises a partition. -/
  | destroyPartition (pid : Nat)
  /-- KEY_LOAD (R381). The crown unwraps a key pair and loads the slot everywhere. -/
  | keyLoad (pid : Nat) (k : Fin 16) (wrapped : List (BitVec 8))
  /-- KEY_REVOKE (R382). Each tile and engine stops, zeroises and invalidates a key id. -/
  | keyRevoke (pid : Nat) (k : Fin 16) (unit : Nat)
  /-- REVOCATION_DONE (R382). Once all units confirm, the crown reports revocation done. -/
  | revocationDone (pid : Nat) (k : Fin 16)
  /-- EDGE_SEGMENT_KEY (R56). Firmware sets the key id of a 1 GiB edge segment. -/
  | edgeSegmentKey (pid : Nat) (seg : Nat) (k : Fin 16)
  /-- PEER_SEGMENT (R386). Firmware marks an edge segment as a peer segment. -/
  | peerSegment (pid : Nat) (seg : Nat) (link : Nat) (tgt : PeerTarget)
  /-- GROUP_TABLE_WRITE (R138). Firmware writes a router group-table entry. -/
  | groupTableWrite (t : Nat) (i : Fin 64) (v : BitVec 64)
  /-- LOAD_IMAGE (R196). Firmware checks and loads a load image into a partition. -/
  | loadImage (pid : Nat) (image : List (BitVec 8)) (places : List Nat)
  /-- SET_PARAMETER (R93). Firmware writes a tile parameter register, refusing values out of range. -/
  | setParameter (t : Nat) (p : Param) (v : Nat)
  /-- SET_BUDGET (R388). The host driver sets the module power budget. -/
  | setBudget (w : Nat)
  /-- RETIRE_TILE (R99). Firmware moves a logical tile onto a spare and leaves a forwarding stub. -/
  | retireTile (t : Nat)
  /-- LINK_RESET (R101). Both ends reset a link and replay unconfirmed packets; a and b number its routers, 128 PY + PX. -/
  | linkReset (a : Nat) (b : Nat)
  /-- LINK_RETRY (R58). A flit or packet CRC failure is retried over the hop. -/
  | linkRetry (a : Nat) (b : Nat)
  /-- ROUTER_FAILURE (R23). A header parity failure takes the field down. -/
  | routerFailure (f : Nat)
  /-- RETENTION_ENTRY (R55). An idle array re-encodes into retention after its threshold. -/
  | retentionEntry (t : Nat) (a : Arr)
  /-- RETENTION_EXIT (R55). An access to a retained array waits for its exit. -/
  | retentionExit (t : Nat) (a : Arr)
  /-- SCRUB (R417). The controller reads and corrects vault sectors in idle slots. -/
  | scrub (t : Nat) (sector : Nat)
  /-- COOLING_FAULT (R388). An outlet above 45 C halves every field allotment. -/
  | coolingFault
  /-- COOLING_CLEAR (R388). An outlet below 40 C restores the allotments. -/
  | coolingClear
  /-- THERMAL_STOP (R388). An outlet above 55 C stops the module. -/
  | thermalStop
  /-- BUDGET_SHARE (R388). The crown shares the budget among fields every 2^20 cycles. -/
  | budgetShare (demand : List Nat)
  /-- LEASE_TIMEOUT (R387). A follower without renewal becomes a candidate at the next epoch. -/
  | leaseTimeout (f : Nat)
  /-- CANDIDATE_TIMEOUT (R387). A candidate without majority retries at the next epoch. -/
  | candidateTimeout (f : Nat)
  /-- VOTE_REQUEST (R387). A core casts its one vote of the epoch. -/
  | voteRequest (n : Nat)
  /-- VOTE (R387). A candidate counting 33 votes becomes crown. -/
  | vote (n : Nat)
  /-- CROWN_RENEWAL (R387). The crown renews its lease every 2^22 cycles. -/
  | crownRenewal (f : Nat)
  /-- RENEWAL (R387). A core receiving a renewal restarts its timer or steps down on a higher epoch. -/
  | renewal (n : Nat)
  /-- CROWN_EXPIRY (R387). A crown without acknowledgement for 2^23 cycles becomes a follower. -/
  | crownExpiry (f : Nat)
  /-- LINK_TRAINING (R386). Two crowns agree a module link key by SM2. -/
  | linkTraining (link : Nat)
  /-- BRING_UP (R390). At power-on or reset each firmware core tests, builds the embedding and elects the crown: the defect
  map's spares, the fields' bands and what the tests find. -/
  | bringUp (spares : SpareMap) (bands : List Nat) (reduced : TestMap)
  /-- PREF_FILL_COMPLETE (R50). When the fill of the last line of a PREF range has completed, the controller adds the increment to the counter at its home. -/
  | prefFillComplete (t : Nat) (i : Nat)
  /-- ABORT_JOB (R139). The supervisor or firmware ends a waiting collective job or MRED with status ABORT. -/
  | abortJob (t : Nat) (j : Nat)
  /-- PEER_WAKE_STORE (R344). A peer module's wake store arriving over a module link is performed at its home and sends a wake notice. -/
  | peerWakeStore (link : Nat) (addr : BitVec 64) (v : BitVec 64)
  /-- ATTESTATION_REPORT (R390). The crown signs an attestation report over firmware hashes, the defect map hash and the requested partition configuration. -/
  | attestationReport (pid : Nat)
  deriving DecidableEq, Repr

end Sys2Proof
end

