-- ==== Sys2Proof/WellFormed.lean ====
section
/-! DEFINITION. Sys2Proof/WellFormed.lean: the checks of R182 on a decoded instruction that its operand types do not
already make: type codes, ranges of numbers, register pairs, accepted modifiers. -/

namespace Sys2Proof

/-- TY 0 to 7 (R197). -/
def Ty.isInt : Ty → Bool
  | .u8 | .i8 | .u16 | .i16 | .u32 | .i32 | .u64 | .i64 => true
  | _ => false
/-- TY 1, 3, 5, 7: the signed sizes (Table 10.1). -/
def Ty.isSInt : Ty → Bool
  | .i8 | .i16 | .i32 | .i64 => true
  | _ => false
/-- TY 0, 2, 4, 6: the unsigned sizes (Table 10.1). -/
def Ty.isUInt : Ty → Bool
  | .u8 | .u16 | .u32 | .u64 => true
  | _ => false
/-- TY 9 and 10 (R216). -/
def Ty.isScalarF : Ty → Bool
  | .f32 | .f64 => true
  | _ => false
/-- The types FCVT converts between (R221). -/
def Ty.isCvt : Ty → Bool
  | .i32 | .u32 | .i64 | .u64 | .f32 | .f64 => true
  | _ => false
/-- TY 0 to 8 (R228). -/
def Ty.isMem (t : Ty) : Bool := t.isInt || t == .u128
/-- TY 4 to 7 (Table 11.5). -/
def Ty.isAtom : Ty → Bool
  | .u32 | .i32 | .u64 | .i64 => true
  | _ => false
/-- The vector codes of Table 12.1. -/
def Ty.isVec : Ty → Bool
  | .u32 | .i32 | .f32 | .i16x2 | .h16x2 | .b16x2 | .i8x4 => true
  | _ => false
/-- I of Table 12.2. -/
def Ty.isVecI : Ty → Bool
  | .u32 | .i32 | .i16x2 | .i8x4 => true
  | _ => false
/-- The signed integers of I. -/
def Ty.isVecS : Ty → Bool
  | .i32 | .i16x2 | .i8x4 => true
  | _ => false
/-- F of Table 12.2. -/
def Ty.isVecF : Ty → Bool
  | .f32 | .h16x2 | .b16x2 => true
  | _ => false
/-- Element width of a vector code (Table 12.1). -/
def Ty.vw : Ty → Nat
  | .i16x2 | .h16x2 | .b16x2 => 16
  | .i8x4 => 8
  | _ => 32
/-- The bitwise reductions, which TY 9 does not accept (R263). -/
def RedOp.isBit : RedOp → Bool
  | .and | .or | .xor => true
  | _ => false
/-- The special registers whose SWR column reads RW (Table 9.6). -/
def Sr.writable : Sr → Bool
  | .hop | .vlive | .fcr | .fst | .win _ _ => true
  | _ => false
/-- R260: two different vector types, no 8-bit with 16-bit pair, PART below 32/W of the narrower type and 0 for equal
widths. -/
def vcvtOk (dt st : Ty) (part : BitVec 2) : Bool :=
  dt.isVec && st.isVec && dt != st &&
    (if dt.vw = st.vw then part == 0
     else if dt.vw = 32 then decide (part.toNat < 32 / st.vw)
     else if st.vw = 32 then decide (part.toNat < 32 / dt.vw)
     else false)

/-- Whether an instruction obeys the checks that R170, R172 and its own description make (R182). The events have no
encoding, and no check applies to them. -/
def Instr.wf : Instr → Bool
  | .add ty _ _ _ => ty.isInt
  | .sub ty _ _ _ => ty.isInt
  | .mul ty _ _ _ => ty.isInt
  | .mulh ty _ _ _ => ty.isSInt
  | .mulhu ty _ _ _ => ty.isUInt
  | .div ty _ _ _ => ty.isSInt
  | .divu ty _ _ _ => ty.isUInt
  | .rem ty _ _ _ => ty.isSInt
  | .remu ty _ _ _ => ty.isUInt
  | .neg ty _ _ => ty.isInt
  | .abs ty _ _ => ty.isSInt
  | .min ty _ _ _ => ty.isSInt
  | .max ty _ _ _ => ty.isSInt
  | .minu ty _ _ _ => ty.isUInt
  | .maxu ty _ _ _ => ty.isUInt
  | .and ty _ _ _ => ty.isInt
  | .or ty _ _ _ => ty.isInt
  | .xor ty _ _ _ => ty.isInt
  | .andn ty _ _ _ => ty.isInt
  | .orn ty _ _ _ => ty.isInt
  | .xnor ty _ _ _ => ty.isInt
  | .not ty _ _ => ty.isInt
  | .shl ty _ _ _ => ty.isInt
  | .shr ty _ _ _ => ty.isInt
  | .sra ty _ _ _ => ty.isInt
  | .rol ty _ _ _ => ty.isInt
  | .ror ty _ _ _ => ty.isInt
  | .clz ty _ _ => ty.isInt
  | .ctz ty _ _ => ty.isInt
  | .popc ty _ _ => ty.isInt
  | .brev ty _ _ => ty.isInt
  | .bswap ty _ _ => ty.isInt
  | .bext _ _ pos len => (decide (1 ≤ len.toNat) && decide (pos.toNat + len.toNat ≤ 64))
  | .bextu _ _ pos len => (decide (1 ≤ len.toNat) && decide (pos.toNat + len.toNat ≤ 64))
  | .bins _ _ pos len => (decide (1 ≤ len.toNat) && decide (pos.toNat + len.toNat ≤ 64))
  | .mov ty _ _ => ty.isInt
  | .movi _ _ _ => true
  | .movh _ _ => true
  | .sel ty _ _ _ _ => ty.isInt
  | .sext _ _ w => (decide (1 ≤ w.toNat) && decide (w.toNat ≤ 64))
  | .zext _ _ w => (decide (1 ≤ w.toNat) && decide (w.toNat ≤ 64))
  | .lea _ _ => true
  | .gaddr _ _ _ => true
  | .home _ _ => true
  | .nbr _ _ _ => true
  | .cmp c ty _ _ _ => (ty.isInt && c != .un)
  | .tst c ty _ _ _ => (ty.isInt && (c == .eq || c == .ne))
  | .pand _ _ _ => true
  | .por _ _ _ => true
  | .pxor _ _ _ => true
  | .pnot _ _ => true
  | .pmov _ _ => true
  | .pset _ _ => true
  | .br _ => true
  | .brx _ => true
  | .call _ => true
  | .callx _ => true
  | .ret => true
  | .loop _ _ => true
  | .nop => true
  | .exit => true
  | .fadd _ ty _ _ _ => ty.isScalarF
  | .fsub _ ty _ _ _ => ty.isScalarF
  | .fmul _ ty _ _ _ => ty.isScalarF
  | .ffma _ ty _ _ _ => ty.isScalarF
  | .fdiv _ ty _ _ _ => ty.isScalarF
  | .fsqrt _ ty _ _ => ty.isScalarF
  | .fmin ty _ _ _ => ty.isScalarF
  | .fmax ty _ _ _ => ty.isScalarF
  | .fabs ty _ _ => ty.isScalarF
  | .fneg ty _ _ => ty.isScalarF
  | .fcmp _ ty _ _ _ => ty.isScalarF
  | .fcvt _ dt sty _ _ => (dt.isCvt && sty.isCvt && dt != sty && (dt.isScalarF || sty.isScalarF))
  | .fclass ty _ _ => ty.isScalarF
  | .ld ty d _ => (ty.isMem && (ty != .u128 || (d.val % 2 == 0 && d.val != 0)))
  | .st ty d _ => (ty.isMem && (ty != .u128 || (d.val % 2 == 0 && d.val != 0)))
  | .get ty d _ => (ty.isMem && (ty != .u128 || (d.val % 2 == 0 && d.val != 0)))
  | .put ty d _ => (ty.isMem && (ty != .u128 || (d.val % 2 == 0 && d.val != 0)))
  | .putc ty d _ _ _ => (ty.isMem && (ty != .u128 || (d.val % 2 == 0 && d.val != 0)))
  | .migr _ _ => true
  | .pin => true
  | .unpin => true
  | .vld ty _ _ _ => ty.isVec
  | .vst ty _ _ _ => ty.isVec
  | .vlds ty _ _ _ _ _ => ty.isVec
  | .vsts ty _ _ _ _ _ => ty.isVec
  | .vgath ty _ _ _ _ b => (ty.isVec && b.val % 2 == 0)
  | .vscat ty _ _ _ _ b => (ty.isVec && b.val % 2 == 0)
  | .aadd ty _ _ => ty.isAtom
  | .afadd ty _ _ => ty.isScalarF
  | .amin ty _ _ => ty.isAtom
  | .amax ty _ _ => ty.isAtom
  | .aand ty _ _ => ty.isAtom
  | .aor ty _ _ => ty.isAtom
  | .axor ty _ _ => ty.isAtom
  | .xadd ty _ _ _ => ty.isAtom
  | .xchg ty _ _ _ => ty.isAtom
  | .cas ty _ _ _ => ty.isAtom
  | .take _ _ => true
  | .tryt _ _ _ => true
  | .give _ _ _ => true
  | .peek _ _ => true
  | .sete _ => true
  | .feq _ _ => true
  | .bind _ _ _ _ => true
  | .unbind _ _ _ _ => true
  | .fenceAcq _ => true
  | .fenceRel _ => true
  | .fenceFull _ => true
  | .cwait _ _ => true
  | .ctest _ _ _ => true
  | .barr _ _ _ _ _ => true
  | .bara _ _ _ => true
  | .barw _ _ _ => true
  | .pref _ _ d inc => (d.val != 0 || inc == 0)
  | .lockl _ _ _ _ => true
  | .unlockl _ _ => true
  | .wback _ _ => true
  | .wbinv _ _ => true
  | .inval _ _ => true
  | .spawn _ _ _ _ => true
  | .spawnIndirect _ _ _ _ => true
  | .spawnx _ _ _ _ _ => true
  | .join _ => true
  | .yield => true
  | .lead k _ => (k != 0)
  | .follow => true
  | .unlead => true
  | .pclaim _ _ => true
  | .pfree _ => true
  | .pcfg _ _ => true
  | .sopen _ _ => true
  | .sclose _ => true
  | .pwait _ _ _ => true
  | .padvP _ _ => true
  | .padvC _ _ => true
  | .pfill _ _ _ => true
  | .pstat _ _ _ => true
  | .vpop ty _ _ => ty.isVec
  | .vpush ty _ _ => ty.isVec
  | .job _ _ => true
  | .ncmd _ _ _ => true
  | .mlds _ _ nc => (decide (1 ≤ nc.toNat) && decide (nc.toNat ≤ 64))
  | .mswp => true
  | .mmul _ _ => true
  | .mmulg _ _ => true
  | .mred _ _ => true
  | .msto _ _ => true
  | .mzero _ => true
  | .mstat _ _ which => decide (which.toNat ≤ 2)
  | .vadd m ty _ _ _ => (ty.isVec && (!m.sat || ty.isVecI))
  | .vsub m ty _ _ _ => (ty.isVec && (!m.sat || ty.isVecI))
  | .vmul m ty _ _ _ => (ty.isVec && !m.sat)
  | .vfma m ty _ _ _ => (ty.isVec && !m.sat)
  | .vfms m ty _ _ _ => (ty.isVec && !m.sat)
  | .vmin m ty _ _ _ => (ty.isVec && !m.sat)
  | .vmax m ty _ _ _ => (ty.isVec && !m.sat)
  | .vabs m ty _ _ => ((ty.isVecS || ty.isVecF) && (!m.sat || ty.isVecI))
  | .vneg m ty _ _ => ((ty.isVecS || ty.isVecF) && (!m.sat || ty.isVecI))
  | .vand m ty _ _ _ => (ty.isVec && !m.sat)
  | .vor m ty _ _ _ => (ty.isVec && !m.sat)
  | .vxor m ty _ _ _ => (ty.isVec && !m.sat)
  | .vshl m ty _ _ _ => (ty.isVecI && !m.sat)
  | .vshr m ty _ _ _ => (ty.isVecI && !m.sat)
  | .vsra m ty _ _ _ => (ty.isVecI && !m.sat)
  | .vcmp c ty _ _ _ => ((ty == .u32 || ty == .i32 || ty == .f32) && (c != .un || ty == .f32))
  | .vsel _ ty _ _ _ => ty.isVec
  | .vrcp m ty _ _ => (ty == .f32 && !m.sat)
  | .vrsq m ty _ _ => (ty == .f32 && !m.sat)
  | .vexp2 m ty _ _ => (ty == .f32 && !m.sat)
  | .vlog2 m ty _ _ => (ty == .f32 && !m.sat)
  | .vdiv m ty _ _ _ => (ty == .f32 && !m.sat)
  | .vsqrt m ty _ _ => (ty == .f32 && !m.sat)
  | .vpopc m ty _ _ => ((ty == .u32 || ty == .i32) && !m.sat)
  | .vdot4 _ ty _ _ _ => ty == .i8x4
  | .vcvt _ _ _ dt sty part _ _ => vcvtOk dt sty part
  | .vqnt ty d a tier scale => ((ty == .f32 || (ty == .i32 && scale.isNone)) && d.val % 2 == 0 && a.val % 2 == 0 && decide (tier.toNat ≤ 4))
  | .vdqt d a tier => (d.val % 2 == 0 && a.val % 2 == 0 && decide (tier.toNat ≤ 4))
  | .vred op ty _ _ _ => ((ty == .u32 || ty == .i32 || ty == .f32) && (ty != .f32 || !op.isBit))
  | .vscan op _ ty _ _ _ _ => ((ty == .u32 || ty == .i32 || ty == .f32) && (ty != .f32 || !op.isBit))
  | .vperm ty _ _ _ _ _ => ty.isVec
  | .vbcast ty _ _ _ _ => ty.isVec
  | .vext ty _ _ _ => ty.isVec
  | .vins ty _ _ _ => ty.isVec
  | .kand _ _ _ => true
  | .kor _ _ _ => true
  | .knot _ _ => true
  | .kmov _ => true
  | .kpopc _ _ => true
  | .bscan _ _ _ => true
  | .hamm _ _ => true
  | .filt _ _ _ _ => true
  | .topk _ _ => true
  | .topkInit k => (decide (1 ≤ k.toNat) && decide (k.toNat ≤ 64))
  | .tkrd _ _ => true
  | .bdot _ _ _ _ => true
  | .badd _ _ _ _ => true
  | .baxpy _ _ _ _ => true
  | .bfill _ _ _ => true
  | .bcopy _ _ _ => true
  | .srd _ _ => true
  | .swr sr _ => sr.writable
  | .trap _ => true
  | .bkpt => true
  | .isync => true
  | .illegal => true
  | .poolexec => true
  | .returnTrap => true
  | .returnPodSend _ _ => true
  | .podArrival _ => true
  | .accept _ => true
  | .refuse _ => true
  | .contextFreeNotice _ => true
  | .park _ _ => true
  | .parkDeposit _ => true
  | .chargeRelease _ => true
  | .contextFill _ => true
  | .pinSpanExpiry _ _ => true
  | .getRequest _ => true
  | .putRequest _ => true
  | .putcRequest _ => true
  | .handlerMessage _ => true
  | .bindingQuery _ => true
  | .bindingSnapshot _ => true
  | .getReply _ => true
  | .putAck _ => true
  | .counterIncrement _ => true
  | .combiningFlush _ _ => true
  | .atomicFlush _ => true
  | .atomicAck _ => true
  | .waitRecordDeposit _ => true
  | .linkUpdate _ => true
  | .wake _ => true
  | .wakeReturn _ => true
  | .spawnxRecord _ => true
  | .spawnxReply _ => true
  | .balancePeriod _ => true
  | .depthReport _ => true
  | .balanceShipment _ => true
  | .shipmentReply _ => true
  | .edgeRequest _ => true
  | .edgeReply _ => true
  | .portWord _ => true
  | .portCredit _ => true
  | .leadReservation _ => true
  | .gangForm _ _ => true
  | .paneClaimGrant _ _ => true
  | .copyUnitFill _ _ => true
  | .barrierPhaseComplete _ _ => true
  | .barrierTimeout _ _ => true
  | .jobStart _ _ => true
  | .jobCompletion _ _ => true
  | .elementRequest _ => true
  | .elementReply _ => true
  | .vc6Credit _ => true
  | .collContribution _ _ => true
  | .collResult _ _ => true
  | .mredContribution _ => true
  | .matrixStart _ _ => true
  | .matrixComplete _ => true
  | .tuberContextFill _ => true
  | .tuberPreempt _ _ => true
  | .tuberSave _ _ => true
  | .bankAccessComplete _ _ => true
  | .agedRequest _ _ => true
  | .ncmdReply _ => true
  | .wakeNotice _ => true
  | .packetTake _ => true
  | .packetPrefetch _ => true
  | .launch _ _ => true
  | .tileVacated _ _ => true
  | .jobPacket _ _ => true
  | .graph _ _ => true
  | .graphNodeStart _ _ _ => true
  | .waitPacket _ _ => true
  | .signal _ _ => true
  | .barrierPacket _ _ => true
  | .launchEnd _ _ => true
  | .promoteExpiry _ => true
  | .queueResetRetry _ => true
  | .queueResetSkip _ => true
  | .createQueue _ _ => true
  | .faultPacket _ => true
  | .service _ _ _ => true
  | .resume _ _ _ _ => true
  | .step _ _ _ _ => true
  | .stop _ _ _ => true
  | .kill _ _ _ => true
  | .relocate _ _ _ => true
  | .pslotKill _ _ _ => true
  | .pslotRelocate _ _ _ => true
  | .tlbiAll _ _ _ => true
  | .tlbiPage _ _ _ => true
  | .windowEnable _ _ _ _ => true
  | .windowDisable _ _ _ _ => true
  | .windowGeometryWrite _ _ _ _ _ => true
  | .registerWrite _ _ _ _ => true
  | .bar2Request _ _ _ _ _ => true
  | .createPartition _ => true
  | .destroyPartition _ => true
  | .keyLoad _ _ _ => true
  | .keyRevoke _ _ _ => true
  | .revocationDone _ _ => true
  | .edgeSegmentKey _ _ _ => true
  | .peerSegment _ _ _ _ => true
  | .groupTableWrite _ _ _ => true
  | .loadImage _ _ _ => true
  | .setParameter _ _ _ => true
  | .setBudget _ => true
  | .retireTile _ => true
  | .linkReset _ _ => true
  | .linkRetry _ _ => true
  | .routerFailure _ => true
  | .retentionEntry _ _ => true
  | .retentionExit _ _ => true
  | .scrub _ _ => true
  | .coolingFault => true
  | .coolingClear => true
  | .thermalStop => true
  | .budgetShare _ => true
  | .leaseTimeout _ => true
  | .candidateTimeout _ => true
  | .voteRequest _ => true
  | .vote _ => true
  | .crownRenewal _ => true
  | .renewal _ => true
  | .crownExpiry _ => true
  | .linkTraining _ => true
  | .bringUp _ _ _ => true
  | .prefFillComplete _ _ => true
  | .abortJob _ _ => true
  | .peerWakeStore _ _ _ => true
  | .attestationReport _ => true

end Sys2Proof
end

