-- ==== Sys2Proof/Decode.lean ====
section
/-! DEFINITION. Sys2Proof/Decode.lean: the 96-bit instruction word (R166), the encoder and the decoder. The decoder
reads the operands that the major and FN name, and accepts the word only if they are well formed and if encoding them
again gives the word's own fields: so an unaccepted class, a reserved value, and a nonzero unused field are all rejected
(R170, R172, R182). -/

namespace Sys2Proof

/-- The fields of Tables 9.1 and 9.3 that belong to the operation, guard and hints apart. -/
structure Fields where
  opc : BitVec 8
  fn : BitVec 6
  d : BitVec 8
  a : BitVec 8
  b : BitVec 8
  ty : BitVec 4
  scp : BitVec 4
  ord : BitVec 2
  ims : Bool
  izx : Bool
  fx : BitVec 4
  imm : BitVec 32
  deriving DecidableEq, Repr

/-- The guard and the issue hints of a word (R168, R149, R150). -/
structure Hdr where
  gn : Bool
  gp : P
  st : BitVec 4
  yld : Bool
  deriving DecidableEq, Repr

/-- A decoded word. -/
inductive Decoded where
  /-- OPC = 0xFF: the execute-in-pool trap (R183). -/
  | pool
  /-- A word that fails a check of R182. -/
  | illegal
  /-- A word that passes. -/
  | instr (h : Hdr) (i : Instr)
  deriving DecidableEq, Repr

/-- A word with every operand and modifier field zero. -/
def ins (opc : BitVec 8) (fn : BitVec 6) : Fields :=
  { opc := opc, fn := fn, d := 0, a := 0, b := 0, ty := 0, scp := 0, ord := 0, ims := false, izx := false, fx := 0, imm := 0 }

-- Operand bytes, class and index (Table 9.2).
def gByte (r : G) : BitVec 8 := BitVec.ofNat 8 r.val
def vByte (r : V) : BitVec 8 := BitVec.ofNat 8 (0x20 + r.val)
def pByte (r : P) : BitVec 8 := BitVec.ofNat 8 (0x40 + r.val)
def kByte (r : K) : BitVec 8 := BitVec.ofNat 8 (0x60 + r.val)
def Dir.num : Dir → Nat | .n => 0 | .e => 1 | .s => 2 | .w => 3
def Dir.ofNum (n : Nat) : Dir := match n % 4 with | 0 => .n | 1 => .e | 2 => .s | _ => .w
def dirByte (d : Dir) : BitVec 8 := BitVec.ofNat 8 (0x80 + d.num)
def hByte (r : H) : BitVec 8 := BitVec.ofNat 8 (0xA0 + r.val)
def gpByte : GP → BitVec 8 | .g r => gByte r | .port d => dirByte d
def gOf (b : BitVec 8) : G := Fin.ofNat 16 b.toNat
def vOf (b : BitVec 8) : V := Fin.ofNat 8 b.toNat
def pOf (b : BitVec 8) : P := Fin.ofNat 8 b.toNat
def kOf (b : BitVec 8) : K := Fin.ofNat 4 b.toNat
def hOf (b : BitVec 8) : H := Fin.ofNat 16 b.toNat
def dirOf (b : BitVec 8) : Dir := Dir.ofNum b.toNat
def gpOf (b : BitVec 8) : GP := if b.toNat < 0x80 then .g (gOf b) else .port (dirOf b)

-- Type, condition, rounding and other codes (Tables 9.4, 10.5, 10.8, R217, R263, 9.6).
def Ty.num : Ty → Nat
  | .u8 => 0 | .i8 => 1 | .u16 => 2 | .i16 => 3 | .u32 => 4 | .i32 => 5 | .u64 => 6 | .i64 => 7 | .u128 => 8
  | .f32 => 9 | .f64 => 10 | .i16x2 => 11 | .h16x2 => 12 | .b16x2 => 13 | .i8x4 => 14
def Ty.code (t : Ty) : BitVec 4 := BitVec.ofNat 4 t.num
def tyOf (c : BitVec 4) : Ty :=
  match c.toNat with
  | 0 => .u8 | 1 => .i8 | 2 => .u16 | 3 => .i16 | 4 => .u32 | 5 => .i32 | 6 => .u64 | 7 => .i64 | 8 => .u128
  | 9 => .f32 | 10 => .f64 | 11 => .i16x2 | 12 => .h16x2 | 13 => .b16x2 | _ => .i8x4
def Cond.code : Cond → BitVec 4 | .eq => 0 | .ne => 1 | .lt => 2 | .le => 3 | .gt => 4 | .ge => 5 | .un => 6
def condOf (c : BitVec 4) : Cond :=
  match c.toNat with | 0 => .eq | 1 => .ne | 2 => .lt | 3 => .le | 4 => .gt | 5 => .ge | _ => .un
def RSel.code : RSel → BitVec 4 | .dyn => 0 | .rne => 1 | .rtz => 2 | .rpi => 3 | .rni => 4
def rselOf (c : BitVec 4) : RSel :=
  match c.toNat with | 0 => .dyn | 1 => .rne | 2 => .rtz | 3 => .rpi | _ => .rni
def RedOp.code : RedOp → BitVec 32 | .sum => 0 | .min => 1 | .max => 2 | .and => 3 | .or => 4 | .xor => 5
def redOf (c : BitVec 32) : RedOp :=
  match c.toNat % 8 with | 0 => .sum | 1 => .min | 2 => .max | 3 => .and | 4 => .or | _ => .xor
def Dir.imm (d : Dir) : BitVec 32 := BitVec.ofNat 32 d.num
def dirOfImm (v : BitVec 32) : Dir := Dir.ofNum v.toNat
def Sr.num : Sr → Nat
  | .pc => 0 | .tfl => 1 | .tid => 2 | .hop => 3 | .org => 4 | .vlive => 5 | .fcr => 6 | .fst => 7
  | .prt => 0x10 | .tco => 0x11 | .np d => 0x12 + d.num | .lcyc => 0x16 | .rpc i => 0x20 + i.val
  | .msat => 0x28 | .munf => 0x29 | .movf => 0x2A | .mcan => 0x2B | .win n w => 0x100 + 8 * n.val + w.val
def Sr.code (r : Sr) : BitVec 32 := BitVec.ofNat 32 r.num
def srOf (v : BitVec 32) : Sr :=
  match v.toNat with
  | 0 => .pc | 1 => .tfl | 2 => .tid | 3 => .hop | 4 => .org | 5 => .vlive | 6 => .fcr | 7 => .fst
  | 0x10 => .prt | 0x11 => .tco | 0x12 => .np .n | 0x13 => .np .e | 0x14 => .np .s | 0x15 => .np .w | 0x16 => .lcyc
  | 0x20 => .rpc 0 | 0x21 => .rpc 1 | 0x22 => .rpc 2 | 0x23 => .rpc 3 | 0x24 => .rpc 4 | 0x25 => .rpc 5
  | 0x28 => .msat | 0x29 => .munf | 0x2A => .movf | 0x2B => .mcan
  | n => .win (Fin.ofNat 16 ((n - 0x100) / 8)) (Fin.ofNat 5 ((n - 0x100) % 8))

-- Modifier fields (R172, R224, R251).
def bimm (b : Bool) : BitVec 32 := if b then 1 else 0
def bfx (b : Bool) : BitVec 4 := if b then 1 else 0
def pFx (p : P) : BitVec 4 := BitVec.ofNat 4 p.val
def pFxOf (x : BitVec 4) : P := Fin.ofNat 8 x.toNat
def kFx (k : K) : BitVec 4 := BitVec.ofNat 4 (4 * k.val)
def kFxOf (x : BitVec 4) : K := Fin.ofNat 4 (x.toNat / 4)
def VMod.fx (m : VMod) : BitVec 4 := kFx m.k ||| (if m.sat then 2 else 0) ||| bfx m.z
def vmodOf (x : BitVec 4) : VMod := ⟨kFxOf x, x.getLsbD 1, x.getLsbD 0⟩

-- Operand B with an immediate form (R173, R216, R252).
def srcB : Src → BitVec 8 | .reg x => gpByte x | .imm _ _ => 0
def srcIms : Src → Bool | .reg _ => false | .imm _ _ => true
def srcZx : Src → Bool | .reg _ => false | .imm z _ => z
def srcImm : Src → BitVec 32 | .reg _ => 0 | .imm _ v => v
def srcOf (f : Fields) : Src := if f.ims then .imm f.izx f.imm else .reg (gpOf f.b)
def gsrcB : GSrc → BitVec 8 | .reg x => gByte x | .imm _ _ => 0
def gsrcIms : GSrc → Bool | .reg _ => false | .imm _ _ => true
def gsrcZx : GSrc → Bool | .reg _ => false | .imm z _ => z
def gsrcImm : GSrc → BitVec 32 | .reg _ => 0 | .imm _ v => v
def gsrcOf (f : Fields) : GSrc := if f.ims then .imm f.izx f.imm else .reg (gOf f.b)
def fsrcB : FSrc → BitVec 8 | .reg x => gByte x | .imm _ => 0
def fsrcIms : FSrc → Bool | .reg _ => false | .imm _ => true
def fsrcImm : FSrc → BitVec 32 | .reg _ => 0 | .imm v => v
def fsrcOf (f : Fields) : FSrc := if f.ims then .imm f.imm else .reg (gOf f.b)
def vsrcB : VSrc → BitVec 8 | .v x => vByte x | .g x => gByte x | .imm _ => 0
def vsrcIms : VSrc → Bool | .imm _ => true | _ => false
def vsrcImm : VSrc → BitVec 32 | .imm v => v | _ => 0
def vsrcOf (f : Fields) : VSrc :=
  if f.ims then .imm f.imm else if f.b.toNat < 0x20 then .g (gOf f.b) else .v (vOf f.b)
def optB : Option G → BitVec 8 | some r => gByte r | none => 0
def bsrcA : BSrc → BitVec 8 | .g x => gByte x | .v x _ => vByte x
def bsrcImm : BSrc → BitVec 32 | .g _ => 0 | .v _ l => l.setWidth 32
def bsrcOf (f : Fields) : BSrc := if f.a.toNat < 0x20 then .g (gOf f.a) else .v (vOf f.a) (f.imm.setWidth 4)
def kfD : KForm → BitVec 8 | .kk d _ => kByte d | .gk d _ => kByte d | .kg d _ => gByte d | .imm d _ => kByte d
def kfA : KForm → BitVec 8 | .kk _ a => kByte a | .gk _ a => gByte a | .kg _ a => kByte a | .imm _ _ => 0
def kfIms : KForm → Bool | .imm _ _ => true | _ => false
def kfImm : KForm → BitVec 32 | .imm _ v => v.setWidth 32 | _ => 0
def kfOf (f : Fields) : KForm :=
  if f.ims then .imm (kOf f.d) (f.imm.setWidth 16)
  else if f.d.toNat < 0x20 then .kg (gOf f.d) (kOf f.a)
  else if f.a.toNat < 0x20 then .gk (kOf f.d) (gOf f.a)
  else .kk (kOf f.d) (kOf f.a)

/-- The fields of an instruction (Tables 9.1 to 9.4 and the encoding table of its own chapter), guard and hints apart.
The events have no encoding. -/
def encodeFields : Instr → Option Fields
  | .add ty d a b =>
    some { (ins 0x01 0x00) with d := gpByte d, a := gpByte a, b := srcB b, ty := ty.code, ims := srcIms b, izx := srcZx b, imm := srcImm b }
  | .sub ty d a b =>
    some { (ins 0x01 0x01) with d := gpByte d, a := gpByte a, b := srcB b, ty := ty.code, ims := srcIms b, izx := srcZx b, imm := srcImm b }
  | .mul ty d a b =>
    some { (ins 0x01 0x02) with d := gpByte d, a := gpByte a, b := srcB b, ty := ty.code, ims := srcIms b, izx := srcZx b, imm := srcImm b }
  | .mulh ty d a b =>
    some { (ins 0x01 0x03) with d := gpByte d, a := gpByte a, b := srcB b, ty := ty.code, ims := srcIms b, izx := srcZx b, imm := srcImm b }
  | .mulhu ty d a b =>
    some { (ins 0x01 0x04) with d := gpByte d, a := gpByte a, b := srcB b, ty := ty.code, ims := srcIms b, izx := srcZx b, imm := srcImm b }
  | .div ty d a b =>
    some { (ins 0x01 0x05) with d := gpByte d, a := gpByte a, b := srcB b, ty := ty.code, ims := srcIms b, izx := srcZx b, imm := srcImm b }
  | .divu ty d a b =>
    some { (ins 0x01 0x06) with d := gpByte d, a := gpByte a, b := srcB b, ty := ty.code, ims := srcIms b, izx := srcZx b, imm := srcImm b }
  | .rem ty d a b =>
    some { (ins 0x01 0x07) with d := gpByte d, a := gpByte a, b := srcB b, ty := ty.code, ims := srcIms b, izx := srcZx b, imm := srcImm b }
  | .remu ty d a b =>
    some { (ins 0x01 0x08) with d := gpByte d, a := gpByte a, b := srcB b, ty := ty.code, ims := srcIms b, izx := srcZx b, imm := srcImm b }
  | .neg ty d a =>
    some { (ins 0x01 0x09) with d := gpByte d, a := gpByte a, ty := ty.code }
  | .abs ty d a =>
    some { (ins 0x01 0x0a) with d := gpByte d, a := gpByte a, ty := ty.code }
  | .min ty d a b =>
    some { (ins 0x01 0x0b) with d := gpByte d, a := gpByte a, b := srcB b, ty := ty.code, ims := srcIms b, izx := srcZx b, imm := srcImm b }
  | .max ty d a b =>
    some { (ins 0x01 0x0c) with d := gpByte d, a := gpByte a, b := srcB b, ty := ty.code, ims := srcIms b, izx := srcZx b, imm := srcImm b }
  | .minu ty d a b =>
    some { (ins 0x01 0x0d) with d := gpByte d, a := gpByte a, b := srcB b, ty := ty.code, ims := srcIms b, izx := srcZx b, imm := srcImm b }
  | .maxu ty d a b =>
    some { (ins 0x01 0x0e) with d := gpByte d, a := gpByte a, b := srcB b, ty := ty.code, ims := srcIms b, izx := srcZx b, imm := srcImm b }
  | .and ty d a b =>
    some { (ins 0x02 0x00) with d := gpByte d, a := gpByte a, b := srcB b, ty := ty.code, ims := srcIms b, izx := srcZx b, imm := srcImm b }
  | .or ty d a b =>
    some { (ins 0x02 0x01) with d := gpByte d, a := gpByte a, b := srcB b, ty := ty.code, ims := srcIms b, izx := srcZx b, imm := srcImm b }
  | .xor ty d a b =>
    some { (ins 0x02 0x02) with d := gpByte d, a := gpByte a, b := srcB b, ty := ty.code, ims := srcIms b, izx := srcZx b, imm := srcImm b }
  | .andn ty d a b =>
    some { (ins 0x02 0x03) with d := gpByte d, a := gpByte a, b := srcB b, ty := ty.code, ims := srcIms b, izx := srcZx b, imm := srcImm b }
  | .orn ty d a b =>
    some { (ins 0x02 0x04) with d := gpByte d, a := gpByte a, b := srcB b, ty := ty.code, ims := srcIms b, izx := srcZx b, imm := srcImm b }
  | .xnor ty d a b =>
    some { (ins 0x02 0x05) with d := gpByte d, a := gpByte a, b := srcB b, ty := ty.code, ims := srcIms b, izx := srcZx b, imm := srcImm b }
  | .not ty d a =>
    some { (ins 0x02 0x06) with d := gpByte d, a := gpByte a, ty := ty.code }
  | .shl ty d a b =>
    some { (ins 0x03 0x00) with d := gpByte d, a := gpByte a, b := srcB b, ty := ty.code, ims := srcIms b, izx := srcZx b, imm := srcImm b }
  | .shr ty d a b =>
    some { (ins 0x03 0x01) with d := gpByte d, a := gpByte a, b := srcB b, ty := ty.code, ims := srcIms b, izx := srcZx b, imm := srcImm b }
  | .sra ty d a b =>
    some { (ins 0x03 0x02) with d := gpByte d, a := gpByte a, b := srcB b, ty := ty.code, ims := srcIms b, izx := srcZx b, imm := srcImm b }
  | .rol ty d a b =>
    some { (ins 0x03 0x03) with d := gpByte d, a := gpByte a, b := srcB b, ty := ty.code, ims := srcIms b, izx := srcZx b, imm := srcImm b }
  | .ror ty d a b =>
    some { (ins 0x03 0x04) with d := gpByte d, a := gpByte a, b := srcB b, ty := ty.code, ims := srcIms b, izx := srcZx b, imm := srcImm b }
  | .clz ty d a =>
    some { (ins 0x04 0x00) with d := gpByte d, a := gpByte a, ty := ty.code }
  | .ctz ty d a =>
    some { (ins 0x04 0x01) with d := gpByte d, a := gpByte a, ty := ty.code }
  | .popc ty d a =>
    some { (ins 0x04 0x02) with d := gpByte d, a := gpByte a, ty := ty.code }
  | .brev ty d a =>
    some { (ins 0x04 0x03) with d := gpByte d, a := gpByte a, ty := ty.code }
  | .bswap ty d a =>
    some { (ins 0x04 0x04) with d := gpByte d, a := gpByte a, ty := ty.code }
  | .bext d a pos len =>
    some { (ins 0x04 0x05) with d := gpByte d, a := gpByte a, imm := pos.setWidth 32 ||| len.setWidth 32 <<< 8 }
  | .bextu d a pos len =>
    some { (ins 0x04 0x06) with d := gpByte d, a := gpByte a, imm := pos.setWidth 32 ||| len.setWidth 32 <<< 8 }
  | .bins d a pos len =>
    some { (ins 0x04 0x07) with d := gByte d, a := gpByte a, imm := pos.setWidth 32 ||| len.setWidth 32 <<< 8 }
  | .mov ty d a =>
    some { (ins 0x05 0x00) with d := gpByte d, a := gpByte a, ty := ty.code }
  | .movi d zx v =>
    some { (ins 0x05 0x01) with d := gpByte d, izx := zx, imm := v }
  | .movh d v =>
    some { (ins 0x05 0x02) with d := gByte d, imm := v }
  | .sel ty d a b pn =>
    some { (ins 0x05 0x03) with d := gpByte d, a := gpByte a, b := srcB b, ty := ty.code, ims := srcIms b, izx := srcZx b, fx := pFx pn, imm := srcImm b }
  | .sext d a w =>
    some { (ins 0x05 0x04) with d := gpByte d, a := gpByte a, imm := w }
  | .zext d a w =>
    some { (ins 0x05 0x05) with d := gpByte d, a := gpByte a, imm := w }
  | .lea d m =>
    some { (ins 0x06 0x00) with d := gByte d, a := gByte m.base, b := gByte m.index, fx := m.scale.setWidth 4, imm := m.disp }
  | .gaddr d a b =>
    some { (ins 0x06 0x01) with d := gByte d, a := gByte a, b := gByte b }
  | .home d a =>
    some { (ins 0x06 0x02) with d := gByte d, a := gByte a }
  | .nbr d a dir =>
    some { (ins 0x06 0x03) with d := gByte d, a := gByte a, imm := dir.imm }
  | .cmp c ty d a b =>
    some { (ins 0x08 0x00) with d := pByte d, a := gByte a, b := gsrcB b, ty := ty.code, ims := gsrcIms b, izx := gsrcZx b, fx := c.code, imm := gsrcImm b }
  | .tst c ty d a b =>
    some { (ins 0x08 0x01) with d := pByte d, a := gByte a, b := gsrcB b, ty := ty.code, ims := gsrcIms b, izx := gsrcZx b, fx := c.code, imm := gsrcImm b }
  | .pand d a b =>
    some { (ins 0x08 0x02) with d := pByte d, a := pByte a, b := pByte b }
  | .por d a b =>
    some { (ins 0x08 0x03) with d := pByte d, a := pByte a, b := pByte b }
  | .pxor d a b =>
    some { (ins 0x08 0x04) with d := pByte d, a := pByte a, b := pByte b }
  | .pnot d a =>
    some { (ins 0x08 0x05) with d := pByte d, a := pByte a }
  | .pmov d a =>
    some { (ins 0x08 0x06) with d := pByte d, a := pByte a }
  | .pset d v =>
    some { (ins 0x08 0x07) with d := pByte d, imm := bimm v }
  | .br off =>
    some { (ins 0x0c 0x00) with imm := off }
  | .brx a =>
    some { (ins 0x0c 0x01) with a := gByte a }
  | .call off =>
    some { (ins 0x0c 0x02) with imm := off }
  | .callx a =>
    some { (ins 0x0c 0x03) with a := gByte a }
  | .ret =>
    some (ins 0x0c 0x04)
  | .loop d off =>
    some { (ins 0x0c 0x05) with d := gByte d, imm := off }
  | .nop =>
    some (ins 0x0c 0x06)
  | .exit =>
    some (ins 0x0c 0x07)
  | .fadd rm ty d a b =>
    some { (ins 0x10 0x00) with d := gByte d, a := gByte a, b := fsrcB b, ty := ty.code, ims := fsrcIms b, fx := rm.code, imm := fsrcImm b }
  | .fsub rm ty d a b =>
    some { (ins 0x10 0x01) with d := gByte d, a := gByte a, b := fsrcB b, ty := ty.code, ims := fsrcIms b, fx := rm.code, imm := fsrcImm b }
  | .fmul rm ty d a b =>
    some { (ins 0x10 0x02) with d := gByte d, a := gByte a, b := fsrcB b, ty := ty.code, ims := fsrcIms b, fx := rm.code, imm := fsrcImm b }
  | .ffma rm ty d a b =>
    some { (ins 0x10 0x03) with d := gByte d, a := gByte a, b := fsrcB b, ty := ty.code, ims := fsrcIms b, fx := rm.code, imm := fsrcImm b }
  | .fdiv rm ty d a b =>
    some { (ins 0x10 0x04) with d := gByte d, a := gByte a, b := fsrcB b, ty := ty.code, ims := fsrcIms b, fx := rm.code, imm := fsrcImm b }
  | .fsqrt rm ty d a =>
    some { (ins 0x10 0x05) with d := gByte d, a := gByte a, ty := ty.code, fx := rm.code }
  | .fmin ty d a b =>
    some { (ins 0x10 0x06) with d := gByte d, a := gByte a, b := fsrcB b, ty := ty.code, ims := fsrcIms b, imm := fsrcImm b }
  | .fmax ty d a b =>
    some { (ins 0x10 0x07) with d := gByte d, a := gByte a, b := fsrcB b, ty := ty.code, ims := fsrcIms b, imm := fsrcImm b }
  | .fabs ty d a =>
    some { (ins 0x10 0x08) with d := gByte d, a := gByte a, ty := ty.code }
  | .fneg ty d a =>
    some { (ins 0x10 0x09) with d := gByte d, a := gByte a, ty := ty.code }
  | .fcmp c ty d a b =>
    some { (ins 0x10 0x0a) with d := pByte d, a := gByte a, b := fsrcB b, ty := ty.code, ims := fsrcIms b, fx := c.code, imm := fsrcImm b }
  | .fcvt rm dt sty d a =>
    some { (ins 0x10 0x0b) with d := gByte d, a := gByte a, ty := dt.code, fx := rm.code, imm := sty.code.setWidth 32 }
  | .fclass ty d a =>
    some { (ins 0x10 0x0c) with d := gByte d, a := gByte a, ty := ty.code }
  | .ld ty d m =>
    some { (ins 0x20 0x00) with d := gByte d, a := gByte m.base, b := gByte m.index, ty := ty.code, fx := m.scale.setWidth 4, imm := m.disp }
  | .st ty d m =>
    some { (ins 0x20 0x01) with d := gByte d, a := gByte m.base, b := gByte m.index, ty := ty.code, fx := m.scale.setWidth 4, imm := m.disp }
  | .get ty d m =>
    some { (ins 0x20 0x02) with d := gByte d, a := gByte m.base, b := gByte m.index, ty := ty.code, fx := m.scale.setWidth 4, imm := m.disp }
  | .put ty d m =>
    some { (ins 0x20 0x03) with d := gByte d, a := gByte m.base, b := gByte m.index, ty := ty.code, fx := m.scale.setWidth 4, imm := m.disp }
  | .putc ty d m cnt inc =>
    some { (ins 0x20 0x04) with d := gByte d, a := gByte m.base, b := gByte cnt, ty := ty.code, fx := inc, imm := m.disp }
  | .migr pn m =>
    some { (ins 0x20 0x05) with d := pByte pn, a := gByte m.base, imm := m.disp }
  | .pin =>
    some (ins 0x20 0x06)
  | .unpin =>
    some (ins 0x20 0x07)
  | .vld ty k d m =>
    some { (ins 0x21 0x00) with d := vByte d, a := gByte m.base, b := gByte m.index, ty := ty.code, fx := kFx k ||| m.scale.setWidth 4, imm := m.disp }
  | .vst ty k d m =>
    some { (ins 0x21 0x01) with d := vByte d, a := gByte m.base, b := gByte m.index, ty := ty.code, fx := kFx k ||| m.scale.setWidth 4, imm := m.disp }
  | .vlds ty k sc d m b =>
    some { (ins 0x21 0x02) with d := vByte d, a := gByte m.base, b := gByte b, ty := ty.code, fx := kFx k ||| sc.setWidth 4, imm := m.disp }
  | .vsts ty k sc d m b =>
    some { (ins 0x21 0x03) with d := vByte d, a := gByte m.base, b := gByte b, ty := ty.code, fx := kFx k ||| sc.setWidth 4, imm := m.disp }
  | .vgath ty k sc d m b =>
    some { (ins 0x21 0x04) with d := vByte d, a := gByte m.base, b := vByte b, ty := ty.code, fx := kFx k ||| sc.setWidth 4, imm := m.disp }
  | .vscat ty k sc d m b =>
    some { (ins 0x21 0x05) with d := vByte d, a := gByte m.base, b := vByte b, ty := ty.code, fx := kFx k ||| sc.setWidth 4, imm := m.disp }
  | .aadd ty d m =>
    some { (ins 0x24 0x00) with d := gByte d, a := gByte m.base, b := gByte m.index, ty := ty.code, fx := m.scale.setWidth 4, imm := m.disp }
  | .afadd ty d m =>
    some { (ins 0x24 0x01) with d := gByte d, a := gByte m.base, b := gByte m.index, ty := ty.code, fx := m.scale.setWidth 4, imm := m.disp }
  | .amin ty d m =>
    some { (ins 0x24 0x02) with d := gByte d, a := gByte m.base, b := gByte m.index, ty := ty.code, fx := m.scale.setWidth 4, imm := m.disp }
  | .amax ty d m =>
    some { (ins 0x24 0x03) with d := gByte d, a := gByte m.base, b := gByte m.index, ty := ty.code, fx := m.scale.setWidth 4, imm := m.disp }
  | .aand ty d m =>
    some { (ins 0x24 0x04) with d := gByte d, a := gByte m.base, b := gByte m.index, ty := ty.code, fx := m.scale.setWidth 4, imm := m.disp }
  | .aor ty d m =>
    some { (ins 0x24 0x05) with d := gByte d, a := gByte m.base, b := gByte m.index, ty := ty.code, fx := m.scale.setWidth 4, imm := m.disp }
  | .axor ty d m =>
    some { (ins 0x24 0x06) with d := gByte d, a := gByte m.base, b := gByte m.index, ty := ty.code, fx := m.scale.setWidth 4, imm := m.disp }
  | .xadd ty d m b =>
    some { (ins 0x24 0x07) with d := gByte d, a := gByte m.base, b := gByte b, ty := ty.code, imm := m.disp }
  | .xchg ty d m b =>
    some { (ins 0x24 0x08) with d := gByte d, a := gByte m.base, b := gByte b, ty := ty.code, imm := m.disp }
  | .cas ty d m b =>
    some { (ins 0x24 0x09) with d := gByte d, a := gByte m.base, b := gByte b, ty := ty.code, imm := m.disp }
  | .take d m =>
    some { (ins 0x28 0x00) with d := gByte d, a := gByte m.base, ty := 6, imm := m.disp }
  | .tryt d pn m =>
    some { (ins 0x28 0x01) with d := gByte d, a := gByte m.base, ty := 6, fx := pFx pn, imm := m.disp }
  | .give pn m b =>
    some { (ins 0x28 0x02) with d := pByte pn, a := gByte m.base, b := gByte b, ty := 6, imm := m.disp }
  | .peek d m =>
    some { (ins 0x28 0x03) with d := gByte d, a := gByte m.base, ty := 6, imm := m.disp }
  | .sete m =>
    some { (ins 0x28 0x04) with a := gByte m.base, ty := 6, imm := m.disp }
  | .feq pn m =>
    some { (ins 0x28 0x05) with d := pByte pn, a := gByte m.base, ty := 6, imm := m.disp }
  | .bind pn m base len =>
    some { (ins 0x28 0x06) with d := gByte len, a := gByte m.base, b := gByte base, ty := 6, fx := pFx pn, imm := m.disp }
  | .unbind pn m base len =>
    some { (ins 0x28 0x07) with d := gByte len, a := gByte m.base, b := gByte base, ty := 6, fx := pFx pn, imm := m.disp }
  | .fenceAcq sc =>
    some { (ins 0x28 0x08) with scp := BitVec.ofNat 4 sc.val, ord := 1 }
  | .fenceRel sc =>
    some { (ins 0x28 0x08) with scp := BitVec.ofNat 4 sc.val, ord := 2 }
  | .fenceFull sc =>
    some { (ins 0x28 0x08) with scp := BitVec.ofNat 4 sc.val, ord := 3 }
  | .cwait m b =>
    some { (ins 0x28 0x09) with a := gByte m.base, b := gByte b, ty := 6, imm := m.disp }
  | .ctest pn m b =>
    some { (ins 0x28 0x0a) with d := pByte pn, a := gByte m.base, b := gByte b, ty := 6, imm := m.disp }
  | .barr rel d pn a b =>
    some { (ins 0x29 0x00) with d := gByte d, a := gByte a, b := gByte b, ord := if rel then 2 else 0, fx := pFx pn }
  | .bara rel d a =>
    some { (ins 0x29 0x01) with d := gByte d, a := gByte a, ord := if rel then 2 else 0 }
  | .barw pn a b =>
    some { (ins 0x29 0x02) with a := gByte a, b := gByte b, fx := pFx pn }
  | .pref m b d inc =>
    some { (ins 0x2c 0x00) with d := gByte d, a := gByte m.base, b := gByte b, fx := inc, imm := m.disp }
  | .lockl d pn m b =>
    some { (ins 0x2c 0x01) with d := gByte d, a := gByte m.base, b := gByte b, fx := pFx pn, imm := m.disp }
  | .unlockl m b =>
    some { (ins 0x2c 0x02) with a := gByte m.base, b := gByte b, imm := m.disp }
  | .wback m b =>
    some { (ins 0x2c 0x03) with a := gByte m.base, b := gByte b, imm := m.disp }
  | .wbinv m b =>
    some { (ins 0x2c 0x04) with a := gByte m.base, b := gByte b, imm := m.disp }
  | .inval m b =>
    some { (ins 0x2c 0x05) with a := gByte m.base, b := gByte b, imm := m.disp }
  | .spawn pn off a b =>
    some { (ins 0x30 0x00) with a := gByte a, b := gByte b, fx := pFx pn, imm := off }
  | .spawnIndirect pn d a b =>
    some { (ins 0x30 0x00) with d := gByte d, a := gByte a, b := gByte b, fx := 8#4 ||| pFx pn }
  | .spawnx pn off a b d =>
    some { (ins 0x30 0x01) with d := gByte d, a := gByte a, b := gByte b, fx := pFx pn, imm := off }
  | .join m =>
    some { (ins 0x30 0x02) with a := gByte m.base, imm := m.disp }
  | .yield =>
    some (ins 0x30 0x03)
  | .lead k dir =>
    some { (ins 0x30 0x04) with imm := k.setWidth 32 ||| dir.imm <<< 8 }
  | .follow =>
    some (ins 0x30 0x05)
  | .unlead =>
    some (ins 0x30 0x06)
  | .pclaim pn port =>
    some { (ins 0x30 0x07) with a := dirByte port, fx := pFx pn }
  | .pfree port =>
    some { (ins 0x30 0x08) with a := dirByte port }
  | .pcfg h a =>
    some { (ins 0x34 0x00) with d := hByte h, a := gByte a }
  | .sopen h m =>
    some { (ins 0x34 0x01) with d := hByte h, a := gByte m.base, imm := m.disp }
  | .sclose h =>
    some { (ins 0x34 0x02) with d := hByte h }
  | .pwait d h n =>
    some { (ins 0x34 0x03) with d := gByte d, a := hByte h, imm := n }
  | .padvP h n =>
    some { (ins 0x34 0x04) with a := hByte h, imm := n }
  | .padvC h n =>
    some { (ins 0x34 0x04) with a := hByte h, fx := 1#4, imm := n }
  | .pfill d h n =>
    some { (ins 0x34 0x05) with d := gByte d, a := hByte h, imm := n }
  | .pstat c d h =>
    some { (ins 0x34 0x06) with d := gByte d, a := hByte h, fx := bfx c }
  | .vpop ty d h =>
    some { (ins 0x34 0x07) with d := vByte d, a := hByte h, ty := ty.code }
  | .vpush ty h a =>
    some { (ins 0x34 0x08) with d := hByte h, a := vByte a, ty := ty.code }
  | .job pool m =>
    some { (ins 0x38 0x00) with a := gByte m.base, fx := bfx pool, imm := m.disp }
  | .ncmd pool d m =>
    some { (ins 0x38 0x01) with d := gByte d, a := gByte m.base, fx := bfx pool, imm := m.disp }
  | .mlds a b nc =>
    some { (ins 0x40 0x00) with a := gByte a, b := gByte b, imm := nc }
  | .mswp =>
    some (ins 0x40 0x01)
  | .mmul pool m =>
    some { (ins 0x40 0x02) with a := gByte m.base, fx := bfx pool, imm := m.disp }
  | .mmulg pool m =>
    some { (ins 0x40 0x03) with a := gByte m.base, fx := bfx pool, imm := m.disp }
  | .mred pool m =>
    some { (ins 0x40 0x04) with a := gByte m.base, fx := bfx pool, imm := m.disp }
  | .msto pool m =>
    some { (ins 0x40 0x05) with a := gByte m.base, fx := bfx pool, imm := m.disp }
  | .mzero b =>
    some { (ins 0x40 0x06) with imm := bimm b }
  | .mstat w d which =>
    some { (ins 0x40 0x07) with d := gByte d, fx := bfx w, imm := which }
  | .vadd m ty d a b =>
    some { (ins 0x50 0x00) with d := vByte d, a := vByte a, b := vsrcB b, ty := ty.code, ims := vsrcIms b, fx := m.fx, imm := vsrcImm b }
  | .vsub m ty d a b =>
    some { (ins 0x50 0x01) with d := vByte d, a := vByte a, b := vsrcB b, ty := ty.code, ims := vsrcIms b, fx := m.fx, imm := vsrcImm b }
  | .vmul m ty d a b =>
    some { (ins 0x50 0x02) with d := vByte d, a := vByte a, b := vsrcB b, ty := ty.code, ims := vsrcIms b, fx := m.fx, imm := vsrcImm b }
  | .vfma m ty d a b =>
    some { (ins 0x50 0x03) with d := vByte d, a := vByte a, b := vsrcB b, ty := ty.code, ims := vsrcIms b, fx := m.fx, imm := vsrcImm b }
  | .vfms m ty d a b =>
    some { (ins 0x50 0x04) with d := vByte d, a := vByte a, b := vsrcB b, ty := ty.code, ims := vsrcIms b, fx := m.fx, imm := vsrcImm b }
  | .vmin m ty d a b =>
    some { (ins 0x50 0x05) with d := vByte d, a := vByte a, b := vsrcB b, ty := ty.code, ims := vsrcIms b, fx := m.fx, imm := vsrcImm b }
  | .vmax m ty d a b =>
    some { (ins 0x50 0x06) with d := vByte d, a := vByte a, b := vsrcB b, ty := ty.code, ims := vsrcIms b, fx := m.fx, imm := vsrcImm b }
  | .vabs m ty d a =>
    some { (ins 0x50 0x07) with d := vByte d, a := vByte a, ty := ty.code, fx := m.fx }
  | .vneg m ty d a =>
    some { (ins 0x50 0x08) with d := vByte d, a := vByte a, ty := ty.code, fx := m.fx }
  | .vand m ty d a b =>
    some { (ins 0x50 0x09) with d := vByte d, a := vByte a, b := vsrcB b, ty := ty.code, ims := vsrcIms b, fx := m.fx, imm := vsrcImm b }
  | .vor m ty d a b =>
    some { (ins 0x50 0x0a) with d := vByte d, a := vByte a, b := vsrcB b, ty := ty.code, ims := vsrcIms b, fx := m.fx, imm := vsrcImm b }
  | .vxor m ty d a b =>
    some { (ins 0x50 0x0b) with d := vByte d, a := vByte a, b := vsrcB b, ty := ty.code, ims := vsrcIms b, fx := m.fx, imm := vsrcImm b }
  | .vshl m ty d a b =>
    some { (ins 0x50 0x0c) with d := vByte d, a := vByte a, b := vsrcB b, ty := ty.code, ims := vsrcIms b, fx := m.fx, imm := vsrcImm b }
  | .vshr m ty d a b =>
    some { (ins 0x50 0x0d) with d := vByte d, a := vByte a, b := vsrcB b, ty := ty.code, ims := vsrcIms b, fx := m.fx, imm := vsrcImm b }
  | .vsra m ty d a b =>
    some { (ins 0x50 0x0e) with d := vByte d, a := vByte a, b := vsrcB b, ty := ty.code, ims := vsrcIms b, fx := m.fx, imm := vsrcImm b }
  | .vcmp c ty d a b =>
    some { (ins 0x50 0x0f) with d := kByte d, a := vByte a, b := vsrcB b, ty := ty.code, ims := vsrcIms b, fx := c.code, imm := vsrcImm b }
  | .vsel k ty d a b =>
    some { (ins 0x50 0x10) with d := vByte d, a := vByte a, b := vsrcB b, ty := ty.code, ims := vsrcIms b, fx := kFx k, imm := vsrcImm b }
  | .vrcp m ty d a =>
    some { (ins 0x50 0x11) with d := vByte d, a := vByte a, ty := ty.code, fx := m.fx }
  | .vrsq m ty d a =>
    some { (ins 0x50 0x12) with d := vByte d, a := vByte a, ty := ty.code, fx := m.fx }
  | .vexp2 m ty d a =>
    some { (ins 0x50 0x13) with d := vByte d, a := vByte a, ty := ty.code, fx := m.fx }
  | .vlog2 m ty d a =>
    some { (ins 0x50 0x14) with d := vByte d, a := vByte a, ty := ty.code, fx := m.fx }
  | .vdiv m ty d a b =>
    some { (ins 0x50 0x15) with d := vByte d, a := vByte a, b := vsrcB b, ty := ty.code, ims := vsrcIms b, fx := m.fx, imm := vsrcImm b }
  | .vsqrt m ty d a =>
    some { (ins 0x50 0x16) with d := vByte d, a := vByte a, ty := ty.code, fx := m.fx }
  | .vpopc m ty d a =>
    some { (ins 0x50 0x17) with d := vByte d, a := vByte a, ty := ty.code, fx := m.fx }
  | .vdot4 m ty d a b =>
    some { (ins 0x50 0x18) with d := vByte d, a := vByte a, b := vsrcB b, ty := ty.code, ims := vsrcIms b, fx := m.fx, imm := vsrcImm b }
  | .vcvt rm k z dt sty part d a =>
    some { (ins 0x51 0x00) with d := vByte d, a := vByte a, ty := dt.code, fx := kFx k ||| bfx z, imm := rm.code.setWidth 32 <<< 4 ||| sty.code.setWidth 32 ||| part.setWidth 32 <<< 8 }
  | .vqnt ty d a tier scale =>
    some { (ins 0x51 0x01) with d := vByte d, a := vByte a, b := optB scale, ty := ty.code, imm := tier.setWidth 32 ||| bimm scale.isSome <<< 3 }
  | .vdqt d a tier =>
    some { (ins 0x51 0x02) with d := vByte d, a := vByte a, ty := 9, imm := tier.setWidth 32 }
  | .vred op ty k d a =>
    some { (ins 0x52 0x00) with d := gByte d, a := vByte a, ty := ty.code, fx := kFx k, imm := op.code }
  | .vscan op excl ty k z d a =>
    some { (ins 0x52 0x01) with d := vByte d, a := vByte a, ty := ty.code, fx := kFx k ||| bfx z, imm := op.code ||| bimm excl <<< 3 }
  | .vperm ty k z d a b =>
    some { (ins 0x52 0x02) with d := vByte d, a := vByte a, b := vByte b, ty := ty.code, fx := kFx k ||| bfx z }
  | .vbcast ty k z d src =>
    some { (ins 0x52 0x03) with d := vByte d, a := bsrcA src, ty := ty.code, fx := kFx k ||| bfx z, imm := bsrcImm src }
  | .vext ty d a lane =>
    some { (ins 0x52 0x04) with d := gByte d, a := vByte a, ty := ty.code, imm := lane.setWidth 32 }
  | .vins ty d a lane =>
    some { (ins 0x52 0x05) with d := vByte d, a := gByte a, ty := ty.code, imm := lane.setWidth 32 }
  | .kand d a b =>
    some { (ins 0x53 0x00) with d := kByte d, a := kByte a, b := kByte b }
  | .kor d a b =>
    some { (ins 0x53 0x01) with d := kByte d, a := kByte a, b := kByte b }
  | .knot d a =>
    some { (ins 0x53 0x02) with d := kByte d, a := kByte a }
  | .kmov f =>
    some { (ins 0x53 0x03) with d := kfD f, a := kfA f, ims := kfIms f, imm := kfImm f }
  | .kpopc d a =>
    some { (ins 0x53 0x04) with d := gByte d, a := kByte a }
  | .bscan a b d =>
    some { (ins 0x60 0x00) with d := gByte d, a := gByte a, b := gByte b }
  | .hamm d a =>
    some { (ins 0x60 0x01) with d := gByte d, a := vByte a }
  | .filt ne d a b =>
    some { (ins 0x60 0x02) with d := gByte d, a := gByte a, b := gByte b, fx := bfx ne }
  | .topk a b =>
    some { (ins 0x60 0x03) with a := gByte a, b := gByte b }
  | .topkInit k =>
    some { (ins 0x60 0x03) with fx := 1#4, imm := k }
  | .tkrd d m =>
    some { (ins 0x60 0x04) with d := gByte d, a := gByte m.base, imm := m.disp }
  | .bdot d a b c =>
    some { (ins 0x60 0x05) with d := gByte d, a := gByte a, b := gByte b, fx := BitVec.ofNat 4 c.val }
  | .badd d a b c =>
    some { (ins 0x60 0x06) with d := gByte d, a := gByte a, b := gByte b, fx := BitVec.ofNat 4 c.val }
  | .baxpy d a b c =>
    some { (ins 0x60 0x07) with d := gByte d, a := gByte a, b := gByte b, fx := BitVec.ofNat 4 c.val }
  | .bfill d b c =>
    some { (ins 0x60 0x08) with d := gByte d, b := gByte b, fx := BitVec.ofNat 4 c.val }
  | .bcopy d a c =>
    some { (ins 0x60 0x09) with d := gByte d, a := gByte a, fx := BitVec.ofNat 4 c.val }
  | .srd d sr =>
    some { (ins 0x70 0x00) with d := gByte d, imm := sr.code }
  | .swr sr a =>
    some { (ins 0x70 0x01) with a := gByte a, imm := sr.code }
  | .trap code =>
    some { (ins 0x70 0x02) with imm := code.setWidth 32 }
  | .bkpt =>
    some (ins 0x70 0x03)
  | .isync =>
    some (ins 0x70 0x04)
  | .illegal => none
  | .poolexec => none
  | .returnTrap => none
  | .returnPodSend _ _ => none
  | .podArrival _ => none
  | .accept _ => none
  | .refuse _ => none
  | .contextFreeNotice _ => none
  | .park _ _ => none
  | .parkDeposit _ => none
  | .chargeRelease _ => none
  | .contextFill _ => none
  | .pinSpanExpiry _ _ => none
  | .getRequest _ => none
  | .putRequest _ => none
  | .putcRequest _ => none
  | .handlerMessage _ => none
  | .bindingQuery _ => none
  | .bindingSnapshot _ => none
  | .getReply _ => none
  | .putAck _ => none
  | .counterIncrement _ => none
  | .combiningFlush _ _ => none
  | .atomicFlush _ => none
  | .atomicAck _ => none
  | .waitRecordDeposit _ => none
  | .linkUpdate _ => none
  | .wake _ => none
  | .wakeReturn _ => none
  | .spawnxRecord _ => none
  | .spawnxReply _ => none
  | .balancePeriod _ => none
  | .depthReport _ => none
  | .balanceShipment _ => none
  | .shipmentReply _ => none
  | .edgeRequest _ => none
  | .edgeReply _ => none
  | .portWord _ => none
  | .portCredit _ => none
  | .leadReservation _ => none
  | .gangForm _ _ => none
  | .paneClaimGrant _ _ => none
  | .copyUnitFill _ _ => none
  | .barrierPhaseComplete _ _ => none
  | .barrierTimeout _ _ => none
  | .jobStart _ _ => none
  | .jobCompletion _ _ => none
  | .elementRequest _ => none
  | .elementReply _ => none
  | .vc6Credit _ => none
  | .collContribution _ _ => none
  | .collResult _ _ => none
  | .mredContribution _ => none
  | .matrixStart _ _ => none
  | .matrixComplete _ => none
  | .tuberContextFill _ => none
  | .tuberPreempt _ _ => none
  | .tuberSave _ _ => none
  | .bankAccessComplete _ _ => none
  | .agedRequest _ _ => none
  | .ncmdReply _ => none
  | .wakeNotice _ => none
  | .packetTake _ => none
  | .packetPrefetch _ => none
  | .launch _ _ => none
  | .tileVacated _ _ => none
  | .jobPacket _ _ => none
  | .graph _ _ => none
  | .graphNodeStart _ _ _ => none
  | .waitPacket _ _ => none
  | .signal _ _ => none
  | .barrierPacket _ _ => none
  | .launchEnd _ _ => none
  | .promoteExpiry _ => none
  | .queueResetRetry _ => none
  | .queueResetSkip _ => none
  | .createQueue _ _ => none
  | .faultPacket _ => none
  | .service _ _ _ => none
  | .resume _ _ _ _ => none
  | .step _ _ _ _ => none
  | .stop _ _ _ => none
  | .kill _ _ _ => none
  | .relocate _ _ _ => none
  | .pslotKill _ _ _ => none
  | .pslotRelocate _ _ _ => none
  | .tlbiAll _ _ _ => none
  | .tlbiPage _ _ _ => none
  | .windowEnable _ _ _ _ => none
  | .windowDisable _ _ _ _ => none
  | .windowGeometryWrite _ _ _ _ _ => none
  | .registerWrite _ _ _ _ => none
  | .bar2Request _ _ _ _ _ => none
  | .createPartition _ => none
  | .destroyPartition _ => none
  | .keyLoad _ _ _ => none
  | .keyRevoke _ _ _ => none
  | .revocationDone _ _ => none
  | .edgeSegmentKey _ _ _ => none
  | .peerSegment _ _ _ _ => none
  | .groupTableWrite _ _ _ => none
  | .loadImage _ _ _ => none
  | .setParameter _ _ _ => none
  | .setBudget _ => none
  | .retireTile _ => none
  | .linkReset _ _ => none
  | .linkRetry _ _ => none
  | .routerFailure _ => none
  | .retentionEntry _ _ => none
  | .retentionExit _ _ => none
  | .scrub _ _ => none
  | .coolingFault => none
  | .coolingClear => none
  | .thermalStop => none
  | .budgetShare _ => none
  | .leaseTimeout _ => none
  | .candidateTimeout _ => none
  | .voteRequest _ => none
  | .vote _ => none
  | .crownRenewal _ => none
  | .renewal _ => none
  | .crownExpiry _ => none
  | .linkTraining _ => none
  | .bringUp _ _ _ => none
  | .prefFillComplete _ _ => none
  | .abortJob _ _ => none
  | .peerWakeStore _ _ _ => none
  | .attestationReport _ => none

/-- The functions of major 0x01 (Table 9.9), operand fields read without checks. -/
def raw01 (f : Fields) : Nat → Option Instr
  | 0x00 => some (.add (tyOf f.ty) (gpOf f.d) (gpOf f.a) (srcOf f))
  | 0x01 => some (.sub (tyOf f.ty) (gpOf f.d) (gpOf f.a) (srcOf f))
  | 0x02 => some (.mul (tyOf f.ty) (gpOf f.d) (gpOf f.a) (srcOf f))
  | 0x03 => some (.mulh (tyOf f.ty) (gpOf f.d) (gpOf f.a) (srcOf f))
  | 0x04 => some (.mulhu (tyOf f.ty) (gpOf f.d) (gpOf f.a) (srcOf f))
  | 0x05 => some (.div (tyOf f.ty) (gpOf f.d) (gpOf f.a) (srcOf f))
  | 0x06 => some (.divu (tyOf f.ty) (gpOf f.d) (gpOf f.a) (srcOf f))
  | 0x07 => some (.rem (tyOf f.ty) (gpOf f.d) (gpOf f.a) (srcOf f))
  | 0x08 => some (.remu (tyOf f.ty) (gpOf f.d) (gpOf f.a) (srcOf f))
  | 0x09 => some (.neg (tyOf f.ty) (gpOf f.d) (gpOf f.a))
  | 0x0a => some (.abs (tyOf f.ty) (gpOf f.d) (gpOf f.a))
  | 0x0b => some (.min (tyOf f.ty) (gpOf f.d) (gpOf f.a) (srcOf f))
  | 0x0c => some (.max (tyOf f.ty) (gpOf f.d) (gpOf f.a) (srcOf f))
  | 0x0d => some (.minu (tyOf f.ty) (gpOf f.d) (gpOf f.a) (srcOf f))
  | 0x0e => some (.maxu (tyOf f.ty) (gpOf f.d) (gpOf f.a) (srcOf f))
  | _ => none

/-- The functions of major 0x02 (Table 9.9), operand fields read without checks. -/
def raw02 (f : Fields) : Nat → Option Instr
  | 0x00 => some (.and (tyOf f.ty) (gpOf f.d) (gpOf f.a) (srcOf f))
  | 0x01 => some (.or (tyOf f.ty) (gpOf f.d) (gpOf f.a) (srcOf f))
  | 0x02 => some (.xor (tyOf f.ty) (gpOf f.d) (gpOf f.a) (srcOf f))
  | 0x03 => some (.andn (tyOf f.ty) (gpOf f.d) (gpOf f.a) (srcOf f))
  | 0x04 => some (.orn (tyOf f.ty) (gpOf f.d) (gpOf f.a) (srcOf f))
  | 0x05 => some (.xnor (tyOf f.ty) (gpOf f.d) (gpOf f.a) (srcOf f))
  | 0x06 => some (.not (tyOf f.ty) (gpOf f.d) (gpOf f.a))
  | _ => none

/-- The functions of major 0x03 (Table 9.9), operand fields read without checks. -/
def raw03 (f : Fields) : Nat → Option Instr
  | 0x00 => some (.shl (tyOf f.ty) (gpOf f.d) (gpOf f.a) (srcOf f))
  | 0x01 => some (.shr (tyOf f.ty) (gpOf f.d) (gpOf f.a) (srcOf f))
  | 0x02 => some (.sra (tyOf f.ty) (gpOf f.d) (gpOf f.a) (srcOf f))
  | 0x03 => some (.rol (tyOf f.ty) (gpOf f.d) (gpOf f.a) (srcOf f))
  | 0x04 => some (.ror (tyOf f.ty) (gpOf f.d) (gpOf f.a) (srcOf f))
  | _ => none

/-- The functions of major 0x04 (Table 9.9), operand fields read without checks. -/
def raw04 (f : Fields) : Nat → Option Instr
  | 0x00 => some (.clz (tyOf f.ty) (gpOf f.d) (gpOf f.a))
  | 0x01 => some (.ctz (tyOf f.ty) (gpOf f.d) (gpOf f.a))
  | 0x02 => some (.popc (tyOf f.ty) (gpOf f.d) (gpOf f.a))
  | 0x03 => some (.brev (tyOf f.ty) (gpOf f.d) (gpOf f.a))
  | 0x04 => some (.bswap (tyOf f.ty) (gpOf f.d) (gpOf f.a))
  | 0x05 => some (.bext (gpOf f.d) (gpOf f.a) (f.imm.extractLsb' 0 6) (f.imm.extractLsb' 8 7))
  | 0x06 => some (.bextu (gpOf f.d) (gpOf f.a) (f.imm.extractLsb' 0 6) (f.imm.extractLsb' 8 7))
  | 0x07 => some (.bins (gOf f.d) (gpOf f.a) (f.imm.extractLsb' 0 6) (f.imm.extractLsb' 8 7))
  | _ => none

/-- The functions of major 0x05 (Table 9.9), operand fields read without checks. -/
def raw05 (f : Fields) : Nat → Option Instr
  | 0x00 => some (.mov (tyOf f.ty) (gpOf f.d) (gpOf f.a))
  | 0x01 => some (.movi (gpOf f.d) (f.izx) (f.imm))
  | 0x02 => some (.movh (gOf f.d) (f.imm))
  | 0x03 => some (.sel (tyOf f.ty) (gpOf f.d) (gpOf f.a) (srcOf f) (pFxOf f.fx))
  | 0x04 => some (.sext (gpOf f.d) (gpOf f.a) (f.imm))
  | 0x05 => some (.zext (gpOf f.d) (gpOf f.a) (f.imm))
  | _ => none

/-- The functions of major 0x06 (Table 9.9), operand fields read without checks. -/
def raw06 (f : Fields) : Nat → Option Instr
  | 0x00 => some (.lea (gOf f.d) (⟨gOf f.a, gOf f.b, f.fx.setWidth 2, f.imm⟩))
  | 0x01 => some (.gaddr (gOf f.d) (gOf f.a) (gOf f.b))
  | 0x02 => some (.home (gOf f.d) (gOf f.a))
  | 0x03 => some (.nbr (gOf f.d) (gOf f.a) (dirOfImm f.imm))
  | _ => none

/-- The functions of major 0x08 (Table 9.9), operand fields read without checks. -/
def raw08 (f : Fields) : Nat → Option Instr
  | 0x00 => some (.cmp (condOf f.fx) (tyOf f.ty) (pOf f.d) (gOf f.a) (gsrcOf f))
  | 0x01 => some (.tst (condOf f.fx) (tyOf f.ty) (pOf f.d) (gOf f.a) (gsrcOf f))
  | 0x02 => some (.pand (pOf f.d) (pOf f.a) (pOf f.b))
  | 0x03 => some (.por (pOf f.d) (pOf f.a) (pOf f.b))
  | 0x04 => some (.pxor (pOf f.d) (pOf f.a) (pOf f.b))
  | 0x05 => some (.pnot (pOf f.d) (pOf f.a))
  | 0x06 => some (.pmov (pOf f.d) (pOf f.a))
  | 0x07 => some (.pset (pOf f.d) (f.imm.getLsbD 0))
  | _ => none

/-- The functions of major 0x0C (Table 9.9), operand fields read without checks. -/
def raw0C (f : Fields) : Nat → Option Instr
  | 0x00 => some (.br (f.imm))
  | 0x01 => some (.brx (gOf f.a))
  | 0x02 => some (.call (f.imm))
  | 0x03 => some (.callx (gOf f.a))
  | 0x04 => some (.ret)
  | 0x05 => some (.loop (gOf f.d) (f.imm))
  | 0x06 => some (.nop)
  | 0x07 => some (.exit)
  | _ => none

/-- The functions of major 0x10 (Table 9.9), operand fields read without checks. -/
def raw10 (f : Fields) : Nat → Option Instr
  | 0x00 => some (.fadd (rselOf f.fx) (tyOf f.ty) (gOf f.d) (gOf f.a) (fsrcOf f))
  | 0x01 => some (.fsub (rselOf f.fx) (tyOf f.ty) (gOf f.d) (gOf f.a) (fsrcOf f))
  | 0x02 => some (.fmul (rselOf f.fx) (tyOf f.ty) (gOf f.d) (gOf f.a) (fsrcOf f))
  | 0x03 => some (.ffma (rselOf f.fx) (tyOf f.ty) (gOf f.d) (gOf f.a) (fsrcOf f))
  | 0x04 => some (.fdiv (rselOf f.fx) (tyOf f.ty) (gOf f.d) (gOf f.a) (fsrcOf f))
  | 0x05 => some (.fsqrt (rselOf f.fx) (tyOf f.ty) (gOf f.d) (gOf f.a))
  | 0x06 => some (.fmin (tyOf f.ty) (gOf f.d) (gOf f.a) (fsrcOf f))
  | 0x07 => some (.fmax (tyOf f.ty) (gOf f.d) (gOf f.a) (fsrcOf f))
  | 0x08 => some (.fabs (tyOf f.ty) (gOf f.d) (gOf f.a))
  | 0x09 => some (.fneg (tyOf f.ty) (gOf f.d) (gOf f.a))
  | 0x0a => some (.fcmp (condOf f.fx) (tyOf f.ty) (pOf f.d) (gOf f.a) (fsrcOf f))
  | 0x0b => some (.fcvt (rselOf f.fx) (tyOf f.ty) (tyOf (f.imm.setWidth 4)) (gOf f.d) (gOf f.a))
  | 0x0c => some (.fclass (tyOf f.ty) (gOf f.d) (gOf f.a))
  | _ => none

/-- The functions of major 0x20 (Table 9.9), operand fields read without checks. -/
def raw20 (f : Fields) : Nat → Option Instr
  | 0x00 => some (.ld (tyOf f.ty) (gOf f.d) (⟨gOf f.a, gOf f.b, f.fx.setWidth 2, f.imm⟩))
  | 0x01 => some (.st (tyOf f.ty) (gOf f.d) (⟨gOf f.a, gOf f.b, f.fx.setWidth 2, f.imm⟩))
  | 0x02 => some (.get (tyOf f.ty) (gOf f.d) (⟨gOf f.a, gOf f.b, f.fx.setWidth 2, f.imm⟩))
  | 0x03 => some (.put (tyOf f.ty) (gOf f.d) (⟨gOf f.a, gOf f.b, f.fx.setWidth 2, f.imm⟩))
  | 0x04 => some (.putc (tyOf f.ty) (gOf f.d) (⟨gOf f.a, f.imm⟩) (gOf f.b) (f.fx))
  | 0x05 => some (.migr (pOf f.d) (⟨gOf f.a, f.imm⟩))
  | 0x06 => some (.pin)
  | 0x07 => some (.unpin)
  | _ => none

/-- The functions of major 0x21 (Table 9.9), operand fields read without checks. -/
def raw21 (f : Fields) : Nat → Option Instr
  | 0x00 => some (.vld (tyOf f.ty) (kFxOf f.fx) (vOf f.d) (⟨gOf f.a, gOf f.b, f.fx.setWidth 2, f.imm⟩))
  | 0x01 => some (.vst (tyOf f.ty) (kFxOf f.fx) (vOf f.d) (⟨gOf f.a, gOf f.b, f.fx.setWidth 2, f.imm⟩))
  | 0x02 => some (.vlds (tyOf f.ty) (kFxOf f.fx) (f.fx.setWidth 2) (vOf f.d) (⟨gOf f.a, f.imm⟩) (gOf f.b))
  | 0x03 => some (.vsts (tyOf f.ty) (kFxOf f.fx) (f.fx.setWidth 2) (vOf f.d) (⟨gOf f.a, f.imm⟩) (gOf f.b))
  | 0x04 => some (.vgath (tyOf f.ty) (kFxOf f.fx) (f.fx.setWidth 2) (vOf f.d) (⟨gOf f.a, f.imm⟩) (vOf f.b))
  | 0x05 => some (.vscat (tyOf f.ty) (kFxOf f.fx) (f.fx.setWidth 2) (vOf f.d) (⟨gOf f.a, f.imm⟩) (vOf f.b))
  | _ => none

/-- The functions of major 0x24 (Table 9.9), operand fields read without checks. -/
def raw24 (f : Fields) : Nat → Option Instr
  | 0x00 => some (.aadd (tyOf f.ty) (gOf f.d) (⟨gOf f.a, gOf f.b, f.fx.setWidth 2, f.imm⟩))
  | 0x01 => some (.afadd (tyOf f.ty) (gOf f.d) (⟨gOf f.a, gOf f.b, f.fx.setWidth 2, f.imm⟩))
  | 0x02 => some (.amin (tyOf f.ty) (gOf f.d) (⟨gOf f.a, gOf f.b, f.fx.setWidth 2, f.imm⟩))
  | 0x03 => some (.amax (tyOf f.ty) (gOf f.d) (⟨gOf f.a, gOf f.b, f.fx.setWidth 2, f.imm⟩))
  | 0x04 => some (.aand (tyOf f.ty) (gOf f.d) (⟨gOf f.a, gOf f.b, f.fx.setWidth 2, f.imm⟩))
  | 0x05 => some (.aor (tyOf f.ty) (gOf f.d) (⟨gOf f.a, gOf f.b, f.fx.setWidth 2, f.imm⟩))
  | 0x06 => some (.axor (tyOf f.ty) (gOf f.d) (⟨gOf f.a, gOf f.b, f.fx.setWidth 2, f.imm⟩))
  | 0x07 => some (.xadd (tyOf f.ty) (gOf f.d) (⟨gOf f.a, f.imm⟩) (gOf f.b))
  | 0x08 => some (.xchg (tyOf f.ty) (gOf f.d) (⟨gOf f.a, f.imm⟩) (gOf f.b))
  | 0x09 => some (.cas (tyOf f.ty) (gOf f.d) (⟨gOf f.a, f.imm⟩) (gOf f.b))
  | _ => none

/-- The functions of major 0x28 (Table 9.9), operand fields read without checks. -/
def raw28 (f : Fields) : Nat → Option Instr
  | 0x00 => some (.take (gOf f.d) (⟨gOf f.a, f.imm⟩))
  | 0x01 => some (.tryt (gOf f.d) (pFxOf f.fx) (⟨gOf f.a, f.imm⟩))
  | 0x02 => some (.give (pOf f.d) (⟨gOf f.a, f.imm⟩) (gOf f.b))
  | 0x03 => some (.peek (gOf f.d) (⟨gOf f.a, f.imm⟩))
  | 0x04 => some (.sete (⟨gOf f.a, f.imm⟩))
  | 0x05 => some (.feq (pOf f.d) (⟨gOf f.a, f.imm⟩))
  | 0x06 => some (.bind (pFxOf f.fx) (⟨gOf f.a, f.imm⟩) (gOf f.b) (gOf f.d))
  | 0x07 => some (.unbind (pFxOf f.fx) (⟨gOf f.a, f.imm⟩) (gOf f.b) (gOf f.d))
  | 0x08 => match f.ord.toNat with
    | 1 => some (.fenceAcq (Fin.ofNat 16 f.scp.toNat))
    | 2 => some (.fenceRel (Fin.ofNat 16 f.scp.toNat))
    | 3 => some (.fenceFull (Fin.ofNat 16 f.scp.toNat))
    | _ => none
  | 0x09 => some (.cwait (⟨gOf f.a, f.imm⟩) (gOf f.b))
  | 0x0a => some (.ctest (pOf f.d) (⟨gOf f.a, f.imm⟩) (gOf f.b))
  | _ => none

/-- The functions of major 0x29 (Table 9.9), operand fields read without checks. -/
def raw29 (f : Fields) : Nat → Option Instr
  | 0x00 => some (.barr ((f.ord == 2)) (gOf f.d) (pFxOf f.fx) (gOf f.a) (gOf f.b))
  | 0x01 => some (.bara ((f.ord == 2)) (gOf f.d) (gOf f.a))
  | 0x02 => some (.barw (pFxOf f.fx) (gOf f.a) (gOf f.b))
  | _ => none

/-- The functions of major 0x2C (Table 9.9), operand fields read without checks. -/
def raw2C (f : Fields) : Nat → Option Instr
  | 0x00 => some (.pref (⟨gOf f.a, f.imm⟩) (gOf f.b) (gOf f.d) (f.fx))
  | 0x01 => some (.lockl (gOf f.d) (pFxOf f.fx) (⟨gOf f.a, f.imm⟩) (gOf f.b))
  | 0x02 => some (.unlockl (⟨gOf f.a, f.imm⟩) (gOf f.b))
  | 0x03 => some (.wback (⟨gOf f.a, f.imm⟩) (gOf f.b))
  | 0x04 => some (.wbinv (⟨gOf f.a, f.imm⟩) (gOf f.b))
  | 0x05 => some (.inval (⟨gOf f.a, f.imm⟩) (gOf f.b))
  | _ => none

/-- The functions of major 0x30 (Table 9.9), operand fields read without checks. -/
def raw30 (f : Fields) : Nat → Option Instr
  | 0x00 => some (if f.fx.getLsbD 3 then .spawnIndirect (pFxOf f.fx) (gOf f.d) (gOf f.a) (gOf f.b) else .spawn (pFxOf f.fx) (f.imm) (gOf f.a) (gOf f.b))
  | 0x01 => some (.spawnx (pFxOf f.fx) (f.imm) (gOf f.a) (gOf f.b) (gOf f.d))
  | 0x02 => some (.join (⟨gOf f.a, f.imm⟩))
  | 0x03 => some (.yield)
  | 0x04 => some (.lead (f.imm.setWidth 3) (dirOfImm (f.imm >>> 8)))
  | 0x05 => some (.follow)
  | 0x06 => some (.unlead)
  | 0x07 => some (.pclaim (pFxOf f.fx) (dirOf f.a))
  | 0x08 => some (.pfree (dirOf f.a))
  | _ => none

/-- The functions of major 0x34 (Table 9.9), operand fields read without checks. -/
def raw34 (f : Fields) : Nat → Option Instr
  | 0x00 => some (.pcfg (hOf f.d) (gOf f.a))
  | 0x01 => some (.sopen (hOf f.d) (⟨gOf f.a, f.imm⟩))
  | 0x02 => some (.sclose (hOf f.d))
  | 0x03 => some (.pwait (gOf f.d) (hOf f.a) (f.imm))
  | 0x04 => some (if f.fx.getLsbD 0 then .padvC (hOf f.a) (f.imm) else .padvP (hOf f.a) (f.imm))
  | 0x05 => some (.pfill (gOf f.d) (hOf f.a) (f.imm))
  | 0x06 => some (.pstat (f.fx.getLsbD 0) (gOf f.d) (hOf f.a))
  | 0x07 => some (.vpop (tyOf f.ty) (vOf f.d) (hOf f.a))
  | 0x08 => some (.vpush (tyOf f.ty) (hOf f.d) (vOf f.a))
  | _ => none

/-- The functions of major 0x38 (Table 9.9), operand fields read without checks. -/
def raw38 (f : Fields) : Nat → Option Instr
  | 0x00 => some (.job (f.fx.getLsbD 0) (⟨gOf f.a, f.imm⟩))
  | 0x01 => some (.ncmd (f.fx.getLsbD 0) (gOf f.d) (⟨gOf f.a, f.imm⟩))
  | _ => none

/-- The functions of major 0x40 (Table 9.9), operand fields read without checks. -/
def raw40 (f : Fields) : Nat → Option Instr
  | 0x00 => some (.mlds (gOf f.a) (gOf f.b) (f.imm))
  | 0x01 => some (.mswp)
  | 0x02 => some (.mmul (f.fx.getLsbD 0) (⟨gOf f.a, f.imm⟩))
  | 0x03 => some (.mmulg (f.fx.getLsbD 0) (⟨gOf f.a, f.imm⟩))
  | 0x04 => some (.mred (f.fx.getLsbD 0) (⟨gOf f.a, f.imm⟩))
  | 0x05 => some (.msto (f.fx.getLsbD 0) (⟨gOf f.a, f.imm⟩))
  | 0x06 => some (.mzero (f.imm.getLsbD 0))
  | 0x07 => some (.mstat (f.fx.getLsbD 0) (gOf f.d) (f.imm))
  | _ => none

/-- The functions of major 0x50 (Table 9.9), operand fields read without checks. -/
def raw50 (f : Fields) : Nat → Option Instr
  | 0x00 => some (.vadd (vmodOf f.fx) (tyOf f.ty) (vOf f.d) (vOf f.a) (vsrcOf f))
  | 0x01 => some (.vsub (vmodOf f.fx) (tyOf f.ty) (vOf f.d) (vOf f.a) (vsrcOf f))
  | 0x02 => some (.vmul (vmodOf f.fx) (tyOf f.ty) (vOf f.d) (vOf f.a) (vsrcOf f))
  | 0x03 => some (.vfma (vmodOf f.fx) (tyOf f.ty) (vOf f.d) (vOf f.a) (vsrcOf f))
  | 0x04 => some (.vfms (vmodOf f.fx) (tyOf f.ty) (vOf f.d) (vOf f.a) (vsrcOf f))
  | 0x05 => some (.vmin (vmodOf f.fx) (tyOf f.ty) (vOf f.d) (vOf f.a) (vsrcOf f))
  | 0x06 => some (.vmax (vmodOf f.fx) (tyOf f.ty) (vOf f.d) (vOf f.a) (vsrcOf f))
  | 0x07 => some (.vabs (vmodOf f.fx) (tyOf f.ty) (vOf f.d) (vOf f.a))
  | 0x08 => some (.vneg (vmodOf f.fx) (tyOf f.ty) (vOf f.d) (vOf f.a))
  | 0x09 => some (.vand (vmodOf f.fx) (tyOf f.ty) (vOf f.d) (vOf f.a) (vsrcOf f))
  | 0x0a => some (.vor (vmodOf f.fx) (tyOf f.ty) (vOf f.d) (vOf f.a) (vsrcOf f))
  | 0x0b => some (.vxor (vmodOf f.fx) (tyOf f.ty) (vOf f.d) (vOf f.a) (vsrcOf f))
  | 0x0c => some (.vshl (vmodOf f.fx) (tyOf f.ty) (vOf f.d) (vOf f.a) (vsrcOf f))
  | 0x0d => some (.vshr (vmodOf f.fx) (tyOf f.ty) (vOf f.d) (vOf f.a) (vsrcOf f))
  | 0x0e => some (.vsra (vmodOf f.fx) (tyOf f.ty) (vOf f.d) (vOf f.a) (vsrcOf f))
  | 0x0f => some (.vcmp (condOf f.fx) (tyOf f.ty) (kOf f.d) (vOf f.a) (vsrcOf f))
  | 0x10 => some (.vsel (kFxOf f.fx) (tyOf f.ty) (vOf f.d) (vOf f.a) (vsrcOf f))
  | 0x11 => some (.vrcp (vmodOf f.fx) (tyOf f.ty) (vOf f.d) (vOf f.a))
  | 0x12 => some (.vrsq (vmodOf f.fx) (tyOf f.ty) (vOf f.d) (vOf f.a))
  | 0x13 => some (.vexp2 (vmodOf f.fx) (tyOf f.ty) (vOf f.d) (vOf f.a))
  | 0x14 => some (.vlog2 (vmodOf f.fx) (tyOf f.ty) (vOf f.d) (vOf f.a))
  | 0x15 => some (.vdiv (vmodOf f.fx) (tyOf f.ty) (vOf f.d) (vOf f.a) (vsrcOf f))
  | 0x16 => some (.vsqrt (vmodOf f.fx) (tyOf f.ty) (vOf f.d) (vOf f.a))
  | 0x17 => some (.vpopc (vmodOf f.fx) (tyOf f.ty) (vOf f.d) (vOf f.a))
  | 0x18 => some (.vdot4 (vmodOf f.fx) (tyOf f.ty) (vOf f.d) (vOf f.a) (vsrcOf f))
  | _ => none

/-- The functions of major 0x51 (Table 9.9), operand fields read without checks. -/
def raw51 (f : Fields) : Nat → Option Instr
  | 0x00 => some (.vcvt (rselOf (f.imm.extractLsb' 4 4)) (kFxOf f.fx) (f.fx.getLsbD 0) (tyOf f.ty) (tyOf (f.imm.setWidth 4)) (f.imm.extractLsb' 8 2) (vOf f.d) (vOf f.a))
  | 0x01 => some (.vqnt (tyOf f.ty) (vOf f.d) (vOf f.a) (f.imm.setWidth 3) ((if f.imm.getLsbD 3 then some (gOf f.b) else none)))
  | 0x02 => some (.vdqt (vOf f.d) (vOf f.a) (f.imm.setWidth 3))
  | _ => none

/-- The functions of major 0x52 (Table 9.9), operand fields read without checks. -/
def raw52 (f : Fields) : Nat → Option Instr
  | 0x00 => some (.vred (redOf f.imm) (tyOf f.ty) (kFxOf f.fx) (gOf f.d) (vOf f.a))
  | 0x01 => some (.vscan (redOf f.imm) (f.imm.getLsbD 3) (tyOf f.ty) (kFxOf f.fx) (f.fx.getLsbD 0) (vOf f.d) (vOf f.a))
  | 0x02 => some (.vperm (tyOf f.ty) (kFxOf f.fx) (f.fx.getLsbD 0) (vOf f.d) (vOf f.a) (vOf f.b))
  | 0x03 => some (.vbcast (tyOf f.ty) (kFxOf f.fx) (f.fx.getLsbD 0) (vOf f.d) (bsrcOf f))
  | 0x04 => some (.vext (tyOf f.ty) (gOf f.d) (vOf f.a) (f.imm.setWidth 4))
  | 0x05 => some (.vins (tyOf f.ty) (vOf f.d) (gOf f.a) (f.imm.setWidth 4))
  | _ => none

/-- The functions of major 0x53 (Table 9.9), operand fields read without checks. -/
def raw53 (f : Fields) : Nat → Option Instr
  | 0x00 => some (.kand (kOf f.d) (kOf f.a) (kOf f.b))
  | 0x01 => some (.kor (kOf f.d) (kOf f.a) (kOf f.b))
  | 0x02 => some (.knot (kOf f.d) (kOf f.a))
  | 0x03 => some (.kmov (kfOf f))
  | 0x04 => some (.kpopc (gOf f.d) (kOf f.a))
  | _ => none

/-- The functions of major 0x60 (Table 9.9), operand fields read without checks. -/
def raw60 (f : Fields) : Nat → Option Instr
  | 0x00 => some (.bscan (gOf f.a) (gOf f.b) (gOf f.d))
  | 0x01 => some (.hamm (gOf f.d) (vOf f.a))
  | 0x02 => some (.filt (f.fx.getLsbD 0) (gOf f.d) (gOf f.a) (gOf f.b))
  | 0x03 => some (if f.fx.getLsbD 0 then .topkInit (f.imm) else .topk (gOf f.a) (gOf f.b))
  | 0x04 => some (.tkrd (gOf f.d) (⟨gOf f.a, f.imm⟩))
  | 0x05 => some (.bdot (gOf f.d) (gOf f.a) (gOf f.b) (Fin.ofNat 16 f.fx.toNat))
  | 0x06 => some (.badd (gOf f.d) (gOf f.a) (gOf f.b) (Fin.ofNat 16 f.fx.toNat))
  | 0x07 => some (.baxpy (gOf f.d) (gOf f.a) (gOf f.b) (Fin.ofNat 16 f.fx.toNat))
  | 0x08 => some (.bfill (gOf f.d) (gOf f.b) (Fin.ofNat 16 f.fx.toNat))
  | 0x09 => some (.bcopy (gOf f.d) (gOf f.a) (Fin.ofNat 16 f.fx.toNat))
  | _ => none

/-- The functions of major 0x70 (Table 9.9), operand fields read without checks. -/
def raw70 (f : Fields) : Nat → Option Instr
  | 0x00 => some (.srd (gOf f.d) (srOf f.imm))
  | 0x01 => some (.swr (srOf f.imm) (gOf f.a))
  | 0x02 => some (.trap (f.imm.setWidth 16))
  | 0x03 => some (.bkpt)
  | 0x04 => some (.isync)
  | _ => none

/-- Table 9.9: the function that a major opcode and FN name, operand fields read without checks. -/
def rawDecode (f : Fields) : Option Instr :=
  match f.opc.toNat with
  | 0x01 => raw01 f f.fn.toNat
  | 0x02 => raw02 f f.fn.toNat
  | 0x03 => raw03 f f.fn.toNat
  | 0x04 => raw04 f f.fn.toNat
  | 0x05 => raw05 f f.fn.toNat
  | 0x06 => raw06 f f.fn.toNat
  | 0x08 => raw08 f f.fn.toNat
  | 0x0c => raw0C f f.fn.toNat
  | 0x10 => raw10 f f.fn.toNat
  | 0x20 => raw20 f f.fn.toNat
  | 0x21 => raw21 f f.fn.toNat
  | 0x24 => raw24 f f.fn.toNat
  | 0x28 => raw28 f f.fn.toNat
  | 0x29 => raw29 f f.fn.toNat
  | 0x2c => raw2C f f.fn.toNat
  | 0x30 => raw30 f f.fn.toNat
  | 0x34 => raw34 f f.fn.toNat
  | 0x38 => raw38 f f.fn.toNat
  | 0x40 => raw40 f f.fn.toNat
  | 0x50 => raw50 f f.fn.toNat
  | 0x51 => raw51 f f.fn.toNat
  | 0x52 => raw52 f f.fn.toNat
  | 0x53 => raw53 f f.fn.toNat
  | 0x60 => raw60 f f.fn.toNat
  | 0x70 => raw70 f f.fn.toNat
  | _ => none

/-- The checks of R182 on the operand, modifier and immediate fields: the instruction that the fields name, if they are
exactly the fields of a well-formed instruction. -/
def decodeFields (f : Fields) : Option Instr :=
  match rawDecode f with
  | some i => if i.wf = true ∧ encodeFields i = some f then some i else none
  | none => none

/-- Table 9.1: the 96 bits of a header and fields, bit 72 zero. -/
def packWord (h : Hdr) (f : Fields) : BitVec 96 :=
  f.opc ++ BitVec.ofBool h.gn ++ BitVec.ofNat 3 h.gp.val ++ f.fn ++ h.st ++ BitVec.ofBool h.yld ++ 0#1 ++
    f.d ++ f.a ++ f.b ++ f.ty ++ f.scp ++ f.ord ++ BitVec.ofBool f.ims ++ BitVec.ofBool f.izx ++ f.fx ++ f.imm

/-- Table 9.1: the fields of a word. -/
def fieldsOf (w : BitVec 96) : Fields :=
  { opc := w.extractLsb' 88 8, fn := w.extractLsb' 78 6, d := w.extractLsb' 64 8, a := w.extractLsb' 56 8
    b := w.extractLsb' 48 8, ty := w.extractLsb' 44 4, scp := w.extractLsb' 40 4, ord := w.extractLsb' 38 2
    ims := w.getLsbD 37, izx := w.getLsbD 36, fx := w.extractLsb' 32 4, imm := w.extractLsb' 0 32 }

/-- Table 9.1: the guard and hints of a word. -/
def hdrOf (w : BitVec 96) : Hdr :=
  { gn := w.getLsbD 87, gp := Fin.ofNat 8 (w.extractLsb' 84 3).toNat, st := w.extractLsb' 74 4, yld := w.getLsbD 73 }

/-- R182 without the level: a pool unit, an illegal word, or an instruction with its guard and hints. The guard
GN = 1 with GP = 0 and a nonzero bit 72 are illegal. -/
def decodeWord (w : BitVec 96) : Decoded :=
  if w.extractLsb' 88 8 = 0xFF#8 then .pool
  else if w.getLsbD 72 then .illegal
  else if (hdrOf w).gn && (hdrOf w).gp.val == 0 then .illegal
  else match decodeFields (fieldsOf w) with
    | some i => .instr (hdrOf w) i
    | none => .illegal

/-- The word of an instruction under a guard and hints; none for an event. -/
def encode (h : Hdr) (i : Instr) : Option (BitVec 96) := (encodeFields i).map (packWord h)

/-- No guard (p0) and no hints (R168, R188). -/
def Hdr.plain : Hdr := { gn := false, gp := 0, st := 0, yld := false }

/-- The twelve bytes of a word in the order memory holds them (R166). -/
def wordBytes (w : BitVec 96) : List (BitVec 8) := (List.range 12).map fun j => w.extractLsb' (8 * j) 8

/-- The word that twelve bytes of memory hold. -/
def bytesWord (l : List (BitVec 8)) : BitVec 96 :=
  BitVec.ofNat 96 (l.foldr (fun b n => b.toNat + 256 * n) 0)

/-- The instruction the decoder reads from bits numbered as the opcode table numbers them: an Etmin instruction is one
96-bit word, so its bits are the word's bits whatever number the table gives the row. -/
def decodeTableWord (_nbits w : Nat) : Option Instr :=
  match decodeWord (bytesWord (wordBytes (BitVec.ofNat 96 w))) with
  | .instr _ i => some i
  | _ => none

end Sys2Proof
end

