-- ==== Sys2Proof/Machine/State.lean ====
section
/-! DEFINITION. Sys2Proof/Machine/State.lean: the state of the wafer module as plain data, and the state after reset.
INVENTORY.md lists every piece with its rule and its reset value. Operations stand in the other files of this folder. -/

namespace Sys2Proof.Machine

/-- Keyed data: a list of key and value pairs, keys rising, a missing key standing for a default that the accessor names. -/
abbrev Assoc (α : Type) := List (Nat × α)

/-- The cause codes of Table 17.2 (17 R359). -/
inductive Cause where
  | address | partition | viewWrite | sysSpace | unmapped | table | protection | syncPage | revoked | poison | pinFetch
  | illegal | poolExec | trap | bkpt | step | supStop | regParity | podFormat | pane | paneState | paneBusy | stream
  | gang | gangStop | port | barrier | sreg | window | mparam | mgroup | card | cipher | notVis | footprint | noScan
  | mdata | noPlane | mismatch | group | abort | debugWin | preemptWait | record | loadBand | loadLane
  deriving DecidableEq, Repr

/-- A use of a tile's arrays (03 R55): region 0 vault or 1 pane space, its first byte, how many, and whether through L2. -/
structure Touch where
  t : Tile
  region : Nat
  at_ : Nat
  n : Nat
  l2 : Bool
  deriving DecidableEq, Repr

/-- A fault or violation as it is found: the cause, the address concerned, the syndrome word, and the words that this
access found uncorrectable and that are poisoned from now on, each with whether it lies in the vault beneath a dirty line
(03 R417); and the storage that the access has used, which leaves retention though the access fails (03 R55). -/
structure Trap where
  cause : Cause
  addr : Word := 0
  syn : Word := 0
  newPoison : List (Nat × Bool) := []
  touched : List Touch := []
  deriving DecidableEq, Repr

/-- A rectangle of partition-relative tiles. -/
structure Rect where
  x : Nat
  y : Nat
  w : Nat
  h : Nat
  deriving DecidableEq, Repr

/-- A thread (08 R146, Table 9.5, Table 5.1): its registers, the fields that a pod carries, its launch (R414; by Launch.no), its
explicit pin, the park-ring slot it holds at its charge tile (R108) and the TUBER job it counts for (R165). -/
structure Thread where
  pc : Word
  g : Vector Word 16
  v : Vector VReg 8
  p : Vector Bool 8
  k : Vector (BitVec 16) 4
  vlive : BitVec 8
  klive : BitVec 3
  rm : BitVec 2
  fst : BitVec 5
  tid : BitVec 32
  hop : BitVec 32
  ox : BitVec 7
  oy : BitVec 6
  cx : BitVec 7
  cy : BitVec 6
  pid : BitVec 6
  bcnt : BitVec 3
  apin : Bool
  pspan : BitVec 16
  epin : Bool
  launch : Option Nat
  slot : Nat
  ret : Bool
  rel : Bool
  parked : Bool
  tjob : Option (Nat × Nat)
  deriving DecidableEq, Repr

/-- What travels beside a pod's bytes (log 16); bad is the cause with which the pod will be installed frozen: PODFORMAT for one
whose park-ring slot was edited (R82), POISON for one that a crossbar has poisoned (03 R58). -/
structure Side where
  bad : Option Cause
  epin : Bool
  launch : Option Nat
  slot : Nat
  tjob : Option (Nat × Nat)
  deriving DecidableEq, Repr

/-- The destination of a pending request (11 R226). -/
inductive Dest where
  | g (r : Nat) (ty : Ty)
  | pair (r : Nat)
  | vec (r : Nat)
  | pred (p : Nat)
  | gp (r : Nat) (p : Nat)
  | none
  deriving DecidableEq, Repr

/-- One pending destination: the requests still due, each with the lanes its reply fills, and the lowest faulting lane
met so far with its trap (11 R226, R234). -/
structure Pend where
  dest : Dest
  subs : List (Nat × List Nat)
  addrs : List (Word × Nat)
  pc : Word
  iw : BitVec 96
  bad : Option (Nat × Trap)
  deriving DecidableEq, Repr

/-- One write not yet acknowledged: PUT, PUTC or fire-and-forget atomic (05 R83, 06 R105); a lane of a scattered store carries
the number of the store's first request and its lane (11 R234). -/
structure Out where
  id : Nat
  addr : Word
  len : Nat
  pc : Word
  iw : BitVec 96
  lane : Option (Nat × Nat)
  deriving DecidableEq, Repr

/-- A write still outstanding of a thread whose context an unpinned wait or spatial pre-emption has released (11 R236), and
whether a FENCE.rel of the thread waits for it. -/
structure LeftOut where
  pid : Nat
  tid : BitVec 32
  out : Out
  rel : Bool
  deriving DecidableEq, Repr

/-- What a cache instruction does to each line of its range (11 R248); a LOCKL with its register and predicate. -/
inductive LineFn where
  | lock (d : Nat) (pn : Nat) | unlock | wback | wbinv | inval
  deriving DecidableEq, Repr

/-- What a waiting context waits for (Table 8.2). -/
inductive Wait where
  | none
  /-- A resource or condition that the instruction tests when it issues again. -/
  | retry
  /-- The reply of a handler message or SPAWNX record. -/
  | reply (id : Nat)
  /-- The binding snapshot of a pinned GIVE (06 R113). -/
  | snapshot (id : Nat)
  /-- A pane claim of n slots on a side (03 R45); what follows it: 0 the slot's address into g reg, 1 VPOP into v reg,
  2 VPUSH from v reg. -/
  | claim (h : Nat) (prod : Bool) (n : Nat) (what : Nat) (reg : Nat)
  /-- LEAD with the tiles to follow and those reserved (13 R276). -/
  | lead (tiles : List Nat) (held : List Nat)
  /-- A barrier wait: unit, phase of the token, timeout, start, predicate (11 R245). -/
  | barrier (u : Nat) (ph : BitVec 32) (timeout : Nat) (start : Nat) (p : Nat)
  /-- A tuber access or bank operator in progress (15 R320). -/
  | bank
  /-- A cache instruction with lines still to do: what it does, the vault-space offset of its next line, how many are left, how
  many are locked, and how many its range has (11 R247, R248). -/
  | lines (op : LineFn) (next : Nat) (left : Nat) (hit : Nat) (total : Nat)
  /-- A store to DCMD of a context whose effect on DSTAT is still to come (17 R365). -/
  | dcmd (t : Nat) (c : Nat)
  deriving DecidableEq, Repr

/-- Table 8.2, Table 5.4 and Table 15.2. -/
inductive CtxSt where
  | free | ready | running | waiting | packing | held | refused | frozen | inService | returning | saving
  deriving DecidableEq, Repr

/-- Gang membership (Table 8.5): a follower keeps the PC after its FOLLOW. -/
inductive Gang where
  | none | armed
  | following (leader : Nat) (ctx : Nat) (ret : Word)
  | leading (members : List Nat)
  deriving DecidableEq, Repr

/-- One instruction forwarded to a follower, with the leader's outcome (08 R160): its next PC, and whether its guard
was true. -/
structure Fwd where
  iw : BitVec 96
  pc : Word
  next : Word
  live : Bool
  deriving DecidableEq, Repr

/-- A tuber access or bank operator in progress (15 R320, R327, R329): the PC of its word; what it is, 0 LD, 1 ST, 5 to 9 as FN
numbers it, 10 HAMM, 11 TKRD; its addresses, scalar and count; how many accesses have been made; what it has gathered; its
destination; and the tuber cycle of its present request. -/
structure OpProg where
  pc : Word
  op : Nat
  x : Word
  y : Word
  z : Word
  scal : Nat
  n : Nat
  i : Nat
  acc : List Nat
  dest : Dest
  asked : Nat
  deriving DecidableEq, Repr

/-- The scan state, top-k list and job of a tuber context (15 R321, Table 15.7), with what a supervisor has written to the list's
entries above its count (17 R363) and the operator in progress (PROG). -/
structure Tub where
  so : Bool
  sbase : Word
  idb : BitVec 32
  nrow : Nat
  fa : Bool
  fne : Bool
  fbase : Word
  fmask : BitVec 32
  fval : BitVec 32
  flo : BitVec 32
  fhi : BitVec 32
  tcap : Nat
  tlist : List (BitVec 16 × BitVec 32)
  spare : Assoc (BitVec 16 × BitVec 32)
  prog : Option OpProg
  jent : Nat
  heldSlot : Option Nat
  preempt : Bool
  isNcmd : Bool
  deriving DecidableEq, Repr

/-- The pod copy of a migrating thread: where it goes, its KIND, MIGR's predicate (0 none), when it was first refused
(05 R87, R89). -/
structure Mig where
  dst : Tile
  kind : BitVec 2
  pn : Nat
  firstRefused : Option Nat
  refusals : Nat
  deriving DecidableEq, Repr

/-- A context of a tile core (0 to 31) or of a tuber core (32 to 39), with the word it issued last (08 R148, 15 R320,
17 R362, R368). snap is the binding snapshot of a GIVE that waits (06 R112); joined the PC of a JOIN that has decremented its counter
and whose exit waits (13 R274). -/
structure Ctx where
  st : CtxSt
  th : Thread
  iw : BitVec 96
  nextOk : Nat
  yieldSkip : Bool
  wait : Wait
  pend : List Pend
  outs : List Out
  relIds : List Nat
  snap : Option (List (Word × Word))
  gang : Gang
  fq : List Fwd
  mig : Option Mig
  tb0 : Option (List Word)
  tb1 : Option (List Word)
  stepping : Bool
  preh : Bool
  relocating : Option Tile
  stopReq : Bool
  joined : Option Word
  dtgt : Word
  tub : Tub
  deriving DecidableEq, Repr

/-- A queued or travelling fire-and-forget atomic operation (Table 11.5). -/
inductive AtomOp where | add | fadd | min | max | and | or | xor
  deriving DecidableEq, Repr

/-- An entry of the combining buffer (05 R96): contributors are context, TID, PC and word. -/
structure CombEnt where
  id : Nat
  addr : Word
  op : AtomOp
  ty : Ty
  val : Word
  who : List (Nat × BitVec 32 × Word × BitVec 96)
  born : Nat
  deriving DecidableEq, Repr

/-- The operation of a handler message (Table 11.2). -/
inductive MsgOp where
  | xadd (ty : Ty) (b : Word)
  | xchg (ty : Ty) (b : Word)
  | cas (ty : Ty) (d b : Word)
  | take (dreg : Nat)
  | tryt
  | give (v : Word)
  | peek (dreg : Nat)
  | sete
  | feq
  | bindR (base : Word) (len : Word)
  | unbindR (base : Word) (len : Word)
  | cwait (tgt : Word)
  | ctest (tgt : Word)
  | join
  deriving DecidableEq, Repr

/-- Who sent a request: tile, context, request number, and the thread's identity for the checks and the packet. -/
structure Req where
  t : Tile
  c : Nat
  id : Nat
  tid : BitVec 32
  pc : Word
  iw : BitVec 96
  priv : Bool
  slot : Nat
  charge : Tile
  deriving DecidableEq, Repr

/-- Whose completion an increment tells (07 R142, 14 R312): what a packet about it says, should the increment fail. -/
structure JobRef where
  t : Tile
  c : Nat
  tid : BitVec 32
  pc : Word
  iw : BitVec 96
  code : Word
  fromQueue : Bool
  deriving DecidableEq, Repr

/-- A continuation record (Table 8.4), with the TUBER job that its thread counts for (R165). -/
structure Rec where
  lch : Nat
  cpc : BitVec 58
  fp : Word
  jca : Word
  arg1 : BitVec 32
  arg0 : BitVec 32
  tjob : Option (Nat × Nat)
  deriving DecidableEq, Repr

/-- Kinds of waiter (Table 6.2). -/
inductive WKind where | take | peek | cwait
  deriving DecidableEq, Repr

/-- An entry of a deferred list with its wait record (06 R107, R108). -/
structure DefEnt where
  kind : WKind
  tgt : Word
  waddr : Word
  charge : Tile
  slot : Nat
  tid : BitVec 32
  pin : Bool
  ctx : Nat
  ctxTile : Tile
  reqId : Nat
  dreg : Nat
  deriving DecidableEq, Repr

/-- A member's contribution to a collective (07 R139): group, matching number, tile, rank, what its job says, its source elements,
and whether a crossbar has poisoned them on their way (03 R58). -/
structure CollSt where
  grp : Nat
  no : Nat
  tile : Tile
  rank : Nat
  gsize : Nat
  op : Nat
  red : Nat
  ty : Nat
  count : Nat
  root : Nat
  src : List Word
  bad : Bool
  deriving DecidableEq, Repr

/-- What stands in a router's slot for a group and a matching number (07 R141): the port, 0 to 7 as Table 7.4 numbers them, 8 the
tile's own engine, 9 the result, 10 the joined peer, 11 what has gone to that peer (18 R386); the contributions combined so far,
by rank; and the sender whose credit returns when the slot is free, with its key. -/
structure CollIn where
  grp : Nat
  no : Nat
  port : Nat
  ents : List CollSt
  src : Option (Tile × Nat)
  deriving DecidableEq, Repr

/-- What a frame of a module link carries (01 R19, 18 R386): an access of a COPY with its number, n bytes from a global address of the
partition it goes to, or with data written there; the answer to one, none where it was refused; a store to a wake register; what a
root sends to the root that it is joined to. -/
inductive PeerMsg where
  | access (tag : Nat) (a : Word) (n : Nat) (data : Option (List Byte))
  | answer (tag : Nat) (data : Option (List Byte))
  | wake (a v : Word)
  | coll (grp no : Nat) (ents : List CollSt)
  deriving DecidableEq, Repr

/-- A root's answer to an MRED of another tile (14 R311): the buffer of its rank is granted, its contribution consumed, or refused. -/
inductive MredAns where | granted | consumed | refused
  deriving DecidableEq, Repr

/-- The body of a packet on a virtual channel (Table 5.2). An MRED asks its root for the buffer of its rank, with no cells, and then
sends them. host is a request of a service core on its way to its home (18 R385), hostRe its bytes on their way back; peerIn and
peerOut carry what a frame of a module link brings or takes (18 R386). -/
inductive Body where
  | pod (th : Thread) (kind : BitVec 2) (fromSlot : Option (Nat × Nat)) (bad : Option Cause)
  | accept (tid : BitVec 32)
  | acceptSlot (slot : Nat)
  | refuse (tid : BitVec 32)
  | refuseSlot (slot : Nat)
  | freeNotice
  | parkDeposit (th : Thread) (kind : BitVec 2) (dst : Tile) (bad : Option Cause)
  | chargeRelease (slot : Nat)
  | get (r : Req) (pieces : List (Word × Nat))
  | put (r : Req) (pieces : List (Word × Nat)) (data : List Byte)
  | putc (r : Req) (pieces : List (Word × Nat)) (data : List Byte) (cnt : Word) (inc : Nat)
  | msg (r : Req) (a : Word) (op : MsgOp)
  | bquery (r : Req) (a : Word)
  | bsnap (r : Req) (regions : List (Word × Nat))
  | flush (ents : List CombEnt)
  | data (r : Req) (bytes : List Byte)
  | ack (r : Req)
  | bad (r : Req) (tr : Trap) (wr : Bool)
  | incr (r : Option Req) (a : Word) (n : Nat) (serves : Bool)
  | incrFor (j : JobRef) (a : Word) (n : Nat)
  | incrBad (j : JobRef) (tr : Trap)
  | atomicAck (res : List (CombEnt × Option Trap))
  | waitDeposit (e : DefEnt) (th : Option Thread)
  | link (slot : Nat) (off : Nat) (v : Word)
  | wake (e : DefEnt) (v : Option Word)
  | wakeRet (a : Word) (v : Word)
  | spawnx (r : Req) (rec : Rec)
  | spawnxRe (r : Req) (ok : Bool)
  | depth (d : Nat)
  | ship (recs : List Rec)
  | shipRe (accepted : Nat)
  | edge (r : Req) (pieces : List (Word × Nat)) (data : Option (List Byte)) (cnt : Option (Word × Nat))
  | portWord (d : Dir) (v : Word)
  | portCredit (d : Dir)
  | lead (leader : Tile) (ctx : Nat) (rank : Nat) (release : Bool)
  | leadRe (tile : Tile) (ok : Bool)
  | elem (t : Tile) (job : Nat) (a : Word) (n : Nat) (wr : Option (List Byte))
  | elemRe (job : Nat) (bytes : List Byte) (tr : Option Trap)
  | credit (key : Nat)
  | coll (grp no key : Nat) (up : Bool) (ents : List CollSt)
  | mred (fromTile : Tile) (no tag rank s row0 nr : Nat) (cells : Option (List (Int × Int)))
  | mredRe (no : Nat) (ans : MredAns)
  | ncmdRe (r : Req) (v : Word) (tr : Option Trap)
  | wakeNotice (q : Nat)
  | faultPkt (ws : List Word) (pid : Nat) (crash : Bool)
  | launchDone (pid : Nat) (li : Nat)
  | voteReq (f : Nat) (epoch : Nat)
  | vote (f : Nat) (epoch : Nat)
  | renew (f : Nat) (epoch : Nat) (no : Nat)
  | renewAck (f : Nat) (epoch : Nat) (no : Nat)
  | share (f : Nat) (epoch : Nat) (allot : Nat)
  | host (sc : Nat) (wr : Bool)
  | hostRe (sc : Nat) (data : Option (List Byte))
  | peerIn (link : Nat) (m : PeerMsg)
  | peerOut (link : Nat) (m : PeerMsg)
  deriving DecidableEq, Repr

/-- A packet in flight: source and destination site, virtual channel, body, and the flits of its payload, 32 bytes each, in which a
crossbar has found a parity error (03 R58; log 97). Sites: a tile; 10000 + f the firmware core of field f; 20000 + e the edge channel e, for e of 32 and more
the module link e - 32, of 48 and more the service core e - 48; 30000 + 128 e + b the spoke of block b, for that unit e; 40000 + c the switch of crescent c. -/
structure Packet where
  src : Nat
  dst : Nat
  vc : Nat
  body : Body
  bad : List Nat
  deriving DecidableEq, Repr

/-- An entry of the TLB (02 R35, R36). -/
structure TlbEnt where
  base : Nat
  size : Nat
  leaf : Word
  deriving DecidableEq, Repr

/-- A dirty L2 line: the vault's bytes, full tags, poison and latent errors beneath it, the key id of its stores, and the
16-byte granules that stores have changed (03 R49, 06 R125, 11 R248). -/
structure DirtyLine where
  cells : List Host.Cell
  full : List Nat
  poison : List Nat
  latent : List Nat
  key : Nat
  grans : List Nat
  deriving DecidableEq, Repr

/-- A locked L2 line: the launch that it is charged to, and its way (03 R51, R52). -/
structure LineLock where
  li : Option Nat
  way : Nat
  deriving DecidableEq, Repr

/-- A key slot (18 R380). -/
inductive KeySlot where
  | empty | loaded (data tweak : BitVec 128) | revoked
  deriving DecidableEq, Repr

/-- A format window (Tables 4.6 and 4.7), with the number of writes to its registers (14 R315). -/
structure Win where
  en : Bool
  cerr : Bool
  key : BitVec 4
  scm : Bool
  fmt : BitVec 5
  gen : BitVec 32
  src : BitVec 30
  nrow : BitVec 32
  rowlen : BitVec 32
  pitch : BitVec 30
  scl : BitVec 30
  writes : Nat
  deriving DecidableEq, Repr

/-- The state of a pane slot (03 R45); a slot not listed is empty. -/
inductive Slot where | empty | filling | ready | draining
  deriving DecidableEq, Repr

/-- An open stream (13 R281). -/
structure Stream where
  c : Nat
  tid : BitVec 32
  pc : Word
  iw : BitVec 96
  base : Word
  esz : Nat
  counts : List Nat
  strides : List Word
  next : Nat
  deriving DecidableEq, Repr

/-- A claim that waits: context, or 64 plus the number of the job whose engine claims, side, number (03 R45). -/
structure Claim where
  c : Nat
  prod : Bool
  n : Nat
  deriving DecidableEq, Repr

/-- A pane (Table 3.2, Table 13.5). -/
structure Pane where
  mode : BitVec 2
  serr : Bool
  send : Bool
  cptr : Nat
  pptr : Nat
  nslot : Nat
  ssz : Nat
  base : Nat
  slots : Assoc Slot
  ccur : Nat
  pcur : Nat
  claims : List Claim
  stream : Option Stream
  deriving DecidableEq, Repr

/-- A barrier unit (11 R243). -/
structure BarUnit where
  ph : BitVec 32
  desc : Option Word
  deriving DecidableEq, Repr

/-- A port (08 R162, R163); bad tells of each queued word whether a crossbar has poisoned it (03 R58). -/
structure Port where
  owner : Option Nat
  q : List Word
  bad : List Bool
  credits : Nat
  deriving DecidableEq, Repr

/-- A region of a job card (Table 7.1). -/
structure Region where
  base : Word
  len : Nat
  rect : Bool
  deriving DecidableEq, Repr

/-- Where an engine stands with the element it moves (07 R136, R137, R141). -/
inductive Phase where
  | idle | index | read | write | blocked
  deriving DecidableEq, Repr

/-- An entry of the job window (07 R130 to R134). Kind 4 is an NCMD, with the request number of its reply; slots lists the pane
slots that its engine holds (03 R45). -/
structure Job where
  ent : Nat
  order : Nat
  kind : Nat
  pri : Nat
  rd : List Region
  wr : List Region
  inc : Nat
  cnt : Word
  sta : Word
  prm : List Word
  tid : BitVec 32
  c : Nat
  pc : Word
  iw : BitVec 96
  launch : Option Nat
  q : Option (Nat × Nat × Nat)
  card : Word
  deps : List Nat
  edges : List Nat
  started : Bool
  next : Nat
  phase : Phase
  buf : List Byte
  idx : Nat
  finished : Bool
  cause : Nat
  faddr : Word
  live : Nat
  collNo : Option Nat
  req : Nat
  slots : List (Nat × Nat)
  deriving DecidableEq, Repr

/-- The provenance and units of a plane (14 R293). due is its window's generation and register writes when its MLDS was accepted, while
that is outstanding; broken tells that the window was written meanwhile (R315). -/
structure Plane where
  wnd : Nat
  u0 : Nat
  cstr : Nat
  nc : Nat
  tier : Nat
  units : List (List Byte)
  due : Option (BitVec 32 × Nat)
  broken : Bool
  deriving DecidableEq, Repr

/-- An accepted matrix instruction (14 R294). Kinds: 0 MMUL, 1 MMULG, 2 MRED, 3 MSTO, 4 MLDS, 5 MSWP, 6 MZERO. no is its number,
deps the writes it waits for (R314), gang the members of a GSYNC, gens the windows' generations and register writes at acceptance
(R315). -/
structure MxIns where
  kind : Nat
  blk : List Word
  a : Word
  b : Word
  n : Nat
  c : Nat
  tid : BitVec 32
  pc : Word
  iw : BitVec 96
  no : Nat
  deps : List Nat
  gang : List Tile
  gens : List (BitVec 32 × Nat)
  deriving DecidableEq, Repr

/-- The matrix instruction that has run and not yet completed: its words and cause, and the planes and banks as they will
stand when it completes (14 R302, R304, R313). asked tells that a waiting MRED has asked its root for a buffer (R311); wins lists the
windows that it has read (R315). -/
structure MxRun where
  ins : MxIns
  status : Word
  count : Word
  waiting : Bool
  asked : Bool
  cause : Option Trap
  mdata : Bool
  wins : List Nat
  active : Option Plane
  shadow : Option Plane
  bank0 : Assoc (Int × Int)
  bank1 : Assoc (Int × Int)
  deriving DecidableEq, Repr

/-- An MRED at its root (14 R311): st 0 it has asked, 1 the buffer of its rank is granted, 2 its cells are held, 3 refused. -/
structure MredArr where
  tile : Tile
  no : Nat
  tag : Nat
  set : Nat
  rank : Nat
  s : Nat
  row0 : Nat
  nr : Nat
  st : Nat
  cells : List (Int × Int)
  deriving DecidableEq, Repr

/-- The matrix engine (14 R292, R305). -/
structure Mx where
  active : Option Plane
  shadow : Option Plane
  bank0 : Assoc (Int × Int)
  bank1 : Assoc (Int × Int)
  queue : List MxIns
  run : Option MxRun
  rpc : List Word
  msat : Word
  munf : Word
  movf : Word
  mcan : Word
  arrivals : List MredArr
  mredSeen : Assoc Nat
  mredOwn : Assoc Nat
  deriving DecidableEq, Repr

/-- A saved tuber thread (15 R330, R331). -/
structure Saved where
  held : Bool
  slot : Nat
  seq : BitVec 32
  pri : Nat
  th : Thread
  tub : Tub
  tb0 : Option (List Word)
  tb1 : Option (List Word)
  frozen : Bool
  deriving DecidableEq, Repr

/-- A population entry (16 R348): launch index and threads already created; placed tells that it was installed on an empty tile, where
thread j takes context cj (22 R405). -/
structure Pop where
  li : Nat
  made : Nat
  quota : Nat
  placed : Bool
  deriving DecidableEq, Repr

/-- The companion of a park-ring slot in use (05 R87, 06 R108). -/
structure ParkSt where
  side : Side
  waiting : Option DefEnt
  hasPod : Bool
  refused : Bool
  seq : Nat
  deriving DecidableEq, Repr

/-- An outstanding PREF with a counter (03 R50). -/
structure PrefSt where
  cnt : Word
  inc : Nat
  tid : BitVec 32
  c : Nat
  pc : Word
  iw : BitVec 96
  deriving DecidableEq, Repr

/-- A logical tile (01 R15). ccache holds words with 0, or with 1 plus the queue and packet number that filled them early (16 R354);
moving the pods that it has sent from no context and that are not yet accepted, of a pre-empted arrival ring (17 R373) or of a
return trap (15 R320); ibuf the tuber core's
instruction buffer in lines (15 R319); credits the VC6 slots that its units have taken and whose credit has not returned, by key,
and colls the slots of its router (07 R141). -/
structure TileSt where
  prt : Word
  tco : Word
  npn : Word
  npe : Word
  nps : Word
  npw : Word
  scope : List Word
  vtb : Word
  supv : Word
  frb : Word
  frc : Word
  frd : Word
  flost : Word
  ctxs : Assoc Ctx
  ptr : Nat
  tptr : Nat
  lcyc : Nat
  tcyc : Nat
  created : Nat
  seq : Nat
  ncr : Nat
  cecnt : Word
  lanes : Nat
  holdLimit : Nat
  bounceLim : Nat
  pinSpan : Nat
  drainInt : Nat
  balInt : Nat
  tlb : List TlbEnt
  icache : Assoc (List Byte)
  ibuf : Assoc (List Byte)
  ccache : Assoc (Word × Nat)
  dirty : Assoc DirtyLine
  locks : Assoc LineLock
  retained : List Arr
  keys : Assoc KeySlot
  wins : Assoc Win
  panes : Assoc Pane
  arrHead : Nat
  arrSides : List Side
  park : Assoc ParkSt
  slots : List Nat
  notices : List Tile
  hq : List Packet
  comb : List CombEnt
  deferred : Assoc (List DefEnt)
  binds : List (Word × Word × Word)
  wakeTab : List (Word × Nat)
  bar0 : BarUnit
  bar1 : BarUnit
  ports : Assoc Port
  moving : List (Thread × Tile × Option Cause)
  deque : List Rec
  spHead : Nat
  spCount : Nat
  spJobs : List (Option (Nat × Nat))
  depths : Assoc Nat
  shipping : List (Tile × List Rec)
  balAt : Nat
  pops : List Pop
  jobs : List Job
  jobOrder : Nat
  groups : Assoc Word
  credits : Assoc Nat
  colls : List CollIn
  mx : Mx
  saved : List Saved
  saveSeq : BitVec 32
  leadRes : Option (Tile × Nat × Nat)
  leading : Option Nat
  prefs : List PrefSt
  px : Nat
  py : Nat
  ex : Nat
  ey : Nat
  deriving DecidableEq, Repr

/-- A launch that runs (16 R348), and the rectangle it holds against victims (17 R372). no tells it from other launches that take
its index: it is 64 times a count plus the index. Victims are launches by that number, each with the rectangle that its relocation
map was made from (R372); begun lists the tiles on which its
population has been installed. -/
structure Launch where
  li : Nat
  no : Nat
  q : Nat
  pkt : Nat
  node : Option Nat
  prio : Nat
  dom : Nat
  quota : Nat
  rect : Rect
  pc : Word
  args : Word
  argsz : Nat
  lockq : Nat
  seeds : List Word
  lwa : Word
  holds : Bool
  victims : Assoc Rect
  begun : List Tile
  deriving DecidableEq, Repr

/-- A partition (18 R378). collSeq counts the COLL jobs of each member and group (07 R139); joins names the link over which a group's
tree is joined to a peer's (R386). -/
structure Part where
  pid : Nat
  x0 : Nat
  y0 : Nat
  w : Nat
  h : Nat
  chans : List Nat
  links : List Nat
  segKey : Assoc Nat
  peers : Assoc (Nat × PeerTarget)
  edgeKeys : Assoc KeySlot
  tkey : BitVec 128
  scs : List Nat
  apb : Assoc Word
  repBase : Assoc Word
  repSize : Assoc Nat
  repSeq : Nat
  launches : Assoc Launch
  launchSeq : Nat
  collSeq : Assoc Nat
  joins : Assoc Nat
  revoking : List (Nat × Nat)
  band : Nat
  halted : Bool
  deriving DecidableEq, Repr

/-- A node of a replay (16 R356). -/
inductive NodeSt where | waiting | started | done
  deriving DecidableEq, Repr

/-- A packet that a queue has taken (16 R346, R352). -/
structure QPkt where
  num : Nat
  ws : List Word
  started : Bool
  done : Bool
  copy : Option Nat
  nodes : List NodeSt
  graph : List Word
  order : Nat
  deriving DecidableEq, Repr

/-- A user queue (16 R343 to R353). -/
structure Queue where
  pid : Nat
  desc : QDesc
  logn : Nat
  cls : Nat
  eff : Nat
  since : Option Nat
  w : Nat
  r : Nat
  pkts : List QPkt
  stopped : Bool
  untaken : Bool
  deriving DecidableEq, Repr

/-- Table 18.5. -/
inductive Lease where | follower | candidate | crown
  deriving DecidableEq, Repr

/-- A field with its firmware core (18 R387, R388; 16 R353); cool tells what the core, as crown, has been told of a cooling fault
(01 R22), renewNo counts its renewals, shareAt is the cycle at which it shares the budget next. -/
structure Field where
  lease : Lease
  epoch : Nat
  voted : Nat
  votes : List Nat
  acks : List Nat
  cyc : Nat
  timer : Nat
  renewAt : Nat
  allot : Nat
  demand : Nat
  cool : Bool
  band : Nat
  promoteInt : Nat
  lastQ : Assoc Nat
  down : Bool
  renewNo : Nat
  shareAt : Nat
  deriving DecidableEq, Repr

/-- One virtual channel of a link: the sequence numbers of the next packet sent and of the next to be delivered, and the
buffer slots granted and not yet returned (05 R101). -/
structure LinkVc where
  next : BitVec 8
  due : BitVec 8
  used : Nat
  deriving DecidableEq, Repr

/-- A packet on a link with its sequence number. -/
structure Flight where
  no : BitVec 8
  pkt : Packet
  deriving DecidableEq, Repr

/-- One direction of a link between two routers (05 R101, 03 R58): its eight virtual channels, the copies that the sender keeps
until they are confirmed, what is on the wire, the retries of its head, and the resets made. -/
structure Link where
  vcs : List LinkVc
  kept : List Flight
  wire : List Flight
  retries : Nat
  resets : Nat
  deriving DecidableEq, Repr

/-- A request to a peer module not yet answered (18 R386): its link and number, the site and tile it came from, the job, the key of
its credit, its address, its size, and whether it writes. -/
structure PeerReq where
  link : Nat
  tag : Nat
  site : Nat
  t : Tile
  order : Nat
  key : Nat
  addr : Word
  n : Nat
  wr : Bool
  deriving DecidableEq, Repr

/-- A request of the host that a service core has taken and not yet finished (18 R385, 06 R129): BAR2 offset, and the bytes written or
the number read; sent tells that it is on its way to its home. -/
structure HostReq where
  sc : Nat
  pid : Nat
  off : Nat
  data : Option (List Byte)
  len : Nat
  sent : Bool
  deriving DecidableEq, Repr

/-- The vault of a spare that no tile stands on (01 R15): its bytes, and the words that are full, poisoned or in error. -/
structure SpareVault where
  cells : List Host.Cell
  full : List Nat
  poison : List Nat
  latent : List Nat
  deriving DecidableEq, Repr

/-- A record or reply that leaves the module (18 R383, R385, R390). A report's function is a partition number, or 64 for the
physical function; its place is that in the report ring of a virtual function. -/
inductive HostOut where
  | report (pid : Nat) (ws : List Word) (place : Option Word)
  | mailbox (code : Nat)
  | read (sc : Nat) (data : Option (List Byte))
  | attest (digest : BitVec 256) (sig : BitVec 512)
  /-- A frame that leaves over a module link, encrypted and authenticated (18 R386). -/
  | frame (link : Nat) (bytes : List Byte)
  /-- The launch records of a load image, each its packet and its name (09 R196). -/
  | launches (pid : Nat) (records : List (List Byte × List Byte))
  /-- What firmware or the host's debug path has read of a tile's system space; none where it was refused (02 R28). -/
  | sysRead (w : Writer) (t : Tile) (o : Nat) (data : Option (List Byte))
  /-- An MSI-X message of a function, by its vector (18 R384). -/
  | msix (pid : Nat) (vector : Nat)
  deriving DecidableEq, Repr

/-- The unit that executes an instruction: tile, context, word. -/
structure Cur where
  t : Tile
  c : Nat
  iw : BitVec 96
  deriving DecidableEq, Repr

/-- One entry of the agenda, which says which agent moves next (log 3). -/
inductive Act where
  /-- One tile cycle of the core (08 R149). -/
  | core (t : Tile)
  /-- One tuber cycle (15 R316). -/
  | tuber (t : Tile)
  /-- A named ready context issues: a context of the tile core, or 32 + t. -/
  | issue (t : Tile) (c : Nat)
  /-- An event of another agent. -/
  | event (i : Instr)
  /-- The handler queue of the destination takes packet n (05 R94). -/
  | enq (n : Nat)
  /-- Packet n arrives: the event of its kind. -/
  | deliver (n : Nat)
  /-- The handler of a tile serves the head of its queue: the event of its kind. -/
  | serve (t : Tile)
  /-- n cycles pass at a tile. -/
  | tick (t : Tile) (n : Nat)
  /-- Time passes in which firmware core f counts the f-th of these numbers of cycles (18 R387). -/
  | fwTick (ds : List Nat)
  /-- A TLB entry, instruction line, constant word or dirty L2 line leaves (03 R49). -/
  | evictTlb (t : Tile) (i : Nat)
  | evictCode (t : Tile) (k : Nat)
  | evictConst (t : Tile) (k : Nat)
  /-- A word of a running launch's argument block enters the constant cache of a tile (03 R54). -/
  | fillConst (t : Tile) (w : Nat)
  | writeBack (t : Tile) (line : Nat)
  /-- A soft error: an uncorrectable one in a stored word, or a register parity error of a context (03 R58). -/
  | upset (a : Nat)
  | regUpset (t : Tile) (c : Nat)
  /-- A corrected error of the tile (03 R58). -/
  | corrected (t : Tile)
  /-- An uncorrectable error in a word as the vault holds it beneath a dirty line (03 R58, 06 R126). -/
  | upsetBeneath (t : Tile) (a : Nat)
  /-- A parity error in the crossbar of a router of field f: in a flit of packet n's payload, or with none in its header flit
  (03 R58). -/
  | crossbar (n : Nat) (flit : Option Nat) (f : Nat)
  /-- A detected failure at a tile that is not contained to a word or a context (01 R23). -/
  | uncontained (t : Tile)
  /-- Packet n crosses from router a to router b: it leaves a, its head of wire arrives, its copy is confirmed (05 R101). -/
  | linkSend (a b n : Nat)
  | linkTake (a b : Nat)
  | linkConfirm (a b : Nat)
  /-- The next slot of the ring passes the switch of a crescent; the head of a partition's queue there leaves the ring (01 R17). -/
  | ring (cr : Nat)
  | ioLeave (pid cr : Nat)
  /-- The next line of a waiting cache instruction (11 R248). -/
  | line (t : Tile) (c : Nat)
  /-- Firmware or the host's debug path reads system space of a tile, or writes bytes to it (02 R28). -/
  | readSys (w : Writer) (t : Tile) (o n : Nat)
  | writeSys (w : Writer) (t : Tile) (o : Nat) (l : List Byte)
  /-- A line leaves a tuber core's instruction buffer (15 R319). -/
  | evictTuber (t : Tile) (k : Nat)
  /-- Firmware joins the tree of a group to a peer's over a link, or ends that (18 R386). -/
  | joinGroup (pid grp : Nat) (link : Option Nat)
  /-- A frame arrives over a module link, its plain text a message m; the peer has taken the oldest frame sent to it, or its tag has
  failed there; the next message that waits is sent (18 R386, 01 R19). -/
  | frame (link : Nat) (bytes : List Byte) (m : PeerMsg)
  | frameAck (link : Nat)
  | frameNak (link : Nat)
  | frameOut (link : Nat)
  /-- The oldest request of a service core that is not under way leaves for its home (06 R129). -/
  | hostSend (sc : Nat)
  /-- The module is reset (18 R390). -/
  | moduleReset
  /-- The host writes BAR0 of a partition's virtual function on a service core: 0 the aperture base, 1 the base of the report ring,
  2 its size (18 R385). -/
  | bar0 (sc pid k : Nat) (v : Word)
  deriving DecidableEq, Repr

/-- Why the machine stops with a fault. -/
inductive Fault where
  /-- Raised by a step after a thermal stop (18 R388): the module has stopped. Safe: no further state is claimed. -/
  | moduleStopped
  deriving DecidableEq, Repr

/-- Why an instruction is refused. -/
inductive Refusal where
  /-- An instruction whose meaning is not written yet. Safe. -/
  | notModelled (mnemonic : String)
  deriving DecidableEq, Repr

/-- The wafer module. retired lists the spares of each block that tiles stand on, badSpares the unused spares that are bad
(01 R14), spareVaults what the vault of a spare that a tile has left retains (R15), ioq a partition's queue in each crescent's
switch, under 4 * partition + crescent, ringSlot the partition whose slot passes a crescent's switch next (R17), hostReqs the requests
that the service cores hold, in the order they came (06 R129). frameq holds the messages that wait to be sent over a module link,
frames those sent and not yet taken by the peer, each with its link (18 R386). mem holds the byte of every vault, pane and edge cell that is not 0, as tile cores and engines
see it (log 1, log 8); full and poison list the 8-byte words with tag F and with the poison syndrome, latent those
with an uncorrectable error not yet met; badLanes the faults of the lanes of scattered stores that still have lanes outstanding, by
the store's first request (11 R234). -/
structure State where
  cur : Cur
  mem : List Host.Cell
  full : List Nat
  poison : List Nat
  latent : List Nat
  tiles : Assoc TileSt
  net : List Packet
  left : List LeftOut
  badLanes : List (Nat × Nat × Trap)
  parts : Assoc Part
  queues : Assoc Queue
  fields : Assoc Field
  links : Assoc Link
  linkKeys : Assoc (BitVec 128)
  retired : Assoc (List Nat)
  badSpares : Assoc (List Nat)
  spareVaults : Assoc SpareVault
  ioq : Assoc (List Packet)
  ringSlot : Assoc Nat
  hostReqs : List HostReq
  peerReqs : List PeerReq
  frameq : List (Nat × PeerMsg)
  frames : List (Nat × List Byte)
  unavailable : List Nat
  up : Bool
  cooling : Bool
  stopped : Bool
  budget : Nat
  out : List HostOut
  pfSeq : Nat
  fresh : Nat
  reqNo : Nat
  agenda : List Act
  deriving DecidableEq, Repr

/-- Every register zero, p0 and k0 read through their accessors (R171; log 2). -/
def Thread.zero : Thread :=
  { pc := 0, g := Vector.replicate 16 0, v := Vector.replicate 8 (Vector.replicate 16 0), p := Vector.replicate 8 false
    k := Vector.replicate 4 0, vlive := 0, klive := 0, rm := 0, fst := 0, tid := 0, hop := 0, ox := 0, oy := 0, cx := 0
    cy := 0, pid := 0, bcnt := 0, apin := false, pspan := 0, epin := false, launch := none, slot := 0, ret := false
    rel := false, parked := false, tjob := none }

/-- A closed scan, an empty list (15 R324). -/
def Tub.zero : Tub :=
  { so := false, sbase := 0, idb := 0, nrow := 0, fa := false, fne := false, fbase := 0, fmask := 0, fval := 0, flo := 0
    fhi := 0, tcap := 0, tlist := [], spare := [], prog := none, jent := 0, heldSlot := none, preempt := false
    isNcmd := false }

/-- A free context (08 R148). -/
def Ctx.free : Ctx :=
  { st := .free, th := Thread.zero, iw := 0, nextOk := 0, yieldSkip := false, wait := .none, pend := [], outs := [], relIds := [], snap := none
    gang := .none, fq := [], mig := none, tb0 := none, tb1 := none, stepping := false, preh := false, relocating := none
    stopReq := false, joined := none, dtgt := 0, tub := Tub.zero }

/-- A disabled window (Table 4.6). -/
def Win.zero : Win :=
  { en := false, cerr := false, key := 0, scm := false, fmt := 0, gen := 0, src := 0, nrow := 0, rowlen := 0, pitch := 0
    scl := 0, writes := 0 }

/-- A pane that is off (Table 3.2). -/
def Pane.off : Pane :=
  { mode := 0, serr := false, send := false, cptr := 0, pptr := 0, nslot := 0, ssz := 0, base := 0, slots := [], ccur := 0
    pcur := 0, claims := [], stream := none }

/-- An idle barrier unit (11 R243). -/
def BarUnit.idle : BarUnit := { ph := 0, desc := none }

/-- An unclaimed port with an empty queue and eight credits (08 R163). -/
def Port.idle : Port := { owner := none, q := [], bad := [], credits := 8 }

/-- The matrix engine as firmware leaves it (14 R292). -/
def Mx.zero : Mx :=
  { active := none, shadow := none, bank0 := [], bank1 := [], queue := [], run := none, rpc := [0, 0, 0, 0, 0, 0], msat := 0
    munf := 0, movf := 0, mcan := 0, arrivals := [], mredSeen := [], mredOwn := [] }

/-- A tile after tile reset that belongs to no partition; its neighbour pointers read NONE (Table 2.10). The site is that of an
unrepaired embedding (01 R13). -/
def TileSt.zero (t : Tile) : TileSt :=
  { prt := 0, tco := 0, npn := 1#64 <<< 63, npe := 1#64 <<< 63, nps := 1#64 <<< 63, npw := 1#64 <<< 63, scope := []
    vtb := 0, supv := 0, frb := 0, frc := 0, frd := 0, flost := 0, ctxs := [], ptr := 0, tptr := 0, lcyc := 0, tcyc := 0
    created := 0, seq := 0, ncr := 0, cecnt := 0, lanes := 16, holdLimit := 8192, bounceLim := 4, pinSpan := 256
    drainInt := 2048, balInt := 4096, tlb := [], icache := [], ibuf := [], ccache := [], dirty := [], locks := [], retained := []
    keys := [], wins := [], panes := [], arrHead := 0, arrSides := [], park := [], slots := [], notices := [], hq := []
    comb := [], deferred := [], binds := [], wakeTab := [], bar0 := BarUnit.idle, bar1 := BarUnit.idle, ports := [], moving := []
    deque := [], spHead := 0, spCount := 0, spJobs := [], depths := [], shipping := [], balAt := 0, pops := [], jobs := [], jobOrder := 0
    groups := [], credits := [], colls := [], mx := Mx.zero, saved := [], saveSeq := 0, leadRes := none, leading := none, prefs := []
    px := t % 128, py := 9 * (t / 128 / 8) + t / 128 % 8, ex := t % 128, ey := 9 * (t / 128 / 8) + t / 128 % 8 }

/-- A field at reset: its core a follower at epoch 0, an equal share of the largest budget (18 R387, R388; log 2). -/
def Field.zero : Field :=
  { lease := .follower, epoch := 0, voted := 0, votes := [], acks := [], cyc := 0, timer := 0, renewAt := 0
    allot := 390, demand := 0, cool := false, band := 2500, promoteInt := 65536, lastQ := [], down := false, renewNo := 0, shareAt := 0 }

/-- A link at reset (05 R101). -/
def Link.zero : Link := { vcs := List.replicate 8 ⟨0, 0, 0⟩, kept := [], wire := [], retries := 0, resets := 0 }

/-- The module right after reset: no field brought up, no partition, nothing in flight (18 R390). -/
def State.reset : State :=
  { cur := { t := 0, c := 0, iw := 0 }, mem := [], full := [], poison := [], latent := [], tiles := [], net := [], left := [], badLanes := [], parts := []
    queues := [], fields := [], links := [], linkKeys := [], retired := [], badSpares := [], spareVaults := [], ioq := [], ringSlot := [], hostReqs := [], peerReqs := [], frameq := [], frames := [], unavailable := [], up := false, cooling := false
    stopped := false, budget := 25000, out := [], pfSeq := 0, fresh := 0, reqNo := 0, agenda := [] }

end Sys2Proof.Machine
end

