-- ==== Sys2Proof/Machine/Bits.lean ====
section
/-! DEFINITION. Sys2Proof/Machine/Bits.lean: bit fields, little-endian bytes (00 R6), sign extension and type sizes
(Table 9.4), keyed lists in key order, and memory cells in canonical form. -/

namespace Sys2Proof.Machine

/-- Bits [lo + n - 1 : lo] of a word, unsigned. -/
def fld (w : Word) (lo n : Nat) : Nat := w.toNat / 2 ^ lo % 2 ^ n
/-- One bit of a word. -/
def bit (w : Word) (i : Nat) : Bool := w.getLsbD i
/-- A natural number as a word, modulo 2^64. -/
def w64 (n : Nat) : Word := BitVec.ofNat 64 n
/-- An integer as a word, modulo 2^64. -/
def wInt (n : Int) : Word := BitVec.ofInt 64 n
/-- A flag as a number. -/
def b2n (b : Bool) : Nat := if b then 1 else 0
/-- sint(IMM32) as a word (R173). -/
def simm (v : BitVec 32) : Word := v.signExtend 64
/-- The immediate of R173 extended to 64 bits. -/
def immExt (zx : Bool) (v : BitVec 32) : Word := if zx then v.setWidth 64 else v.signExtend 64
/-- n bytes of a number, least significant first (R6). -/
def leBytes : Nat → Nat → List Byte
  | 0, _ => []
  | n + 1, v => BitVec.ofNat 8 v :: leBytes n (v / 256)
/-- The number that bytes hold, least significant first (R6). -/
def leNat : List Byte → Nat
  | [] => 0
  | b :: r => b.toNat + 256 * leNat r
/-- The word that eight bytes hold. -/
def leWord (l : List Byte) : Word := w64 (leNat l)
/-- The eight bytes of a word. -/
def wBytes (w : Word) : List Byte := leBytes 8 w.toNat
/-- Consecutive 8-byte words as bytes. -/
def wordsBytes (l : List Word) : List Byte := l.flatMap wBytes
/-- Words from bytes, n of them. -/
def bytesWords : Nat → List Byte → List Word
  | 0, _ => []
  | n + 1, l => leWord (l.take 8) :: bytesWords n (l.drop 8)

/-- Size of a type in bits (Table 9.4). -/
def tyBits : Ty → Nat
  | .u8 | .i8 => 8
  | .u16 | .i16 => 16
  | .u32 | .i32 | .f32 | .i16x2 | .h16x2 | .b16x2 | .i8x4 => 32
  | .u64 | .i64 | .f64 => 64
  | .u128 => 128
/-- Whether a type is a signed integer. -/
def tySigned : Ty → Bool
  | .i8 | .i16 | .i32 | .i64 | .i16x2 | .i8x4 => true
  | _ => false
/-- The low n bits of a number read as two's complement. -/
def sintN (n : Nat) (v : Nat) : Int :=
  let u := v % 2 ^ n
  if 2 * u < 2 ^ n then (u : Int) else (u : Int) - 2 ^ n
/-- R197: the low bits of a result extended to 64 by the signedness of the type. -/
def extTy (ty : Ty) (v : Nat) : Word :=
  if tySigned ty then wInt (sintN (tyBits ty) v) else w64 (v % 2 ^ tyBits ty)
/-- R197: the low n bits of a source, interpreted by the signedness of the type. -/
def valTy (ty : Ty) (v : Word) : Int :=
  if tySigned ty then sintN (tyBits ty) v.toNat else ((v.toNat % 2 ^ tyBits ty : Nat) : Int)
/-- The nonnegative residue of an integer modulo 2^n. -/
def modPow (n : Nat) (x : Int) : Nat := (x % (2 ^ n : Int)).toNat

/-- The value under a key, or a default. -/
def aget {α : Type} (l : Assoc α) (k : Nat) (d : α) : α :=
  match l with
  | [] => d
  | (j, v) :: r => if j = k then v else aget r k d
/-- The value under a key, if listed. -/
def afind {α : Type} (l : Assoc α) (k : Nat) : Option α :=
  match l with
  | [] => none
  | (j, v) :: r => if j = k then some v else afind r k
/-- The list with a key's value set, keys rising. -/
def aput {α : Type} (l : Assoc α) (k : Nat) (v : α) : Assoc α :=
  match l with
  | [] => [(k, v)]
  | (j, w) :: r => if j = k then (k, v) :: r else if k < j then (k, v) :: (j, w) :: r else (j, w) :: aput r k v
/-- The list without a key. -/
def adel {α : Type} (l : Assoc α) (k : Nat) : Assoc α := l.filter fun e => e.1 != k

/-- The byte of a cell; an unlisted cell reads 0 (log 1). -/
def cget (m : List Host.Cell) (a : Nat) : Byte :=
  match m with
  | [] => 0
  | (b, v) :: r => if b = a then v else if a < b then 0 else cget r a
/-- The cells with one byte written; a zero byte is not listed. -/
def cput (m : List Host.Cell) (a : Nat) (v : Byte) : List Host.Cell :=
  match m with
  | [] => if v = 0 then [] else [(a, v)]
  | (b, w) :: r =>
    if b = a then (if v = 0 then r else (a, v) :: r)
    else if a < b then (if v = 0 then (b, w) :: r else (a, v) :: (b, w) :: r)
    else (b, w) :: cput r a v
/-- Canonical form: addresses rise and no listed byte is 0. -/
def cellsOk : List Host.Cell → Bool
  | [] => true
  | [(_, v)] => v != 0
  | (a, v) :: (b, w) :: r => v != 0 && decide (a < b) && cellsOk ((b, w) :: r)
/-- Memory is in canonical form: addresses rise, and no listed byte equals what an unlisted address reads as (log 1). -/
abbrev Memory.wf (m : List Host.Cell) : Prop := cellsOk m = true
/-- Consecutive bytes from an address. -/
def cgets (m : List Host.Cell) (a : Nat) : Nat → List Byte
  | 0 => []
  | n + 1 => cget m a :: cgets m (a + 1) n
/-- Consecutive bytes written from an address. -/
def cputs (m : List Host.Cell) (a : Nat) : List Byte → List Host.Cell
  | [] => m
  | b :: r => cputs (cput m a b) (a + 1) r
/-- Zero over a range of cells. -/
def czero (m : List Host.Cell) (a n : Nat) : List Host.Cell := m.filter fun e => !(decide (a ≤ e.1) && decide (e.1 < a + n))

/-- Membership, insertion and removal in a rising list of numbers. -/
def sadd (l : List Nat) (k : Nat) : List Nat :=
  match l with
  | [] => [k]
  | j :: r => if j = k then j :: r else if k < j then k :: j :: r else j :: sadd r k
def sdel (l : List Nat) (k : Nat) : List Nat := l.filter (· != k)
/-- The lowest number from lo, among n, that is not in the list. -/
def lowestFree (l : List Nat) (lo : Nat) : Nat → Option Nat
  | 0 => none
  | n + 1 => if l.contains lo then lowestFree l (lo + 1) n else some lo
/-- The element of a list at a position, or a default. -/
def lget {α : Type} (l : List α) (i : Nat) (d : α) : α := (l[i]?).getD d
/-- The list without its element at a position. -/
def ldel {α : Type} (l : List α) (i : Nat) : List α := l.eraseIdx i

/-- ceil(a / b). -/
def cdiv (a b : Nat) : Nat := (a + b - 1) / b
/-- The floor of the square root of v, by bits from position n - 1 down. -/
def isqrtGo (v : Nat) : Nat → Nat → Nat
  | 0, r => r
  | n + 1, r => if (r + 2 ^ n) * (r + 2 ^ n) ≤ v then isqrtGo v n (r + 2 ^ n) else isqrtGo v n r
def isqrt (v : Nat) : Nat := isqrtGo v (v.log2 / 2 + 2) 0

/-- R140: one round of the pairwise order, and the rounds until one value is left. -/
def pairRound {α : Type} (f : α → α → α) : List α → List α
  | a :: b :: r => f a b :: pairRound f r
  | l => l
def pairTree {α : Type} (f : α → α → α) : Nat → List α → List α
  | 0, l => l
  | n + 1, l => pairTree f n (pairRound f l)
def reduceTree {α : Type} (f : α → α → α) (d : α) (l : List α) : α := (pairTree f (l.length.log2 + 1) l).headD d

end Sys2Proof.Machine
end

