-- ==== Sys2Proof/Machine/Float.lean ====
section
/-! DEFINITION. Sys2Proof/Machine/Float.lean: binary floating point, exact values rounded once (10 R216 to R222,
12 R253 to R257), for binary32, binary64, binary16 and B16. -/

namespace Sys2Proof.Machine

/-- A format: exponent and fraction widths. -/
structure Fmt where
  eb : Nat
  mb : Nat
  deriving DecidableEq, Repr

def f32F : Fmt := ⟨8, 23⟩
def f64F : Fmt := ⟨11, 52⟩
def h16F : Fmt := ⟨5, 10⟩
def b16F : Fmt := ⟨8, 7⟩

/-- The rounding modes of FCR.RM (Table 9.8). -/
inductive RM where | rne | rtz | rpi | rni
  deriving DecidableEq, Repr

/-- The mode that a 2-bit RM field names. -/
def rmOf (b : BitVec 2) : RM := match b.toNat with | 0 => .rne | 1 => .rtz | 2 => .rpi | _ => .rni

/-- The flag bits of FST (Table 9.8). -/
def fNX : BitVec 5 := 1
def fUF : BitVec 5 := 2
def fOF : BitVec 5 := 4
def fDZ : BitVec 5 := 8
def fNV : BitVec 5 := 16

/-- A decoded value: a NaN (signalling or not), an infinity, or the exact value (-1)^neg * m * 2^e. -/
inductive FV where
  | nan (sig : Bool)
  | inf (neg : Bool)
  | fin (neg : Bool) (m : Nat) (e : Int)
  deriving DecidableEq, Repr

def Fmt.bias (f : Fmt) : Int := 2 ^ (f.eb - 1) - 1
def Fmt.emin (f : Fmt) : Int := 1 - f.bias
/-- The default NaN of a format (R217). -/
def Fmt.nan (f : Fmt) : Nat := (2 ^ f.eb - 1) * 2 ^ f.mb + 2 ^ (f.mb - 1)
def Fmt.inf (f : Fmt) (neg : Bool) : Nat := b2n neg * 2 ^ (f.eb + f.mb) + (2 ^ f.eb - 1) * 2 ^ f.mb
def Fmt.zero (f : Fmt) (neg : Bool) : Nat := b2n neg * 2 ^ (f.eb + f.mb)
def Fmt.maxFin (f : Fmt) (neg : Bool) : Nat := f.inf neg - 1
def Fmt.width (f : Fmt) : Nat := 1 + f.eb + f.mb

/-- The value of a bit pattern. -/
def fdec (f : Fmt) (x : Nat) : FV :=
  let neg := x / 2 ^ (f.eb + f.mb) % 2 == 1
  let e := x / 2 ^ f.mb % 2 ^ f.eb
  let m := x % 2 ^ f.mb
  if e = 2 ^ f.eb - 1 then (if m = 0 then .inf neg else .nan (decide (m < 2 ^ (f.mb - 1))))
  else if e = 0 then .fin neg m (f.emin - f.mb)
  else .fin neg (m + 2 ^ f.mb) ((e : Int) - f.bias - f.mb)

/-- m / 2^k rounded to an integer, and whether that was inexact. -/
def rshift (rm : RM) (neg : Bool) (m k : Nat) : Nat × Bool :=
  let q := m / 2 ^ k
  let r := m % 2 ^ k
  let up := match rm with
    | .rne => decide (2 * r > 2 ^ k) || (decide (2 * r = 2 ^ k) && q % 2 == 1)
    | .rtz => false
    | .rpi => !neg && r != 0
    | .rni => neg && r != 0
  (if up && r != 0 then q + 1 else q, r != 0)

/-- m * 2^e rounded to a multiple of 2^q: the multiple and inexactness. -/
def rquant (rm : RM) (neg : Bool) (m : Nat) (e q : Int) : Nat × Bool :=
  if e ≥ q then (m * 2 ^ (e - q).toNat, false) else rshift rm neg m (q - e).toNat

/-- R217: an exact value rounded once into a format, with OF, UF (tininess after rounding) and NX. -/
def fround (f : Fmt) (rm : RM) (neg : Bool) (m : Nat) (e : Int) : Nat × BitVec 5 :=
  if m = 0 then (f.zero neg, 0)
  else
    let top := e + m.log2
    let q := max (top - f.mb) (f.emin - f.mb)
    let (n, inx) := rquant rm neg m e q
    let (un, _) := rquant rm neg m e (top - f.mb)
    let tiny := decide (top < f.emin) && !(decide (top = f.emin - 1) && un == 2 ^ (f.mb + 1))
    -- n is at most 2^(mb+1); value n * 2^q
    let (n, q) := if n = 2 ^ (f.mb + 1) then (2 ^ f.mb, q + 1) else (n, q)
    let sgn := b2n neg * 2 ^ (f.eb + f.mb)
    if n ≥ 2 ^ f.mb ∧ q + f.mb > f.bias then
      (match rm, neg with
        | .rne, _ => f.inf neg
        | .rtz, _ => f.maxFin neg
        | .rpi, false => f.inf false
        | .rpi, true => f.maxFin true
        | .rni, true => f.inf true
        | .rni, false => f.maxFin false, fOF ||| fNX)
    else
      let bits := if n < 2 ^ f.mb then n else (q + f.mb + f.bias).toNat * 2 ^ f.mb + (n - 2 ^ f.mb)
      (sgn + bits, (if inx then fNX else 0) ||| (if tiny && inx then fUF else 0))

/-- A value with a nonzero remainder below it: one more bit, set when the remainder is not zero. -/
def froundS (f : Fmt) (rm : RM) (neg : Bool) (m : Nat) (e : Int) (sticky : Bool) : Nat × BitVec 5 :=
  fround f rm neg (2 * m + b2n sticky) (e - 1)

def FV.isNan : FV → Bool | .nan _ => true | _ => false
def FV.isSig : FV → Bool | .nan s => s | _ => false
/-- NV when an operand is a signalling NaN (R217). -/
def sigNV (l : List FV) : BitVec 5 := if l.any FV.isSig then fNV else 0

/-- The exact sum of two finite values as sign, magnitude and exponent; none when it is zero. -/
def exactAdd (n1 : Bool) (m1 : Nat) (e1 : Int) (n2 : Bool) (m2 : Nat) (e2 : Int) : Int × Int :=
  let e := min e1 e2
  let a : Int := (m1 * 2 ^ (e1 - e).toNat : Nat)
  let b : Int := (m2 * 2 ^ (e2 - e).toNat : Nat)
  ((if n1 then -a else a) + (if n2 then -b else b), e)

/-- R217, R218: A + B. -/
def faddV (f : Fmt) (rm : RM) (a b : FV) : Nat × BitVec 5 :=
  match a, b with
  | .nan _, _ | _, .nan _ => (f.nan, sigNV [a, b])
  | .inf x, .inf y => if x = y then (f.inf x, 0) else (f.nan, fNV)
  | .inf x, _ => (f.inf x, 0)
  | _, .inf y => (f.inf y, 0)
  | .fin n1 m1 e1, .fin n2 m2 e2 =>
    let (s, e) := exactAdd n1 m1 e1 n2 m2 e2
    if s = 0 then (f.zero (if m1 = 0 ∧ m2 = 0 ∧ n1 = n2 then n1 else decide (rm = .rni)), 0)
    else fround f rm (decide (s < 0)) s.natAbs e

def FV.neg : FV → FV
  | .nan s => .nan s
  | .inf n => .inf (!n)
  | .fin n m e => .fin (!n) m e

/-- A × B. -/
def fmulV (f : Fmt) (rm : RM) (a b : FV) : Nat × BitVec 5 :=
  match a, b with
  | .nan _, _ | _, .nan _ => (f.nan, sigNV [a, b])
  | .inf x, .inf y => (f.inf (x != y), 0)
  | .inf x, .fin n m _ | .fin n m _, .inf x => if m = 0 then (f.nan, fNV) else (f.inf (x != n), 0)
  | .fin n1 m1 e1, .fin n2 m2 e2 => fround f rm (n1 != n2) (m1 * m2) (e1 + e2)

/-- A × B + C, one rounding; 0 × ∞ is invalid whatever C (R218). -/
def ffmaV (f : Fmt) (rm : RM) (a b c : FV) : Nat × BitVec 5 :=
  let bad0 := match a, b with
    | .inf _, .fin _ 0 _ | .fin _ 0 _, .inf _ => true
    | _, _ => false
  if bad0 then (f.nan, fNV)
  else match a, b, c with
    | .nan _, _, _ | _, .nan _, _ | _, _, .nan _ => (f.nan, sigNV [a, b, c])
    | .fin n1 m1 e1, .fin n2 m2 e2, .fin n3 m3 e3 =>
      let (s, e) := exactAdd (n1 != n2) (m1 * m2) (e1 + e2) n3 m3 e3
      if s = 0 then
        (f.zero (if m1 * m2 = 0 ∧ m3 = 0 ∧ (n1 != n2) = n3 then n3 else decide (rm = .rni)), 0)
      else fround f rm (decide (s < 0)) s.natAbs e
    | .fin _ _ _, .fin _ _ _, .inf x => (f.inf x, 0)
    | x, y, z =>
      let s := (match x with | .inf n => n | .fin n _ _ => n | _ => false) != (match y with | .inf n => n | .fin n _ _ => n | _ => false)
      match z with
      | .inf t => if s = t then (f.inf t, 0) else (f.nan, fNV)
      | _ => (f.inf s, 0)

/-- A / B (R218). -/
def fdivV (f : Fmt) (rm : RM) (a b : FV) : Nat × BitVec 5 :=
  match a, b with
  | .nan _, _ | _, .nan _ => (f.nan, sigNV [a, b])
  | .inf _, .inf _ => (f.nan, fNV)
  | .inf x, .fin n _ _ => (f.inf (x != n), 0)
  | .fin n _ _, .inf y => (f.zero (n != y), 0)
  | .fin n1 m1 e1, .fin n2 m2 e2 =>
    if m2 = 0 then (if m1 = 0 then (f.nan, fNV) else (f.inf (n1 != n2), fDZ))
    else if m1 = 0 then (f.zero (n1 != n2), 0)
    else
      let k := f.mb + 4 + m2.log2
      let q := m1 * 2 ^ k / m2
      froundS f rm (n1 != n2) q (e1 - e2 - k) (decide (q * m2 ≠ m1 * 2 ^ k))

/-- √A (R218). -/
def fsqrtV (f : Fmt) (rm : RM) (a : FV) : Nat × BitVec 5 :=
  match a with
  | .nan _ => (f.nan, sigNV [a])
  | .inf true => (f.nan, fNV)
  | .inf false => (f.inf false, 0)
  | .fin n m e =>
    if m = 0 then (f.zero n, 0)
    else if n then (f.nan, fNV)
    else
      let (m, e) := if e % 2 = 0 then (m, e) else (2 * m, e - 1)
      let k := f.mb + 4
      let v := m * 2 ^ (2 * k)
      let r := isqrt v
      froundS f rm false r (e / 2 - k) (decide (r * r ≠ v))

/-- The order of two values that are not NaNs: -1, 0 or 1; -0 equals +0 unless zeros are told apart. -/
def fcmpV (tellZeros : Bool) (a b : FV) : Int :=
  match a, b with
  | .inf x, .inf y => if x = y then 0 else if x then -1 else 1
  | .inf x, _ => if x then -1 else 1
  | _, .inf y => if y then 1 else -1
  | .fin n1 m1 e1, .fin n2 m2 e2 =>
    let s := (exactAdd n1 m1 e1 (!n2) m2 e2).1
    if s < 0 then -1 else if s > 0 then 1
    else if tellZeros && n1 != n2 then (if n1 then -1 else 1) else 0
  | _, _ => 0

/-- R219: FMIN (mx false) and FMAX: the bits of one operand. -/
def fminmax (f : Fmt) (mx : Bool) (x y : Nat) : Nat × BitVec 5 :=
  let a := fdec f x; let b := fdec f y
  let fl := sigNV [a, b]
  if a.isNan && b.isNan then (f.nan, fl)
  else if a.isNan then (y, fl)
  else if b.isNan then (x, fl)
  else
    let c := fcmpV true a b
    ((if mx then (if c < 0 then y else x) else (if c > 0 then y else x)), fl)

/-- R220: a condition on two float values with its NV rule. -/
def fcond (c : Cond) (a b : FV) : Bool × BitVec 5 :=
  let un := a.isNan || b.isNan
  let o := fcmpV false a b
  let quiet := sigNV [a, b]
  let loud := if un then fNV else 0
  match c with
  | .eq => (!un && o == 0, quiet)
  | .ne => (un || o != 0, quiet)
  | .lt => (!un && decide (o < 0), loud)
  | .le => (!un && decide (o ≤ 0), loud)
  | .gt => (!un && decide (o > 0), loud)
  | .ge => (!un && decide (o ≥ 0), loud)
  | .un => (un, quiet)

/-- R221: a value into another float format. -/
def fcvtF (f : Fmt) (rm : RM) (a : FV) : Nat × BitVec 5 :=
  match a with
  | .nan s => (f.nan, if s then fNV else 0)
  | .inf n => (f.inf n, 0)
  | .fin n m e => fround f rm n m e

/-- R221: an integer into a float format; the overflow of R260 sets OF and NX. -/
def fcvtI (f : Fmt) (rm : RM) (x : Int) : Nat × BitVec 5 := fround f rm (decide (x < 0)) x.natAbs 0

/-- R221: a value to an integer between bounds. -/
def fcvtToI (rm : RM) (lo hi : Int) (a : FV) : Int × BitVec 5 :=
  match a with
  | .nan _ => (0, fNV)
  | .inf n => (if n then lo else hi, fNV)
  | .fin n m e =>
    let (q, inx) := rquant rm n m e 0
    let v : Int := if n then -(q : Int) else q
    if v < lo then (lo, fNV) else if v > hi then (hi, fNV) else (v, if inx then fNX else 0)

/-- R222: the class bit of a pattern. -/
def fclassBit (f : Fmt) (x : Nat) : Nat :=
  let sub := decide (x / 2 ^ f.mb % 2 ^ f.eb = 0)
  match fdec f x with
  | .nan true => 8
  | .nan false => 9
  | .inf true => 0
  | .inf false => 7
  | .fin true m _ => if m = 0 then 3 else if sub then 2 else 1
  | .fin false m _ => if m = 0 then 4 else if sub then 5 else 6

/-- Clear or invert the sign bit (R218: nothing else changes, even of a NaN). -/
def fabsB (f : Fmt) (x : Nat) : Nat := x % 2 ^ (f.eb + f.mb)
def fnegB (f : Fmt) (x : Nat) : Nat := if x / 2 ^ (f.eb + f.mb) % 2 = 1 then fabsB f x else fabsB f x + 2 ^ (f.eb + f.mb)

/-- R257, Table 12.3: 1/a. -/
def frcp (a : FV) : Nat × BitVec 5 :=
  match a with
  | .nan s => (f32F.nan, if s then fNV else 0)
  | .inf n => (f32F.zero n, 0)
  | .fin n 0 _ => (f32F.inf n, fDZ)
  | x => fdivV f32F .rne (.fin false 1 0) x

/-- R257, Table 12.3: 1/√a. -/
def frsq (a : FV) : Nat × BitVec 5 :=
  match a with
  | .nan s => (f32F.nan, if s then fNV else 0)
  | .inf true => (f32F.nan, fNV)
  | .inf false => (f32F.zero false, 0)
  | .fin n 0 _ => (f32F.inf n, fDZ)
  | .fin true _ _ => (f32F.nan, fNV)
  | .fin false m e =>
    let (m, e) := if e % 2 = 0 then (m, e) else (2 * m, e - 1)
    let k := 40 + m.log2
    let v := 2 ^ (2 * k) / m
    let r := isqrt v
    froundS f32F .rne false r (-(e / 2) - k) (decide (r * r * m ≠ 2 ^ (2 * k)))

/-- 2^(2^-i) for i = 1, 2, ... as multiples of 2^-p: n of them, from the square root of the last. -/
def roots (p : Nat) : Nat → Nat → List Nat
  | 0, _ => []
  | n + 1, c => let r := isqrt (c * 2 ^ p); r :: roots p n r

/-- The product of the roots that the bits of a fraction of n bits select, as a multiple of 2^-p. -/
def rootProd (p : Nat) (frac : Nat) : Nat → List Nat → Nat → Nat
  | n + 1, c :: cs, acc => rootProd p frac n cs (if frac / 2 ^ n % 2 = 1 then acc * c / 2 ^ p else acc)
  | _, _, acc => acc

/-- R257, Table 12.3: 2^a, rounded from 160 bits. -/
def fexp2 (a : FV) : Nat × BitVec 5 :=
  match a with
  | .nan s => (f32F.nan, if s then fNV else 0)
  | .inf n => (if n then f32F.zero false else f32F.inf false, 0)
  | .fin n m e =>
    if m = 0 then (fround f32F .rne false 1 0)
    else if e + m.log2 < -26 then (0x3F800000, fNX)
    else if e + m.log2 ≥ 9 then (if n then fround f32F .rne false 1 (-400) else fround f32F .rne false 1 400)
    else
      let k := (max 0 (-e)).toNat
      let x : Int := (if n then -1 else 1) * ((m * 2 ^ (e + k).toNat : Nat) : Int)
      let ip := x / 2 ^ k
      let frac := (x % 2 ^ k).toNat
      if frac = 0 then fround f32F .rne false 1 ip
      else froundS f32F .rne false (rootProd 160 frac k (roots 160 k (2 * 2 ^ 160)) (2 ^ 160)) (ip - 160) true

/-- The bits of log2 of y in [1, 2), y a multiple of 2^-p, most significant first: n bits. -/
def log2Bits (p : Nat) : Nat → Nat → Nat → Nat
  | 0, _, acc => acc
  | n + 1, y, acc =>
    let y2 := y * y / 2 ^ p
    if y2 ≥ 2 ^ (p + 1) then log2Bits p n (y2 / 2) (2 * acc + 1) else log2Bits p n y2 (2 * acc)

/-- R257, Table 12.3: log2 a, rounded from 110 fraction bits. -/
def flog2 (a : FV) : Nat × BitVec 5 :=
  match a with
  | .nan s => (f32F.nan, if s then fNV else 0)
  | .inf true => (f32F.nan, fNV)
  | .inf false => (f32F.inf false, 0)
  | .fin _ 0 _ => (f32F.inf true, fDZ)
  | .fin true _ _ => (f32F.nan, fNV)
  | .fin false m e =>
    let t := m.log2
    let ip : Int := e + t
    if m = 2 ^ t then fcvtI f32F .rne ip
    else
      let fr := log2Bits 280 110 (m * 2 ^ (280 - t)) 0
      let v : Int := ip * 2 ^ 110 + fr
      -- the true value lies strictly between v and v + 1
      if v < 0 then froundS f32F .rne true (v.natAbs - 1) (-110) true else froundS f32F .rne false v.natAbs (-110) true

end Sys2Proof.Machine
end

