-- ==== Sys2Proof/Machine/Flags.lean ====
section
/-! DEFINITION. Sys2Proof/Machine/Flags.lean: the conditions of CMP and TST (Table 10.5), and the sticky flags of FST
(R178, R223). The integer families set no flag (R197). -/

namespace Sys2Proof.Machine

/-- CMP: a condition on two integers (Table 10.5). -/
def cmpCond (c : Cond) (a b : Int) : Bool :=
  match c with
  | .eq => decide (a = b) | .ne => decide (a ≠ b) | .lt => decide (a < b) | .le => decide (a ≤ b)
  | .gt => decide (a > b) | .ge => decide (a ≥ b) | .un => false

/-- TST: a condition on the AND of two n-bit operands (Table 10.5). -/
def tstCond (c : Cond) (x : Nat) : Bool :=
  match c with
  | .eq => decide (x = 0)
  | _ => decide (x ≠ 0)

/-- R223: flags ORed into FST. -/
def orFst (th : Thread) (f : BitVec 5) : Thread := { th with fst := th.fst ||| f }

end Sys2Proof.Machine
end

