-- ==== Sys2Proof/Machine/Operands.lean ====
section
/-! DEFINITION. Sys2Proof/Machine/Operands.lean: reading and writing registers (R171, R177), operand values (R173, R197,
R216, R252), effective addresses (R173, R224) and the registers a word names (R226). -/

namespace Sys2Proof.Machine

/-- g0 reads as zero (R171). -/
def rdG (th : Thread) (r : G) : Word := if r = 0 then 0 else th.g[r]
/-- A write to g0 is discarded (R171). -/
def wrG (th : Thread) (r : G) (v : Word) : Thread := if r = 0 then th else { th with g := th.g.set r v }
/-- p0 reads as true (R171). -/
def rdP (th : Thread) (p : P) : Bool := if p = 0 then true else th.p[p]
def wrP (th : Thread) (p : P) (v : Bool) : Thread := if p = 0 then th else { th with p := th.p.set p v }
/-- k0 reads as 0xFFFF (R171). -/
def rdK (th : Thread) (k : K) : BitVec 16 := if k = 0 then 0xFFFF else th.k[k]
/-- A write to k1 to k3 sets its KL bit (R177). -/
def wrK (th : Thread) (k : K) (v : BitVec 16) : Thread :=
  if k = 0 then th
  else { th with k := th.k.set k v, klive := th.klive ||| (1#3 <<< (k.val - 1)) }
def rdV (th : Thread) (x : V) : VReg := th.v[x]
/-- A write to a v register sets its V bit (R177). -/
def wrV (th : Thread) (x : V) (v : VReg) : Thread :=
  { th with v := th.v.set x v, vlive := th.vlive ||| (1#8 <<< x.val) }

/-- A register read by number, for destinations held as numbers. -/
def wrGn (th : Thread) (r : Nat) (v : Word) : Thread := wrG th (Fin.ofNat 16 r) v
def rdGn (th : Thread) (r : Nat) : Word := rdG th (Fin.ofNat 16 r)

/-- The sixteen lanes that a function of the lane number gives. -/
def lanes (f : Nat → BitVec 32) : VReg :=
  #v[f 0, f 1, f 2, f 3, f 4, f 5, f 6, f 7, f 8, f 9, f 10, f 11, f 12, f 13, f 14, f 15]
/-- A lane by number. -/
def lane (v : VReg) (i : Nat) : BitVec 32 := v[Fin.ofNat 16 i]
/-- The 64 bytes of a v register, lane 0 first. -/
def vBytes (v : VReg) : List Byte := v.toList.flatMap fun x => leBytes 4 x.toNat
/-- A v register from 64 bytes. -/
def bytesV (l : List Byte) : VReg := lanes fun i => BitVec.ofNat 32 (leNat ((l.drop (4 * i)).take 4))

/-- CMP, TST: operand B (R173, R211). -/
def gsrcVal (th : Thread) : GSrc → Word
  | .reg x => rdG th x
  | .imm zx v => immExt zx v
/-- Operand B of a scalar float of a type, as its bits (R216): an immediate is binary32, converted exactly for f64. -/
def fsrcBits (th : Thread) (ty : Ty) : FSrc → Nat
  | .reg x => if ty = .f64 then (rdG th x).toNat else (rdG th x).toNat % 2 ^ 32
  | .imm v => if ty = .f64 then
      (match fdec f32F v.toNat with
        | .nan sg => (2 ^ 11 - 1) * 2 ^ 52 + b2n (v.getLsbD 31) * 2 ^ 63 + (if sg then 1 else 2 ^ 51)
        | x => (fcvtF f64F .rne x).1)
    else v.toNat
/-- A g register as the bits of a scalar float (R216). -/
def fregBits (th : Thread) (ty : Ty) (r : G) : Nat :=
  if ty = .f64 then (rdG th r).toNat else (rdG th r).toNat % 2 ^ 32
/-- Operand B of a vector instruction, lane i (R252). -/
def vsrcLane (th : Thread) (b : VSrc) (i : Nat) : BitVec 32 :=
  match b with
  | .v x => lane (rdV th x) i
  | .g x => (rdG th x).setWidth 32
  | .imm v => v
/-- The rounding mode a selector gives (R217). -/
def rselMode (th : Thread) : RSel → RM
  | .dyn => rmOf th.rm
  | .rne => .rne
  | .rtz => .rtz
  | .rpi => .rpi
  | .rni => .rni
/-- The scalar format of a type. -/
def tyFmt (ty : Ty) : Fmt := match ty with | .f64 => f64F | .h16x2 => h16F | .b16x2 => b16F | _ => f32F

/-- R224, indexed: A + B * 2^scale + sint(IMM32). -/
def eaX (th : Thread) (m : MemX) : Word :=
  rdG th m.base + (rdG th m.index <<< m.scale.toNat) + simm m.disp
/-- R224, based: A + sint(IMM32). -/
def eaB (th : Thread) (m : MemB) : Word := rdG th m.base + simm m.disp

/-- A register by file: 0 g, 1 v, 2 p, 3 k (Table 9.2). -/
abbrev RegId := Nat × Nat

/-- The register that an operand byte names. -/
def byteReg (b : BitVec 8) : List RegId :=
  if b.toNat < 0x80 then [(b.toNat / 32, b.toNat % 32)] else []

/-- The registers that a word names beyond its operand bytes: second registers of pairs, registers in FX, and the link
register. -/
def extraRegs : Instr → List RegId
  | .ld .u128 d _ | .st .u128 d _ | .get .u128 d _ | .put .u128 d _ | .putc .u128 d _ _ _ => [(0, d.val + 1)]
  | .vgath _ _ _ _ _ b | .vscat _ _ _ _ _ b => [(1, b.val + 1)]
  | .vqnt _ d a _ _ | .vdqt d a _ => [(1, d.val + 1), (1, a.val + 1)]
  | .call _ | .callx _ | .ret => [(0, 15)]
  | .sel _ _ _ _ p | .tryt _ p _ | .bind p _ _ _ | .unbind p _ _ _ | .barr _ _ p _ _ | .barw p _ _ | .lockl _ p _ _
  | .pclaim p _ => [(2, p.val)]
  | .spawn p _ _ _ | .spawnIndirect p _ _ _ | .spawnx p _ _ _ _ => [(2, p.val), (0, 14)]
  | .swr .vlive _ => (List.range 8).map fun n => (1, n)
  | .bdot _ _ _ c | .badd _ _ _ c | .baxpy _ _ _ c | .bfill _ _ c | .bcopy _ _ c => [(0, c.val)]
  | _ => []

/-- Every register that a word reads or writes, k masks apart, which no request leaves pending (R226). -/
def regsOf (i : Instr) : List RegId :=
  match encodeFields i with
  | some f => byteReg f.d ++ byteReg f.a ++ byteReg f.b ++ extraRegs i
  | none => []

/-- The registers that a pending destination covers (R226); g0 and p0 take no write. -/
def destRegs (d : Dest) : List RegId :=
  (match d with
  | .g r _ => [(0, r)]
  | .pair r => [(0, r), (0, r + 1)]
  | .vec r => [(1, r)]
  | .pred p => [(2, p)]
  | .gp r p => [(0, r), (2, p)]
  | .none => []).filter fun e => e != (0, 0) && e != (2, 0)

end Sys2Proof.Machine
end

