-- ==== Sys2Proof/Machine/Access.lean ====
section
/-! DEFINITION. Sys2Proof/Machine/Access.lean: reaching the parts of the state, coordinates of tiles, partitions and
fields (01 R12, 02 R25, R38), the home of an address (R26), and the network's queue of packets (05 R84). -/

namespace Sys2Proof.Machine

/-- A logical tile. -/
def State.tile (s : State) (t : Tile) : TileSt := aget s.tiles t (TileSt.zero t)
def State.setTile (s : State) (t : Tile) (x : TileSt) : State := { s with tiles := aput s.tiles t x }
def State.modTile (s : State) (t : Tile) (f : TileSt → TileSt) : State := s.setTile t (f (s.tile t))
/-- A context of a tile: 0 to 31 of the tile core, 32 to 39 of the tuber core. -/
def State.ctx (s : State) (t : Tile) (c : Nat) : Ctx := aget (s.tile t).ctxs c Ctx.free
def State.setCtx (s : State) (t : Tile) (c : Nat) (x : Ctx) : State :=
  s.modTile t fun y => { y with ctxs := aput y.ctxs c x }
def State.modCtx (s : State) (t : Tile) (c : Nat) (f : Ctx → Ctx) : State := s.setCtx t c (f (s.ctx t c))
/-- The executing context and its thread. -/
def State.me (s : State) : Ctx := s.ctx s.cur.t s.cur.c
def State.th (s : State) : Thread := s.me.th
def State.modMe (s : State) (f : Ctx → Ctx) : State := s.modCtx s.cur.t s.cur.c f
def State.modTh (s : State) (f : Thread → Thread) : State := s.modMe fun c => { c with th := f c.th }
/-- Whether the executing context is a tuber context. -/
def State.onTuber (s : State) : Bool := decide (32 ≤ s.cur.c)
/-- Free values (log 4): a word, and the next number of the counter. -/
def State.nextFresh (s : State) : State := { s with fresh := s.fresh + 1 }
/-- A request number. -/
def State.nextReq (s : State) : State := { s with reqNo := s.reqNo + 1 }
def State.part (s : State) (pid : Nat) : Option Part := afind s.parts pid
def State.setPart (s : State) (p : Part) : State := { s with parts := aput s.parts p.pid p }
def State.field (s : State) (f : Nat) : Field := aget s.fields f Field.zero
def State.modField (s : State) (f : Nat) (g : Field → Field) : State := { s with fields := aput s.fields f (g (s.field f)) }
def TileSt.win (x : TileSt) (n : Nat) : Win := aget x.wins n Win.zero
def TileSt.pane (x : TileSt) (n : Nat) : Pane := aget x.panes n Pane.off
def TileSt.setPane (x : TileSt) (n : Nat) (p : Pane) : TileSt := { x with panes := aput x.panes n p }
def TileSt.setPort (x : TileSt) (n : Nat) (p : Port) : TileSt := { x with ports := aput x.ports n p }
def TileSt.key (x : TileSt) (n : Nat) : KeySlot := aget x.keys n .empty
def TileSt.port (x : TileSt) (n : Nat) : Port := aget x.ports n Port.idle
def TileSt.bar (x : TileSt) (u : Nat) : BarUnit := if u = 0 then x.bar0 else x.bar1
def TileSt.setBar (x : TileSt) (u : Nat) (b : BarUnit) : TileSt := if u = 0 then { x with bar0 := b } else { x with bar1 := b }
def TileSt.np (x : TileSt) : Dir → Word | .n => x.npn | .e => x.npe | .s => x.nps | .w => x.npw

-- PRT (Table 2.2) and TCO (Table 2.9).
def TileSt.pid (x : TileSt) : Nat := fld x.prt 48 6
def TileSt.pw (x : TileSt) : Nat := fld x.prt 40 8
def TileSt.phh (x : TileSt) : Nat := fld x.prt 32 7
def TileSt.x0 (x : TileSt) : Nat := fld x.prt 8 7
def TileSt.y0 (x : TileSt) : Nat := fld x.prt 0 6
def TileSt.lx (x : TileSt) : Nat := fld x.tco 8 7
def TileSt.ly (x : TileSt) : Nat := fld x.tco 0 6
/-- The wafer tile at partition-relative coordinates. -/
def TileSt.at (x : TileSt) (px py : Nat) : Tile := 128 * (x.y0 + py) + (x.x0 + px)
/-- Partition rank LY * W + LX (08 R146). -/
def TileSt.rank (x : TileSt) : Nat := x.ly * x.pw + x.lx
/-- R12: field, block, quadrant of a wafer tile. -/
def fieldOf (t : Tile) : Nat := 8 * (t / 128 / 8) + t % 128 / 16
def blockOf (t : Tile) : Nat := 16 * (t / 128 / 8) + t % 128 / 8
/-- R12: the field that holds a block. -/
def fieldOfBlock (b : Nat) : Nat := 8 * (b / 16) + b % 16 / 2
def quadOf (t : Tile) : Nat := 2 * (t / 128 / 32) + t % 128 / 64
/-- The sites of the network that are no tile. -/
def fwSite (f : Nat) : Nat := 10000 + f
def edgeSite (e : Nat) : Nat := 20000 + e
def spokeSite (b : Nat) : Nat := 30000 + b
/-- R17: the spoke of a tile's block, for an edge channel. -/
def ioSite (t : Tile) (e : Nat) : Nat := spokeSite (128 * e + blockOf t)
def switchSite (c : Nat) : Nat := 40000 + c
/-- The wafer tile at coordinates of a partition, and its rectangle's tiles. -/
def Part.at (p : Part) (x y : Nat) : Tile := 128 * (p.y0 + y) + (p.x0 + x)
def Part.tiles (p : Part) : List Tile :=
  (List.range p.h).flatMap fun y => (List.range p.w).map fun x => p.at x y
def Part.rectTiles (p : Part) (r : Rect) : List Tile :=
  (List.range r.h).flatMap fun y => (List.range r.w).map fun x => p.at (r.x + x) (r.y + y)
def Rect.has (r : Rect) (x y : Nat) : Bool := decide (r.x ≤ x) && decide (x < r.x + r.w) && decide (r.y ≤ y) && decide (y < r.y + r.h)
/-- A global address on a tile of the partition (R24). -/
def gaddrOf (x y off : Nat) : Word := w64 (y % 64 * 2 ^ 51 + x % 128 * 2 ^ 44 + off % 2 ^ 44)
/-- A global address on the tile itself. -/
def TileSt.here (x : TileSt) (off : Nat) : Word := gaddrOf x.lx x.ly off

/-- The partition that a tile belongs to; none over free blocks. -/
def State.partOf (s : State) (t : Tile) : Option Part := (s.parts.find? fun e => e.2.tiles.contains t).map (·.2)
/-- Whether a partition has tiles in a field (R12). -/
def Part.hasField (p : Part) (f : Nat) : Bool :=
  decide (p.x0 < 16 * (f % 8) + 16) && decide (16 * (f % 8) < p.x0 + p.w) && decide (p.y0 < 8 * (f / 8) + 8) && decide (8 * (f / 8) < p.y0 + p.h)
/-- R14, R23: whether a partition is served: it has not stopped, and none of its fields is down (log 57). -/
def partUp (s : State) (p : Part) : Bool := !p.halted && s.fields.all fun e => !(e.2.down && p.hasField e.1)
/-- The crescent of a unit at the wafer's edge (01 R16, Table 1.2): an edge channel, 0 to 31, eight to each, 32 plus a module link,
four to each, or 48 plus a service core. -/
def crescentOf (ch : Nat) : Nat := if ch < 32 then ch / 8 else if ch < 48 then (ch - 32) / 4 else ch - 48
/-- R17: a partition's request queue in the switch of a crescent. -/
def State.ioQueue (s : State) (pid cr : Nat) : List Packet := aget s.ioq (4 * pid + cr) []
def State.setIo (s : State) (pid cr : Nat) (l : List Packet) : State :=
  { s with ioq := if l.isEmpty then adel s.ioq (4 * pid + cr) else aput s.ioq (4 * pid + cr) l }
/-- R17: a packet of a unit at the wafer's edge, to a tile of the partition or to another unit, sets out from its crescent's switch. -/
def State.ioBack (s : State) (pid ch : Nat) (t : Nat) (vc : Nat) (b : Body) : State :=
  s.setIo pid (crescentOf ch) (s.ioQueue pid (crescentOf ch) ++ [⟨edgeSite ch, t, vc, b, []⟩])
/-- A packet enters the network (R84). -/
def State.send (s : State) (src dst vc : Nat) (b : Body) : State := { s with net := s.net ++ [⟨src, dst, vc, b, []⟩] }
/-- R58: whether a crossbar has poisoned a packet's payload, and whether n bytes of it from byte i. -/
def Packet.poisoned (p : Packet) : Bool := !p.bad.isEmpty
def Packet.badAt (p : Packet) (i n : Nat) : Bool := (List.range n).any fun k => p.bad.contains ((i + k) / 32)
/-- R123: edge requests keep their order only where they share a granule. -/
def sharesGranule (p q : Body) : Bool :=
  match p, q with
  | .edge _ l _ _, .edge _ m _ _ => l.any fun a => m.any fun b => a.1.toNat / 16 == b.1.toNat / 16
  | _, _ => true
/-- R57, R123: two edge requests of one source that share a granule, whatever channels they go to. -/
def edgeClash (p q : Body) : Bool :=
  match p, q with
  | .edge _ _ _ _, .edge _ _ _ _ => sharesGranule p q
  | _, _ => false
/-- R101: whether a link holds a packet that its receiver has yet to take. -/
def Link.pending (x : Link) (f : Flight) : Bool := decide ((f.no - (lget x.vcs f.pkt.vc ⟨0, 0, 0⟩).due).toNat < 128)
/-- Whether a packet's source, destination and channel have one on a link. -/
def Link.carries (x : Link) (p : Packet) : Bool :=
  x.kept.any fun f => f.pkt.src == p.src && f.pkt.dst == p.dst && f.pkt.vc == p.vc && x.pending f
/-- Within one channel, packets from one source to one destination arrive in the order sent (R84): packet n may arrive
if none before it has its source, destination and channel, and none of these is on a link (R101). -/
def deliverable (s : State) (n : Nat) : Option Packet :=
  match s.net[n]? with
  | some p =>
    if (s.net.take n).any (fun q => q.src == p.src && ((q.dst == p.dst && q.vc == p.vc && sharesGranule q.body p.body) || edgeClash q.body p.body)) ||
        s.links.any (fun e => e.2.carries p) then none
    else some p
  | none => none
/-- Whether a packet that passes a test is still in the network: on its way, or on a link whose receiver has yet to take it (R101). -/
def State.inNet (s : State) (f : Packet → Bool) : Bool :=
  s.net.any f || s.links.any fun e => e.2.kept.any fun k => f k.pkt && e.2.pending k
def State.dropPkt (s : State) (n : Nat) : State := { s with net := ldel s.net n }

/-- The home that R26 finds. -/
inductive Home where
  | edge (off : Nat)
  | tile (t : Tile) (off : Nat)
  deriving DecidableEq, Repr

/-- The kinds of access that R26 and R34 tell apart. -/
structure Acc where
  fetch : Bool := false
  write : Bool := false
  sync : Bool := false
  tub : Bool := false
  deriving DecidableEq, Repr

def aRead : Acc := {}
def aWrite : Acc := { write := true }
def aFetch : Acc := { fetch := true }
def aSyncR : Acc := { sync := true }
def aSyncW : Acc := { write := true, sync := true }
def tubR : Acc := { tub := true }
def tubW : Acc := { write := true, tub := true }
def tubF : Acc := { fetch := true, tub := true }

/-- The words of system space that Table 2.4 and the owner chapters list (R28, R71, Table 14.6, Table 17.4), by a byte of them. Of the
64 bytes of tile debug registers only those that Table 17.3 defines count as listed: offsets 0x30 to 0x3F of them raise ADDRESS
(DESIGN CHOICE, log 107). -/
def sysHas (o : Nat) : Bool :=
  if 0x40000000 ≤ o then decide (o < 0x80000000)
  else if o < 0x100 then decide (o < 0x30) || (decide (0x40 ≤ o) && decide (o < 0x50)) || decide (0x80 ≤ o)
  else if 0x10000 ≤ o ∧ o < 0x11000 then true
  else if 0x20000 ≤ o ∧ o < 0x21000 then
    let k := o - 0x20000
    decide (k < 0x30) || (decide (0x40 ≤ k) && decide (k < 0x60)) || (decide (0x80 ≤ k) && decide (k < 0x88)) ||
      (decide (0x100 ≤ k) && decide (k < 0x118))
  else if 0x100000 ≤ o ∧ o < 0x200000 then
    let k := o - 0x100000
    if k < 0x14000 then
      let f := k % 0x800
      decide (f < 0xA0) || (decide (0x100 ≤ f) && decide (f < 0x398)) ||
        (decide (0x10000 ≤ k) && ((decide (0x400 ≤ f) && decide (f < 0x438)) || (decide (0x500 ≤ f) && decide (f < 0x700))))
    else decide (0x18000 ≤ k) && decide (k < 0x18030)
  else false
/-- R28: whether every word that n bytes of system space touch is listed. -/
def sysListed (o n : Nat) : Bool := (List.range ((o + n - 1) / 8 - o / 8 + 1)).all fun i => sysHas (8 * (o / 8 + i))

/-- Bytes of a partition's edge allotment (03 R56). -/
def edgeBytes (s : State) (pid : Nat) : Nat :=
  match s.part pid with
  | some p => p.chans.length * 2 ^ 41
  | none => 0

/-- R26: the home of an address presented at a tile, checks in order. n is the access size, for the listed offsets. -/
def resolve (s : State) (t : Tile) (priv : Bool) (va : Word) (k : Acc) (n : Nat := 1) : Except Trap Home :=
  let x := s.tile t
  if fld va 58 6 ≠ 0 then .error { cause := .address, addr := va }
  else if bit va 57 then
    if fld va 0 57 ≥ edgeBytes s x.pid then .error { cause := .partition, addr := va }
    else if k.fetch then .error { cause := .address, addr := va }
    else .ok (.edge (fld va 0 57))
  else
    let px := fld va 44 7
    let py := fld va 51 6
    let r := fld va 40 4
    if px ≥ x.pw ∨ py ≥ x.phh then .error { cause := .partition, addr := va }
    else if r > 3 then .error { cause := .address, addr := va }
    else if r = 1 ∧ k.write = true then .error { cause := .viewWrite, addr := va }
    else if r = 2 ∧ fld va 0 40 ≥ 0x40000 then .error { cause := .address, addr := va }
    else if r = 3 ∧ priv = false then .error { cause := .sysSpace, addr := va }
    else if r = 3 ∧ sysListed (fld va 0 40) n = false then .error { cause := .address, addr := va }
    else .ok (.tile (x.at px py) (fld va 0 44))

/-- A misaligned access is split at 16-byte granules (06 R121): address and size of each piece. -/
def pieces (va : Word) : Nat → Nat → List (Word × Nat)
  | 0, _ => []
  | _, 0 => []
  | f + 1, n =>
    let k := min n (16 - va.toNat % 16)
    (va, k) :: pieces (va + w64 k) f (n - k)

/-- Scope sets: whether a home tile lies in the scope set of level n at a tile (02 R41, R42). -/
def inScope (s : State) (t : Tile) (n : Nat) (h : Tile) : Bool :=
  let x := s.tile t
  if n = 15 then true
  else h == t || (List.range (n + 1)).any fun i =>
    let e := lget x.scope i 0
    let hx := h % 128 - x.x0
    let hy := h / 128 - x.y0
    decide (fld e 8 7 ≤ hx) && decide (hx ≤ fld e 24 7) && decide (fld e 0 6 ≤ hy) && decide (hy ≤ fld e 16 6)

end Sys2Proof.Machine
end

