-- ==== Sys2Proof/Machine/Formats.lean ====
section
/-! DEFINITION. Sys2Proof/Machine/Formats.lean: the stored operand formats, tiers, lane form, quantisation at decode and
the A64 cell (chapter 04). -/

namespace Sys2Proof.Machine

/-- One element of a block: a pad, a bad element, or the exact value m * 2^e. A zero keeps its sign for tier F32. -/
inductive El where
  | pad
  | bad
  | val (m : Int) (e : Int) (negZero : Bool)
  | inf (neg : Bool)
  deriving DecidableEq, Repr

/-- Element width b of a format code (Table 4.1). -/
def fmtBits (f : Nat) : Nat :=
  match f with
  | 0 => 32 | 1 => 16 | 2 => 16 | 3 => 8 | 4 => 8 | 5 => 4 | 6 => 6 | 7 => 8 | 8 => 12 | 9 => 16
  | 10 => 2 | 11 => 2 | 12 => 2 | 13 => 4 | 14 => 4 | 15 => 8 | 16 => 8 | 17 => 16 | 18 => 16 | _ => 1
/-- Floating, graded and integer codes (Table 4.1); S1 and TRI count as integer (R69). -/
def fmtFloat (f : Nat) : Bool := f ≤ 4
def fmtGraded (f : Nat) : Bool := decide (5 ≤ f) && decide (f ≤ 9)
def fmtInt (f : Nat) : Bool := decide (10 ≤ f)

/-- s and F of a tier (Table 4.3). -/
def tierS (t : Nat) : Nat := match t with | 0 => 4 | 1 => 6 | 2 => 8 | 3 => 12 | _ => 16
def tierF (t : Nat) : Nat := match t with | 0 => 2 | 1 => 4 | 2 => 6 | 3 => 10 | _ => 14
/-- Bytes of a lane unit and unit stride (Table 4.3). -/
def tierUnit (t : Nat) : Nat := match t with | 0 => 24 | 1 => 32 | 2 => 40 | 3 => 56 | 4 => 72 | _ => 128
def tierStride (t : Nat) : Nat := match t with | 0 => 32 | 1 => 32 | 2 => 64 | 3 => 64 | _ => 128
/-- The moduli A, B, C of a tier; the check modulus is 11 (Table 4.3). -/
def tierA (t : Nat) : Nat := match t with | 0 => 15 | 1 => 63 | 2 => 127 | 3 => 2047 | _ => 4095
def tierB (t : Nat) : Nat := tierA t + 1
def tierC (t : Nat) : Nat := tierA t + 2
def tierM (t : Nat) : Nat := tierA t * tierB t * tierC t

/-- The value that a float element has. -/
def fvEl : FV → El
  | .nan _ => .bad
  | .inf n => .inf n
  | .fin n m e => .val (if n then -(m : Int) else m) e (n && m == 0)

/-- R62: the 8-bit formats, exponent width eb and fraction width mb. -/
def f8El (eb mb x : Nat) : El :=
  let neg := x / 128 == 1
  let e := x / 2 ^ mb % 2 ^ eb
  let m := x % 2 ^ mb
  let bias : Int := 2 ^ (eb - 1) - 1
  if x = 0x80 then .bad
  else if eb = 5 ∧ x % 128 = 0x7F then .inf neg
  else
    let (sg, ex) := if e = 0 then (m, 1 - bias - mb) else (m + 2 ^ mb, (e : Int) - bias - mb)
    .val (if neg then -(sg : Int) else sg) ex false

/-- R61 to R65: the element that bits x of a format hold, its block having scale byte E (graded formats). -/
def srcEl (f x E : Nat) : El :=
  match f with
  | 0 => fvEl (fdec f32F x)
  | 1 => fvEl (fdec b16F x)
  | 2 => fvEl (fdec h16F x)
  | 3 => f8El 4 3 x
  | 4 => f8El 5 2 x
  | 12 => match x % 4 with | 0 => .val 0 0 false | 1 => .val 1 0 false | 3 => .val (-1) 0 false | _ => .bad
  | 19 => .val (if x % 2 = 0 then 1 else -1) 0 false
  | 11 | 14 | 16 | 18 => .val x 0 false
  | 10 | 13 | 15 | 17 => .val (sintN (fmtBits f) x) 0 false
  | _ =>
    let v := sintN (fmtBits f) x
    let fsrc := tierF (f - 5)
    if v = -(2 ^ (fmtBits f - 1) : Int) then .bad
    else if E = 255 then .bad
    else if E = 0 then .val 0 0 false
    else .val v ((E : Int) - 127 - fsrc) false

/-- A value m * 2^e rounded to an integer with RNE, sign apart. -/
def roundInt (m : Int) (e : Int) : Int :=
  let q := (rquant .rne (decide (m < 0)) m.natAbs e 0).1
  if m < 0 then -(q : Int) else q

/-- The packed significands of a unit, s bits each, element 0 lowest (R67). -/
def packSig (s : Nat) : List Int → Nat
  | [] => 0
  | x :: r => modPow s x + 2 ^ s * packSig s r

/-- R67: a lane unit's bytes. -/
def unitBytes (t E sat unf : Nat) (pois : Bool) (sig : List Int) : List Byte :=
  leBytes 8 (E + sat * 2 ^ 8 + unf * 2 ^ 14 + b2n pois * 2 ^ 20 + t * 2 ^ 21) ++
    leBytes (tierUnit t - 8) (packSig (tierS t) sig)

/-- floor(log2 |m * 2^e|). -/
def flog (m : Int) (e : Int) : Int := (m.natAbs.log2 : Int) + e

/-- R69: the derived scale of a block. -/
def derivedE (l : List El) : Nat :=
  let tops := l.filterMap fun x => match x with
    | .val m e _ => if m = 0 then none else some (flog m e)
    | _ => none
  match tops with
  | [] => if l.any (fun x => match x with | .bad | .inf _ => true | _ => false) then 127 else 0
  | t :: r => (min (max ((r.foldl max t) + 127) 1) 254).toNat

/-- R69: one element's significand, with what it adds to SAT and UNF and whether it is the poison element. -/
def quantEl (t E : Nat) (x : El) : Int × Nat × Nat × Bool :=
  let lim : Int := 2 ^ (tierS t - 1) - 1
  match x with
  | .pad => (0, 0, 0, false)
  | .bad | .inf _ => (-(2 ^ (tierS t - 1)), 1, 0, true)
  | .val m e _ =>
    let q := roundInt m (e + 127 + tierF t - E)
    if q > lim then (lim, 1, 0, false)
    else if q < -lim then (-lim, 1, 0, false)
    else (q, 0, b2n (decide (q = 0) && decide (m ≠ 0)), false)

/-- R69: the lane unit of 32 elements at a graded tier, the scale being E. -/
def quantUnit (t E : Nat) (l : List El) : List Byte :=
  if E = 0 then unitBytes t 0 0 0 false (l.map fun _ => 0)
  else if E = 255 then
    unitBytes t 255 (l.countP fun x => x != .pad) 0 true
      (l.map fun x => if x = .pad then 0 else -(2 ^ (tierS t - 1) : Int))
  else
    let q := l.map (quantEl t E)
    unitBytes t E (q.map (·.2.1)).sum (q.map (·.2.2.1)).sum (q.any (·.2.2.2)) (q.map (·.1))

/-- R68: the binary32 bits of an element at tier F32. -/
def f32El (x : El) : Nat :=
  match x with
  | .pad => 0
  | .bad => f32F.nan
  | .inf n => f32F.inf n
  | .val m e nz => if m = 0 then f32F.zero nz else (fround f32F .rne (decide (m < 0)) m.natAbs e).1

/-- The significands of a unit of a graded tier. -/
def unitSigs (t : Nat) (u : List Byte) : List Int :=
  let n := leNat (u.drop 8)
  (List.range 32).map fun i => sintN (tierS t) (n / 2 ^ (tierS t * i))
/-- E, SAT, UNF and POISON of a unit's header (Table 4.4). -/
def unitE (u : List Byte) : Nat := leNat (u.take 1)
def unitSat (u : List Byte) : Nat := leNat (u.take 8) / 2 ^ 8 % 64
def unitUnf (u : List Byte) : Nat := leNat (u.take 8) / 2 ^ 14 % 64
def unitPoison (u : List Byte) : Bool := leNat (u.take 8) / 2 ^ 20 % 2 == 1

/-- An A64 cell as I and X (R78). -/
abbrev A64 := Int × Int
/-- The poisoned significand (R78). -/
def a64Pois : Int := -(2 ^ 51)
def a64Word (c : A64) : Word := w64 (modPow 52 c.1 * 4096 + modPow 12 c.2)

/-- R79: a cell as binary32 bits, with whether it was flushed and whether it became an infinity. -/
def a64ToF32 (c : A64) : Nat × Bool × Bool :=
  let (i, x) := c
  if i = a64Pois then (f32F.nan, false, false)
  else if i = 0 then (0, false, false)
  else
    let neg := decide (i < 0)
    let m := i.natAbs
    let top := x + m.log2
    let (n, _) := rquant .rne neg m x (top - 23)
    let (n, q) := if n = 2 ^ 24 then (2 ^ 23, top - 22) else (n, top - 23)
    if q + 23 ≥ 128 then (f32F.inf neg, false, true)
    else if q + 23 < -126 then (f32F.zero neg, true, false)
    else (b2n neg * 2 ^ 31 + (q + 23 + 127).toNat * 2 ^ 23 + (n - 2 ^ 23), false, false)

/-- v / 2^d rounded once with RNE (R297). -/
def shiftRne (v : Int) (d : Nat) : Int := roundInt v (-(d : Int))

/-- R297: shift until |i| lies below 2^51. -/
def a64Norm : Nat → Int → Int → A64
  | 0, i, x => (i, x)
  | n + 1, i, x => if i.natAbs ≥ 2 ^ 51 then a64Norm n (shiftRne i 1) (x + 1) else (i, x)

/-- R297: an arrival (s, xs) enters a cell. -/
def a64Arrive (c : A64) (s xs : Int) : A64 :=
  let (i, x) := c
  if i = a64Pois then c
  else if s = 0 then c
  else
    let (i, x) :=
      if i = 0 then (s, xs)
      else if xs > x then (shiftRne i (xs - x).toNat + s, xs)
      else if xs < x then (i + shiftRne s (x - xs).toNat, x)
      else (i + s, x)
    let (i, x) := a64Norm 4 i x
    if x > 2047 then (a64Pois, 0) else (i, x)

end Sys2Proof.Machine
end

