-- ==== Sys2Proof/Machine/Storage.lean ====
section
/-! DEFINITION. Sys2Proof/Machine/Storage.lean: translation at the home (02 R30 to R36), the vault with its encryption
(18 R380), L2's dirty lines (03 R49), tags and poison (03 R60), format windows and views (04 R71 to R77), pane space and
the edge tier (03 R56). -/

namespace Sys2Proof.Machine

-- Where the cells of vault, pane and edge space stand in the model's memory (log 1).
def vKey (t b : Nat) : Nat := t * 2 ^ 31 + b
def pKey (t b : Nat) : Nat := t * 2 ^ 31 + 2 ^ 30 + b
def eKey (ch b : Nat) : Nat := 2 ^ 50 + ch * 2 ^ 41 + b

/-- Page size of a size code (Table 2.6). -/
def pageBytes (sz : Nat) : Nat := 4096 * 4 ^ sz
/-- Level of a leaf with this size code (Table 2.6). -/
def leafLevel (sz : Nat) : Nat := if sz ≤ 3 then 3 else if sz ≤ 8 then 2 else if sz = 9 then 1 else 0
/-- Index of a walk level (R31). -/
def walkIdx (level off : Nat) : Nat :=
  if level = 1 then off / 2 ^ 30 % 1024 else if level = 2 then off / 2 ^ 20 % 1024 else off / 2 ^ 12 % 256

/-- A word of physical vault memory, as L2 and the walker read it. -/
def phys64 (s : State) (t : Tile) (a : Nat) : Word := leWord (cgets s.mem (vKey t a) 8)

/-- R33: the walk from a level's table, without the access check: base and leaf. -/
def walkGo (s : State) (t : Tile) (off : Nat) : Nat → Nat → Nat → Except Cause Word
  | 0, _, _ => .error .table
  | fuel + 1, level, a =>
    let e := phys64 s t (a + 8 * walkIdx level off)
    let k := fld e 0 2
    if k = 0 then .error .unmapped
    else if k = 3 then .error .table
    else if k = 2 then
      if fld e 30 34 ≠ 0 ∨ fld e 2 9 ≠ 0 then .error .table
      else if level = 3 then .error .table
      else if level = 1 ∧ fld e 11 19 * 2048 % 8192 ≠ 0 then .error .table
      else walkGo s t off fuel (level + 1) (fld e 11 19 * 2048)
    else if fld e 62 2 ≠ 0 ∨ fld e 30 18 ≠ 0 ∨ fld e 2 10 ≠ 0 then .error .table
    else if leafLevel (fld e 48 4) ≠ level then .error .table
    else if fld e 12 18 * 4096 % pageBytes (fld e 48 4) ≠ 0 then .error .table
    else if bit e 53 && !bit e 52 then .error .table
    else if bit e 56 && (bit e 53 || !bit e 54) then .error .table
    else .ok e

/-- R33: the leaf of a vault-space offset. -/
def walk (s : State) (t : Tile) (off : Nat) : Except Cause Word :=
  let v := (s.tile t).vtb
  if bit v 0 then walkGo s t off 3 1 (fld v 13 17 * 8192) else .error .unmapped

/-- R34 on a leaf, in the order the home makes the checks; a slot that is EMPTY acts as REVOKED (R380). -/
def leafCheck (x : TileSt) (e : Word) (k : Acc) : Option Cause :=
  if k.fetch && !bit e 54 then some .protection
  else if !k.fetch && !k.write && !bit e 52 then some .protection
  else if k.write && !bit e 53 then some .protection
  else if k.sync && !bit e 55 then some .syncPage
  else if fld e 58 4 ≠ 0 ∧ (match x.key (fld e 58 4) with | .loaded _ _ => false | _ => true) = true then some .revoked
  else if k.tub && fld e 58 4 != 0 then some .cipher
  else if k.tub && !bit e 57 then some .notVis
  else none

/-- A translated access: physical vault address and key id. -/
structure Xl where
  pa : Nat
  key : Nat
  sy : Bool
  deriving DecidableEq, Repr

/-- The physical address that a leaf gives an offset. -/
def leafXl (e : Word) (off : Nat) : Xl :=
  ⟨fld e 12 18 * 4096 + off % pageBytes (fld e 48 4), fld e 58 4, bit e 55⟩

/-- The 8-byte words that n bytes from a cell key touch, and those they cover whole. -/
def wordsOf (a n : Nat) : List Nat := (List.range ((a + n - 1) / 8 - a / 8 + 1)).map (a / 8 + ·)
def wholeWords (a n : Nat) : List Nat := (wordsOf a n).filter fun w => decide (a ≤ 8 * w) && decide (8 * w + 8 ≤ a + n)

-- Arrays, checks and poison (R55, R58, R60, R417).
/-- R55: whether n bytes of a tile's vault (region 0) or pane space lie in an array in part; an L2 way group holds no byte of its own
in the model, and a bank group holds whole sectors (log 78). -/
def inArr (x : TileSt) (region b n : Nat) : Arr → Bool
  | .pane h =>
    let p := x.pane h.val
    region == 1 && decide (256 * p.base < b + n) && decide (b < 256 * p.base + p.nslot * (256 * 2 ^ p.ssz))
  | .l2 _ => false
  | .bank g => region == 0 && (List.range ((b + (n - 1)) / 32 - b / 32 + 1)).any fun i => Config.bankGroup (b / 32 + i) % 8 == g.val
/-- The tile, region and byte of a vault or pane word, by its number: region 1 is pane space. Edge words have none. -/
def wordHome (w : Nat) : Option (Nat × Nat × Nat) :=
  if 2 ^ 47 ≤ w then none else some (8 * w / 2 ^ 31, 8 * w / 2 ^ 30 % 2, 8 * w % 2 ^ 30)
/-- Whether a word lies in an array of a tile that is in retention. -/
def inRetained (s : State) (w : Nat) : Bool :=
  match wordHome w with
  | some (t, r, b) => (s.tile t).retained.any (inArr (s.tile t) r b 8)
  | none => false
/-- Whether the L2 of its tile holds a word in a dirty line. -/
def inDirty (s : State) (w : Nat) : Bool :=
  match wordHome w with
  | some (t, 0, b) => (afind (s.tile t).dirty (b / 128)).isSome
  | _ => false
/-- Table 3.6, KIND: the check that meets a word's error when a tile core or engine reads it. -/
def checkKind (s : State) (w : Nat) : Nat :=
  if inDirty s w then 2 else if inRetained s w then 3 else match wordHome w with | some (_, 1, _) => 4 | _ => 1
/-- The words that one error makes bad: a sector of a dirty L2 line or of a retained array, else the word (Table 3.4). -/
def errorWords (s : State) (w : Nat) : List Nat :=
  if inDirty s w || inRetained s w then (List.range 4).map (w / 4 * 4 + ·) else [w]
/-- The syndrome word of Table 3.6. -/
def synWord (kind : Nat) (stored : Bool) (w : Nat) : Word :=
  w64 (kind * 2 ^ 12 + (if stored then 0xFFF else if kind ≤ 3 then (Config.syndrome w).toNat else 0))
/-- R58, R417: the trap of a word that a crossbar has poisoned on its way. -/
def parityTrap (a : Word) : Trap := { cause := .poison, addr := a, syn := synWord 5 false 0 }
/-- Whether a read of a word meets an error not met before. -/
def latentAt (s : State) (w : Nat) : Bool := (errorWords s w).any fun v => s.latent.contains v
/-- R417: the trap of a poisoned word, or of a word whose error this read finds, with all the words that the error makes bad. Where
an access meets several bad words the syndrome is that of the first stored poisoned one, else of the first found (DESIGN CHOICE,
log 106). -/
def poisonTrap (s : State) (a n : Nat) : Option Trap :=
  let ws := if n = 0 then [] else wordsOf a n
  match ws.find? (fun w => s.poison.contains w) with
  | some w => some { cause := .poison, syn := synWord (checkKind s w) true w }
  | none =>
    match ws.find? (latentAt s) with
    | some w => some { cause := .poison, syn := synWord (checkKind s w) false w, newPoison := (errorWords s w).map fun v => (v, false) }
    | none => none
/-- The poisoned words and the words with an unmet error that the vault of a tile itself holds beneath L2, in the line of a byte. -/
def beneathBad (s : State) (t b : Nat) : List Nat × List Nat :=
  match afind (s.tile t).dirty (b / 128) with
  | some d => (d.poison, d.latent)
  | none => (s.poison, s.latent)
/-- R417 for a tuber access, which reads the vault beneath L2 (06 R126). -/
def poisonBeneath (s : State) (t b n : Nat) : Option Trap :=
  let ws := if n = 0 then [] else wordsOf (vKey t b) n
  let kind (w : Nat) : Nat := if inRetained s w then 3 else 1
  let unit (w : Nat) : List Nat := if inRetained s w then (List.range 4).map (w / 4 * 4 + ·) else [w]
  match ws.find? (fun w => (beneathBad s t (8 * w % 2 ^ 30)).1.contains w) with
  | some w => some { cause := .poison, syn := synWord (kind w) true w }
  | none =>
    match ws.find? (fun w => (unit w).any fun v => (beneathBad s t (8 * w % 2 ^ 30)).2.contains v) with
    | some w => some { cause := .poison, newPoison := (unit w).map fun v => (v, true), syn := synWord (kind w) false w }
    | none => none

/-- Errors that a check of some words meets: the words that they make bad are poisoned from now on (R58, R417). -/
def meetErrors (s : State) (ws : List Nat) : State :=
  let hit := (s.latent.filter fun w => ws.contains w).flatMap (errorWords s)
  if hit.isEmpty then s else { s with poison := hit.foldl sadd s.poison, latent := s.latent.filter fun w => !hit.contains w }
/-- R55: an array leaves retention; the errors that its DEC-TED check finds poison their sectors' words. -/
def exitArr (s : State) (t : Tile) (a : Arr) : State :=
  let x := s.tile t
  if x.retained.contains a then
    let s := meetErrors s (s.latent.filter fun w => match wordHome w with | some (u, r, b) => u == t && inArr x r b 8 a | none => false)
    s.modTile t fun x => { x with retained := x.retained.filter fun b => b != a }
  else s
/-- R55: an access of n bytes of a tile's vault or pane space waits until the arrays it uses have left retention; one through
L2 uses its way groups, and the vault only where no dirty line serves it (log 78). -/
def wakeArrays (s : State) (t region b n : Nat) (l2 : Bool) : State :=
  let x := s.tile t
  if x.retained.isEmpty then s
  else
    let uses (a : Arr) : Bool := match a with
      | .l2 _ => l2
      | a => inArr x region b n a && !(l2 && (afind x.dirty (b / 128)).isSome)
    (x.retained.filter uses).foldl (fun s a => exitArr s t a) s
/-- R55: the arrays of some uses leave retention. -/
def wakeAll (s : State) (l : List Touch) : State := l.foldl (fun s u => wakeArrays s u.t u.region u.at_ u.n u.l2) s

/-- R33: the table entries that the walk of an offset reads, by their physical addresses. -/
def walkReads (s : State) (t : Tile) (off : Nat) : Nat → Nat → Nat → List Nat
  | 0, _, _ => []
  | fuel + 1, level, a =>
    let b := a + 8 * walkIdx level off
    let e := phys64 s t b
    b :: (if fld e 0 2 = 2 ∧ level < 3 then walkReads s t off fuel (level + 1) (fld e 11 19 * 2048) else [])
/-- The entry of the TLB that translates an offset. -/
def tlbHit (x : TileSt) (off : Nat) : Option TlbEnt := x.tlb.find? fun e => decide (e.base ≤ off) && decide (off < e.base + e.size)
/-- R55: the storage that the translation of an offset uses. -/
def walkTouch (s : State) (t : Tile) (off : Nat) : List Touch :=
  let x := s.tile t
  if bit x.vtb 0 && (tlbHit x off).isNone then (walkReads s t off 3 1 (fld x.vtb 13 17 * 8192)).map fun a => ⟨t, 0, a, 8, true⟩ else []

/-- R30 to R35: translation of a vault-space offset, from the TLB or by a walk that the TLB keeps when the checks pass. With
VTB.EN = 0 every access is UNMAPPED, whatever the TLB holds (Table 2.5). -/
def xlate (s : State) (t : Tile) (off : Nat) (k : Acc) : Except Cause (State × Xl) :=
  let x := s.tile t
  if bit x.vtb 0 = false then .error .unmapped
  else match tlbHit x off with
  | some e =>
    match leafCheck x e.leaf k with
    | some c => .error c
    | none => .ok (s, leafXl e.leaf off)
  | none =>
    match walk s t off with
    | .error c => .error c
    | .ok leaf =>
      match leafCheck x leaf k with
      | some c => .error c
      | none =>
        let sz := pageBytes (fld leaf 48 4)
        .ok ((wakeAll s (walkTouch s t off)).modTile t fun y =>
          { y with tlb := ((⟨off / sz * sz, sz, leaf⟩ : TlbEnt) :: y.tlb).take 1088 }, leafXl leaf off)

-- XTS (R380): two SM4 blocks to a 32-byte sector.
/-- Multiplication by alpha in the tweak field of XTS (IEEE 1619, named by R380). -/
def xtsNext (t : BitVec 128) : BitVec 128 := (t <<< 1) ^^^ (if t.getLsbD 127 then 0x87 else 0)
/-- One block under XTS. -/
def xtsBlock (enc : Bool) (kd : BitVec 128) (tw : BitVec 128) (b : BitVec 128) : BitVec 128 :=
  if enc then Config.sm4 kd (b ^^^ tw) ^^^ tw else (Config.sm4 kd).symm (b ^^^ tw) ^^^ tw
/-- One sector under XTS. -/
def xtsSector (enc : Bool) (kd kt tweak : BitVec 128) (l : List Byte) : List Byte :=
  let t0 := Config.sm4 kt tweak
  let b (j : Nat) : BitVec 128 := BitVec.ofNat 128 (leNat ((l.drop (16 * j)).take 16))
  leBytes 16 (xtsBlock enc kd t0 (b 0)).toNat ++ leBytes 16 (xtsBlock enc kd (xtsNext t0) (b 1)).toNat
/-- The vault tweak of a sector (R380). -/
def vaultTweak (t sec : Nat) : BitVec 128 := BitVec.ofNat 128 (t % 128 + t / 128 * 2 ^ 8 + sec * 2 ^ 30)
/-- The edge tweak of a sector (R380). -/
def edgeTweak (sec : Nat) : BitVec 128 := BitVec.ofNat 128 (sec + 2 ^ 127)

/-- Bytes of a run of sectors under a key slot: the cells from a sector-aligned key, decrypted or encrypted. -/
def xtsRun (enc : Bool) (kd kt : BitVec 128) (tweak : Nat → BitVec 128) : Nat → Nat → List Byte → List Byte
  | 0, _, _ => []
  | n + 1, sec, l => xtsSector enc kd kt (tweak sec) (l.take 32) ++ xtsRun enc kd kt tweak n (sec + 1) (l.drop 32)

/-- Plain bytes at an address of a device whose cells start at base, read under a key slot. -/
def rawRead (m : List Host.Cell) (base : Nat) (slot : KeySlot) (key : Nat) (tweak : Nat → BitVec 128) (a n : Nat) : List Byte :=
  match key, slot with
  | 0, _ => cgets m (base + a) n
  | _, .loaded kd kt =>
    let s0 := a / 32
    let ns := (a + n + 31) / 32 - s0
    ((xtsRun false kd kt tweak ns s0 (cgets m (base + 32 * s0) (32 * ns))).drop (a - 32 * s0)).take n
  | _, _ => cgets m (base + a) n

/-- Plain bytes written under a key slot: whole sectors are decrypted, changed and encrypted again. -/
def rawWrite (m : List Host.Cell) (base : Nat) (slot : KeySlot) (key : Nat) (tweak : Nat → BitVec 128) (a : Nat) (l : List Byte) :
    List Host.Cell :=
  match key, slot with
  | 0, _ => cputs m (base + a) l
  | _, .loaded kd kt =>
    let s0 := a / 32
    let ns := (a + l.length + 31) / 32 - s0
    let old := xtsRun false kd kt tweak ns s0 (cgets m (base + 32 * s0) (32 * ns))
    let new := old.take (a - 32 * s0) ++ l ++ old.drop (a - 32 * s0 + l.length)
    cputs m (base + 32 * s0) (xtsRun true kd kt tweak ns s0 new)
  | _, _ => cputs m (base + a) l

/-- R60: a write clears the poison of every word it covers whole, and with it the tag. -/
def clearPoison (s : State) (a n : Nat) : State :=
  let ws := if n = 0 then [] else wholeWords a n
  { s with full := s.full.filter fun w => !(ws.contains w && s.poison.contains w)
           poison := s.poison.filter fun w => !ws.contains w
           latent := s.latent.filter fun w => !ws.contains w }
/-- R58: a write checks what it does not cover whole: the errors of the words, or of the sectors of a dirty line, that it
touches are met; then R60. -/
def checkWrite (s : State) (a n : Nat) : State :=
  let s := if n = 0 ∨ s.latent.isEmpty = true then s else meetErrors s ((wordsOf a n).flatMap (errorWords s))
  clearPoison s a n

-- The L2 slice (R49).
/-- The lines of one set, of 1,024, that dirty or locked ways hold. -/
def setLines (x : TileSt) (set : Nat) : List Nat :=
  let own (l : Nat) : Bool := l % 1024 == set
  (x.dirty.map (·.1)).filter own ++ (x.locks.map (·.1)).filter fun l => own l && (afind x.dirty l).isNone
/-- R49: a line leaves L2 with its stores: nothing that a reader sees changes, but a sector's error is met and stored as
poison (R60). -/
def writeBack (s : State) (t line : Nat) : State :=
  let s := match afind (s.tile t).dirty line with
    | some _ => meetErrors s ((List.range 16).map (vKey t (128 * line) / 8 + ·))
    | none => s
  s.modTile t fun x => { x with dirty := adel x.dirty line }
/-- R49: a line takes a way of its set: where the twelve ways hold other lines, an unlocked one leaves, which a free value
says (log 4, log 78). -/
def makeRoom (s : State) (t line : Nat) : State :=
  let x := s.tile t
  let held := (setLines x (line % 1024)).filter (· != line)
  let out := held.filter fun k => (afind x.locks k).isNone
  if held.length < 12 ∨ out.isEmpty = true then s
  else (writeBack s t (lget out ((Config.freeWord s.fresh).toNat % out.length) 0)).nextFresh
/-- The words of a line of a tile's vault. -/
def lineWords (t line : Nat) (w : Nat) : Bool :=
  let k := vKey t (128 * line)
  decide (k / 8 ≤ w) && decide (w < k / 8 + 16)
/-- R49: a store dirties its L2 lines; what the vault holds beneath a line is kept from its first store. The fill of the
line meets the vault's errors. The granules that the store changes are noted (R125). -/
def dirtyLine (s : State) (t : Tile) (key line : Nat) (grans : List Nat) : State :=
  match afind (s.tile t).dirty line with
  | some d => s.modTile t fun x => { x with dirty := aput x.dirty line { d with grans := grans.foldl sadd d.grans } }
  | none =>
    let s := makeRoom (meetErrors s (s.latent.filter (lineWords t line))) t line
    let k := vKey t (128 * line)
    let d : DirtyLine :=
      { cells := s.mem.filter fun e => decide (k ≤ e.1) && decide (e.1 < k + 128)
        full := s.full.filter (lineWords t line), poison := s.poison.filter (lineWords t line), latent := [], key := key, grans := grans }
    s.modTile t fun x => { x with dirty := aput x.dirty line d }
/-- The granules of a line that n bytes from a touch. -/
def lineGrans (a n line : Nat) : List Nat := (List.range 8).filter fun g => decide (a < 128 * line + 16 * g + 16) && decide (128 * line + 16 * g < a + n)
def dirtyLines (s : State) (t : Tile) (key a n : Nat) : State :=
  (List.range ((a + n - 1) / 128 - a / 128 + 1)).foldl (fun s i => dirtyLine s t key (a / 128 + i) (lineGrans a n (a / 128 + i))) s

/-- R71: derived quantities of a window. -/
def Win.rowbytes (w : Win) : Nat := cdiv (w.rowlen.toNat * fmtBits w.fmt.toNat) 8
def Win.nkb (w : Win) : Nat := cdiv w.rowlen.toNat 32
def Win.units (w : Win) : Nat := w.nrow.toNat * w.nkb
def Win.srcEnd (w : Win) : Nat := w.src.toNat + (w.nrow.toNat - 1) * w.pitch.toNat + w.rowbytes

/-- Whether n bytes at a physical address overlap an enabled window's source or scale range. -/
def Win.covers (w : Win) (a n : Nat) : Bool :=
  w.en && ((decide (a < w.srcEnd) && decide (w.src.toNat < a + n)) ||
    (w.scm && decide (a < w.scl.toNat + w.units) && decide (w.scl.toNat < a + n)))

/-- R76: one write access advances GEN of every window it touches. -/
def genWrite (s : State) (t a n : Nat) : State :=
  if (s.tile t).wins.any fun e => e.2.covers a n then
    s.modTile t fun x => { x with wins := x.wins.map fun e => (e.1, if e.2.covers a n then { e.2 with gen := e.2.gen + 1 } else e.2) }
  else s

/-- R76, R120: the write accesses of a run of bytes, one for each granule of 16 bytes that it touches. -/
def genRun (s : State) (t a n : Nat) : State :=
  if n = 0 ∨ (s.tile t).wins.isEmpty = true then s
  else (List.range ((a + n - 1) / 16 - a / 16 + 1)).foldl (fun s i =>
    let lo := max a (16 * (a / 16 + i))
    genWrite s t lo (min (a + n) (16 * (a / 16 + i) + 16) - lo)) s

/-- Plain bytes of the vault at a physical address, through L2. -/
def vaultRead (s : State) (t key a n : Nat) : List Byte :=
  rawRead s.mem (vKey t 0) ((s.tile t).key key) key (vaultTweak t) a n

/-- One write access to the vault through L2 (R49, R60, R76). -/
def vaultWrite (s : State) (t key a : Nat) (l : List Byte) : State :=
  if l.length = 0 then s
  else
    let s := dirtyLines s t key a l.length
    let s := { s with mem := rawWrite s.mem (vKey t 0) ((s.tile t).key key) key (vaultTweak t) a l }
    genRun (checkWrite s (vKey t a) l.length) t a l.length

/-- The byte that the vault holds beneath L2 (06 R126). -/
def beneath (s : State) (t a : Nat) : Byte :=
  match afind (s.tile t).dirty (a / 128) with
  | some d => cget d.cells (vKey t a)
  | none => cget s.mem (vKey t a)
/-- Bytes beneath L2; a tuber access is only made to plaintext pages (R319, R326). -/
def beneathRead (s : State) (t a n : Nat) : List Byte := (List.range n).map fun i => beneath s t (a + i)
/-- A byte written beneath L2: a granule above it that stores have changed hides it (06 R125, R126). -/
def beneathByte (s : State) (t a : Nat) (v : Byte) : State :=
  match afind (s.tile t).dirty (a / 128) with
  | some d =>
    let s := s.modTile t fun x => { x with dirty := aput x.dirty (a / 128) { d with cells := cput d.cells (vKey t a) v } }
    if d.grans.contains (a % 128 / 16) then s else { s with mem := cput s.mem (vKey t a) v }
  | none => { s with mem := cput s.mem (vKey t a) v }
def beneathGo (s : State) (t a : Nat) : List Byte → State
  | [] => s
  | b :: r => beneathGo (beneathByte s t a b) t (a + 1) r
/-- R58, R60 for a write beneath a dirty line: errors of words it touches are met, words it covers whole are clear. -/
def clearBeneath (d : DirtyLine) (touched whole : List Nat) : DirtyLine :=
  let poison := (d.latent.filter fun w => touched.contains w).foldl sadd d.poison
  { d with full := d.full.filter fun w => !(whole.contains w && poison.contains w), poison := poison.filter fun w => !whole.contains w
           latent := d.latent.filter fun w => !touched.contains w }
/-- One 8-byte word's check bits after a tuber write that touches it (R58, R60). -/
def beneathCheck (s : State) (t a n w : Nat) : State :=
  let lo := max (8 * w) (vKey t a)
  let hi := min (8 * w + 8) (vKey t a + n)
  match afind (s.tile t).dirty (8 * w % 2 ^ 30 / 128) with
  | some d =>
    let whole := if lo = 8 * w ∧ hi = 8 * w + 8 then [w] else []
    let s := s.modTile t fun x => { x with dirty := aput x.dirty (8 * w % 2 ^ 30 / 128) (clearBeneath d [w] whole) }
    if d.grans.contains (8 * w % 128 / 16) then s else checkWrite s lo (hi - lo)
  | none => checkWrite s lo (hi - lo)
/-- One tuber write access (06 R126, R60, 04 R76). -/
def beneathWrite (s : State) (t a : Nat) (l : List Byte) : State :=
  let s := beneathGo s t a l
  genRun (if l.length = 0 then s else (wordsOf (vKey t a) l.length).foldl (fun s w => beneathCheck s t a l.length w) s) t a l.length
/-- A line leaves L2 without its stores: the vault's bytes, tags and poison show again (11 R248). -/
def discardLine (s : State) (t line : Nat) : State :=
  match afind (s.tile t).dirty line with
  | none => s
  | some d =>
    let k := vKey t (128 * line)
    let inL (w : Nat) : Bool := decide (k / 8 ≤ w) && decide (w < k / 8 + 16)
    let m := d.cells.foldl (fun m e => cput m e.1 e.2) (czero s.mem k 128)
    let s := { s with mem := m, full := d.full.foldl sadd (s.full.filter fun w => !inL w)
                      poison := d.poison.foldl sadd (s.poison.filter fun w => !inL w)
                      latent := d.latent.foldl sadd (s.latent.filter fun w => !inL w) }
    s.modTile t fun x => { x with dirty := adel x.dirty line }
/-- The dirty lines of a physical range. -/
def dirtyIn (s : State) (t a n : Nat) : List Nat :=
  ((s.tile t).dirty.map (·.1)).filter fun l => decide (l * 128 < a + n) && decide (a < l * 128 + 128)

-- Views (R73 to R75).
/-- The n bits at a bit position of the vault from a byte address, read under a key, and whether a poisoned word lies there. -/
def bitsAt (s : State) (t key a bitpos n : Nat) : Nat × Bool :=
  let lo := a + bitpos / 8
  let cnt := (bitpos % 8 + n + 7) / 8
  (leNat (vaultRead s t key lo cnt) / 2 ^ (bitpos % 8) % 2 ^ n, (poisonTrap s (vKey t lo) cnt).isSome)

/-- The scale byte of a unit; a poisoned one gives 255 (R69). -/
def scaleByte (s : State) (t : Nat) (w : Win) (u : Nat) : Nat :=
  if (poisonTrap s (vKey t (w.scl.toNat + u)) 1).isSome then 255
  else leNat (vaultRead s t w.key.toNat (w.scl.toNat + u) 1)

/-- R64, R65: element i of unit u of a window; E is the block's scale byte. -/
def winEl (s : State) (t : Nat) (w : Win) (u E i : Nat) : El :=
  let row := u / w.nkb
  let k := u % w.nkb * 32 + i
  if k ≥ w.rowlen.toNat then .pad
  else
    let b := fmtBits w.fmt.toNat
    let (v, bad) := bitsAt s t w.key.toNat (w.src.toNat + row * w.pitch.toNat) (k * b) b
    if bad then .bad else srcEl w.fmt.toNat v E

/-- R68, R69: the bytes of a unit at a tier, its stride filled with zeros. -/
def decodeUnit (s : State) (t : Nat) (w : Win) (tier u : Nat) : List Byte :=
  let stored := w.scm
  let E := if stored then scaleByte s t w u else 1
  let els := (List.range 32).map (winEl s t w u (if fmtGraded w.fmt.toNat then E else 1))
  let body :=
    if tier = 5 then
      (els.map fun x =>
        leBytes 4 (if x = .pad then 0 else if stored && E == 0 then 0 else if stored && E == 255 then f32F.nan else f32El x)).flatten
    else
      let E' := if fmtInt w.fmt.toNat then 127 + tierF tier else if stored then E else derivedE els
      quantUnit tier E' els
  body ++ List.replicate (tierStride tier - body.length) 0

/-- R75, step 1: the runs of vault bytes that the fill of the view lines of n bytes reads: source and scale bytes of every unit of
the lines that the window has. -/
def viewRuns (s : State) (t off n : Nat) : List (Nat × Nat) :=
  let w := (s.tile t).win (off / 2 ^ 36 % 16)
  let per := 128 / tierStride (off / 2 ^ 33 % 8)
  let a := off % 2 ^ 33
  let us := ((List.range (((a + n - 1) / 128 - a / 128 + 1) * per)).map (a / 128 * per + ·)).filter fun u => decide (u < w.units)
  if n = 0 then [] else us.flatMap fun u =>
    let b := fmtBits w.fmt.toNat
    let k := u % w.nkb * 32
    let lo := w.src.toNat + u / w.nkb * w.pitch.toNat + k * b / 8
    let hi := w.src.toNat + u / w.nkb * w.pitch.toNat + (min (k + 32) w.rowlen.toNat * b + 7) / 8
    (lo, max 1 (hi - lo)) :: (if w.scm then [(w.scl.toNat + u, 1)] else [])
/-- R55, R58, R75: what the fill of view lines does to the vault's arrays: they leave retention, and errors are met. -/
def viewFill (s : State) (t off n : Nat) : State :=
  if s.latent.isEmpty && (s.tile t).retained.isEmpty then s
  else
    let l := viewRuns s t off n
    meetErrors (wakeAll s (l.map fun e => ⟨t, 0, e.1, e.2, true⟩)) ((l.flatMap fun e => wordsOf (vKey t e.1) e.2).flatMap (errorWords s))
/-- R74: the checks of a view read of n bytes. What the decode finds uncorrectable it reports in the unit, and the word is
poisoned from then on (03 R417). -/
def viewCheck (s : State) (t off n : Nat) : Except Trap Win :=
  let w := (s.tile t).win (off / 2 ^ 36 % 16)
  let tier := off / 2 ^ 33 % 8
  let a := off % 2 ^ 33
  if !w.en then .error { cause := .window }
  else if tier ≥ 6 then .error { cause := .window }
  else if (a + n - 1) / tierStride tier ≥ w.units then .error { cause := .window }
  else if w.key ≠ 0 ∧ (match (s.tile t).key w.key.toNat with | .loaded _ _ => false | _ => true) = true then .error { cause := .revoked }
  else .ok w

/-- R74, R75: bytes of view space at a local offset. -/
def viewRead (s : State) (t off n : Nat) : Except Trap (List Byte) :=
  match viewCheck s t off n with
  | .error e => .error e
  | .ok w =>
    let tier := off / 2 ^ 33 % 8
    let a := off % 2 ^ 33
    let u0 := a / tierStride tier
    let u1 := (a + n - 1) / tierStride tier
    let bytes := (List.range (u1 - u0 + 1)).flatMap fun i => decodeUnit s t w tier (u0 + i)
    .ok ((bytes.drop (a - u0 * tierStride tier)).take n)

-- Vault, view and pane space at the home.
/-- One read access at a local offset of regions 0 to 2. -/
def readHome (s : State) (t off n : Nat) (k : Acc) : Except Trap (State × List Byte) :=
  match off / 2 ^ 40 % 16 with
  | 0 =>
    match xlate s t (off % 2 ^ 40) k with
    | .error c => .error { cause := c, touched := walkTouch s t (off % 2 ^ 40) }
    | .ok (s, x) =>
      match (if k.tub then poisonBeneath s t x.pa n else poisonTrap s (vKey t x.pa) n) with
      | some tr => .error { tr with touched := [⟨t, 0, x.pa, n, !k.tub⟩] }
      | none => .ok (wakeArrays s t 0 x.pa n (!k.tub), if k.tub then beneathRead s t x.pa n else vaultRead s t x.key x.pa n)
  | 1 =>
    match viewRead s t off n with
    | .error e => .error e
    | .ok b => .ok (viewFill s t off n, b)
  | _ =>
    match poisonTrap s (pKey t (off % 2 ^ 40)) n with
    | some tr => .error { tr with touched := [⟨t, 1, off % 2 ^ 40, n, false⟩] }
    | none => .ok (wakeArrays s t 1 (off % 2 ^ 40) n false, cgets s.mem (pKey t (off % 2 ^ 40)) n)

/-- A cache of cap entries takes one more: where it is full, an entry that a free value names leaves (03 R43; log 9). -/
def intoCache {α : Type} (s : State) (cap k : Nat) (v : α) (l : Assoc α) : Assoc α :=
  if (afind l k).isSome ∨ l.length < cap then aput l k v else aput (ldel l ((Config.freeWord s.fresh).toNat % l.length)) k v
/-- The instruction cache: 32 KiB in lines of 128 bytes (Table 3.1). -/
def keepCode (s : State) (t line : Nat) (l : List Byte) : State :=
  s.nextFresh.modTile t fun x => { x with icache := intoCache s 256 line l x.icache }
/-- The constant cache: 8 KiB in words (Table 3.1); by says which packet's early fill brought the word, 0 none. -/
def keepConst (s : State) (t w : Nat) (v : Word) (by_ : Nat) : State :=
  s.nextFresh.modTile t fun x => { x with ccache := intoCache s 1024 w (v, by_) x.ccache }

/-- Whether two ranges of local offsets meet. -/
def meets (a n b m : Nat) : Bool := decide (a < b + m) && decide (b < a + n)

/-- R344, R350: what a write performed at a tile sets off: a wake notice for a wake word it touches, and word to the command
processor when it leaves a launch word at 0. pa is the physical address of off. -/
def afterWrite (s : State) (t off n pa key : Nat) : State :=
  let x := s.tile t
  let s := x.wakeTab.foldl (fun s e => if meets off n (fld e.1 0 44) 8 then s.send t (fwSite (fieldOf t)) 7 (.wakeNotice e.2) else s) s
  match s.part x.pid with
  | none => s
  | some p =>
    p.launches.foldl (fun s e =>
      let lo := fld e.2.lwa 0 44
      if p.at (fld e.2.lwa 44 7) (fld e.2.lwa 51 6) = t ∧ meets off n lo 8 = true ∧ leWord (vaultRead s t key (pa + lo - off) 8) = 0
      then s.send t (fwSite (fieldOf (p.at 0 0))) 7 (.launchDone p.pid e.2.no) else s) s

/-- One write access to pane space. -/
def paneWrite (s : State) (t a : Nat) (l : List Byte) : State :=
  let s := wakeArrays s t 1 a l.length false
  checkWrite { s with mem := cputs s.mem (pKey t a) l } (pKey t a) l.length
/-- One write access at a local offset of regions 0 and 2. -/
def writeHome (s : State) (t off : Nat) (l : List Byte) (k : Acc) : Except Trap State :=
  match off / 2 ^ 40 % 16 with
  | 0 =>
    match xlate s t (off % 2 ^ 40) k with
    | .error c => .error { cause := c, touched := walkTouch s t (off % 2 ^ 40) }
    | .ok (s, x) =>
      let s := wakeArrays s t 0 x.pa l.length (!k.tub)
      .ok (afterWrite (if k.tub then beneathWrite s t x.pa l else vaultWrite s t x.key x.pa l) t off l.length x.pa x.key)
  | _ => .ok (paneWrite s t (off % 2 ^ 40) l)

/-- R58: the words that n bytes at a local offset touch are stored poisoned. -/
def poisonHome (s : State) (t off n : Nat) : State :=
  let put (s : State) (k : Nat) : State := { s with poison := (wordsOf k n).foldl sadd s.poison }
  match off / 2 ^ 40 % 16 with
  | 0 => (match xlate s t (off % 2 ^ 40) { write := true } with
    | .ok (s, x) => put s (vKey t x.pa)
    | .error _ => s)
  | 2 => put s (pKey t (off % 2 ^ 40))
  | _ => s

-- The edge tier.
/-- R56: channel and byte of an edge offset. -/
def edgePlace (chans : List Nat) (o : Nat) : Nat × Nat :=
  let m := chans.length
  let stripe := o / 4096
  (lget chans (stripe % m) 0, stripe / m * 4096 + o % 4096)
/-- The key id and slot of an edge offset, in the engine of its channel's crescent (18 R380); slots are listed under
16 * crescent + id. -/
def edgeSlot (p : Part) (o : Nat) : Nat × KeySlot :=
  let k := aget p.segKey (o / 2 ^ 30) 0
  (k, aget p.edgeKeys (16 * crescentOf (edgePlace p.chans o).1 + k) .empty)
/-- R56: whether the channel refuses an offset: a peer segment (R386) or a revoked key. -/
def edgeBad (p : Part) (o : Nat) : Option Cause :=
  if (afind p.peers (o / 2 ^ 30)).isSome then some .address
  else match edgeSlot p o with
    | (0, _) => none
    | (_, .loaded _ _) => none
    | _ => some .revoked
/-- One edge access within a granule. The tweak is that of the edge offset (R380). -/
def edgeRead (s : State) (p : Part) (o n : Nat) : Except Trap (List Byte) :=
  match edgeBad p o with
  | some c => .error { cause := c }
  | none =>
    let (ch, b) := edgePlace p.chans o
    let (k, slot) := edgeSlot p o
    match poisonTrap s (eKey ch b) n with
    | some tr => .error tr
    | none => .ok (rawRead s.mem (eKey ch 0) slot k (fun sec => edgeTweak (o / 32 + sec - b / 32)) b n)
def edgeWrite (s : State) (p : Part) (o : Nat) (l : List Byte) : Except Trap State :=
  match edgeBad p o with
  | some c => .error { cause := c }
  | none =>
    let (ch, b) := edgePlace p.chans o
    let (k, slot) := edgeSlot p o
    .ok (checkWrite { s with mem := rawWrite s.mem (eKey ch 0) slot k (fun sec => edgeTweak (o / 32 + sec - b / 32)) b l }
      (eKey ch b) l.length)

/-- R58: the words that n bytes at an edge offset touch are stored poisoned. -/
def poisonEdge (s : State) (p : Part) (o n : Nat) : State :=
  let (ch, b) := edgePlace p.chans o
  { s with poison := (wordsOf (eKey ch b) n).foldl sadd s.poison }
/-- A run of n bytes of a tile's space cut at 4 KiB boundaries, so that no part crosses a page (02 R31). -/
def pageParts (off : Nat) : Nat → Nat → List (Nat × Nat)
  | 0, _ => []
  | _, 0 => []
  | f + 1, n =>
    let k := min n (4096 - off % 4096)
    (off, k) :: pageParts (off + k) f (n - k)
/-- Pieces read at one home, all checked, in order. -/
def readPieces (s : State) (t : Nat) (k : Acc) : List (Nat × Nat) → Except Trap (State × List Byte)
  | [] => .ok (s, [])
  | (off, n) :: r =>
    match readHome s t off n k with
    | .error e => .error e
    | .ok (s, b) =>
      match readPieces s t k r with
      | .error e => .error e
      | .ok (s, c) => .ok (s, b ++ c)

/-- Pieces written at one home, all checked before the first is performed (R121): a failing piece leaves no state. -/
def writePieces (s : State) (t : Nat) (k : Acc) : List (Nat × List Byte) → Except Trap State
  | [] => .ok s
  | (off, l) :: r =>
    match writeHome s t off l k with
    | .error e => .error e
    | .ok s => writePieces s t k r

/-- A block of n bytes read at a tile, each page translated and checked by itself (02 R30, R34). -/
def readSpan (s : State) (t off n : Nat) (k : Acc) : Except Trap (State × List Byte) := readPieces s t k (pageParts off (n / 4096 + 2) n)
/-- Data cut as the parts of a block are. -/
def splitSpan : List (Nat × Nat) → List Byte → List (Nat × List Byte)
  | [], _ => []
  | (a, n) :: r, l => (a, l.take n) :: splitSpan r (l.drop n)
/-- A block of bytes written at a tile, each page translated and checked by itself. -/
def writeSpan (s : State) (t off : Nat) (l : List Byte) (k : Acc) : Except Trap State :=
  writePieces s t k (splitSpan (pageParts off (l.length / 4096 + 2) l.length) l)

end Sys2Proof.Machine
end

