-- ==== Sys2Proof/Machine/Pods.lean ====
section
/-! DEFINITION. Sys2Proof/Machine/Pods.lean: the pod's bytes (05 R81, Table 5.1), the rings' places in vault memory (05 R88,
06 R108, 08 R154, 15 R330), hop counts (02 R416, 05 R100), and the continuation record's bytes (Table 8.4). -/

namespace Sys2Proof.Machine

-- Places in physical vault memory.
def arrBase : Nat := 0x3FC00000
def parkBase : Nat := 0x3F7F8000
def bucketBase : Nat := 0x3F7E8000
def spillBase : Nat := 0x3F5E8000
def saveBase : Nat := 0x3F5D8000
def heldBase : Nat := 0x3F5D0000
def crashBase : Nat := 0x3F5D7FC0

/-- R55: the arrays of n bytes of physical vault memory leave retention for the tile's own hardware. -/
def physWake (s : State) (t a n : Nat) : State := wakeArrays s t 0 a n true
/-- Bytes that the tile's own hardware writes to physical vault memory: write accesses as any others (R55, R58, R76). -/
def physPut (s : State) (t a : Nat) (l : List Byte) : State :=
  let s := physWake s t a l.length
  genRun (checkWrite { s with mem := cputs s.mem (vKey t a) l } (vKey t a) l.length) t a l.length
def physGet (s : State) (t a n : Nat) : List Byte := cgets s.mem (vKey t a) n

/-- The header words of a pod (Table 5.1). -/
def podHeader (th : Thread) (kind : BitVec 2) : List Word :=
  [ w64 (b2n th.ret * 2 ^ 63 + b2n th.rel * 2 ^ 62 + b2n th.parked * 2 ^ 61 + kind.toNat * 2 ^ 58 + th.pc.toNat % 2 ^ 58)
  , w64 (th.cy.toNat * 2 ^ 58 + th.cx.toNat * 2 ^ 51 + th.oy.toNat * 2 ^ 45 + th.ox.toNat * 2 ^ 38 + th.pid.toNat * 2 ^ 32 + th.tid.toNat)
  , w64 (b2n th.apin * 2 ^ 53 + th.bcnt.toNat * 2 ^ 50 +
      (b2n th.p[1] + b2n th.p[2] * 2 + b2n th.p[3] * 4 + b2n th.p[4] * 8 + b2n th.p[5] * 16 + b2n th.p[6] * 32 + b2n th.p[7] * 64) * 2 ^ 43 +
      th.klive.toNat * 2 ^ 40 + th.vlive.toNat * 2 ^ 32 + th.hop.toNat)
  , w64 (th.fst.toNat * 2 ^ 32 + th.rm.toNat * 2 ^ 16 + th.pspan.toNat) ]

/-- The k-word of a pod (R81). -/
def podK (th : Thread) : Word := w64 (th.k[1].toNat + th.k[2].toNat * 2 ^ 16 + th.k[3].toNat * 2 ^ 32)

/-- The bytes of a pod up to the k-word (R81). -/
def podHead (th : Thread) (kind : BitVec 2) : List Byte :=
  wordsBytes (podHeader th kind) ++ wordsBytes (th.g.toList.drop 1) ++ wBytes (podK th)

/-- R81: the whole pod, live vector registers in ascending order. -/
def podBytes (th : Thread) (kind : BitVec 2) : List Byte :=
  podHead th kind ++ ((List.range 8).filter fun i => th.vlive.getLsbD i).flatMap fun i => vBytes th.v[Fin.ofNat 8 i]

/-- The live vector registers read from the bytes that follow the k-word. -/
def podVecs : Nat → BitVec 8 → List Byte → Vector VReg 8 → Vector VReg 8
  | 0, _, _, v => v
  | n + 1, live, l, v =>
    let i := 7 - n
    if live.getLsbD i then podVecs n live (l.drop 64) (v.set (Fin.ofNat 8 i) (bytesV l)) else podVecs n live l v

/-- A k register of a pod image; one that is not live reads as zero (R82). -/
def podKreg (h2 k : Word) (i : Nat) : BitVec 16 := if bit h2 (39 + i) then BitVec.ofNat 16 (fld k (16 * (i - 1)) 16) else 0

/-- R82: the thread that a pod's bytes give, with what travels beside them. -/
def podThread (l : List Byte) (sd : Side) : Thread :=
  let h := bytesWords 4 l
  let h0 := lget h 0 0; let h1 := lget h 1 0; let h2 := lget h 2 0; let h3 := lget h 3 0
  let gs := bytesWords 15 (l.drop 32)
  let k := leWord ((l.drop 152).take 8)
  let vl : BitVec 8 := BitVec.ofNat 8 (fld h2 32 8)
  { pc := w64 (fld h0 0 58)
    g := (List.range 15).foldl (fun v i => v.set (Fin.ofNat 16 (i + 1)) (lget gs i 0)) (Vector.replicate 16 0)
    v := podVecs 8 vl (l.drop 160) (Vector.replicate 8 (Vector.replicate 16 0))
    p := (List.range 7).foldl (fun v i => v.set (Fin.ofNat 8 (i + 1)) (bit h2 (43 + i))) (Vector.replicate 8 false)
    k := #v[0, podKreg h2 k 1, podKreg h2 k 2, podKreg h2 k 3]
    vlive := vl, klive := BitVec.ofNat 3 (fld h2 40 3), rm := BitVec.ofNat 2 (fld h3 16 2), fst := BitVec.ofNat 5 (fld h3 32 5)
    tid := BitVec.ofNat 32 (fld h1 0 32), hop := BitVec.ofNat 32 (fld h2 0 32), ox := BitVec.ofNat 7 (fld h1 38 7)
    oy := BitVec.ofNat 6 (fld h1 45 6), cx := BitVec.ofNat 7 (fld h1 51 7), cy := BitVec.ofNat 6 (fld h1 58 6)
    pid := BitVec.ofNat 6 (fld h1 32 6), bcnt := BitVec.ofNat 3 (fld h2 50 3), apin := bit h2 53
    pspan := BitVec.ofNat 16 (fld h3 0 16), epin := sd.epin, launch := sd.launch, slot := sd.slot, ret := bit h0 63
    rel := bit h0 62, parked := bit h0 61, tjob := sd.tjob }

/-- R82: whether an edited image breaks the format: a reserved field, or coordinates outside the partition. -/
def podBad (x : TileSt) (l : List Byte) : Bool :=
  let h := bytesWords 4 l
  let h0 := lget h 0 0; let h1 := lget h 1 0; let h2 := lget h 2 0; let h3 := lget h 3 0
  let k := leWord ((l.drop 152).take 8)
  bit h0 60 || fld h2 54 10 != 0 || fld h3 48 16 != 0 || fld k 48 16 != 0 || fld h3 18 14 != 0 || fld h3 37 11 != 0 ||
    decide (fld h1 51 7 ≥ x.pw) || decide (fld h1 58 6 ≥ x.phh) || decide (fld h1 38 7 ≥ x.pw) || decide (fld h1 45 6 ≥ x.phh)

/-- What travels beside a thread's pod. -/
def sideOf (th : Thread) : Side := ⟨none, th.epin, th.launch, th.slot, th.tjob⟩

/-- R82: a thread as a pod carries it: registers that are not live are zero. -/
def podLive (th : Thread) : Thread :=
  { th with
    v := (List.range 8).foldl (fun v i => if th.vlive.getLsbD i then v else v.set (Fin.ofNat 8 i) (Vector.replicate 16 0)) th.v
    k := (List.range 3).foldl (fun k i => if th.klive.getLsbD i then k else k.set (Fin.ofNat 4 (i + 1)) 0) th.k }

/-- Ring slot word (Table 5.3): V, and in the park ring the destination. -/
def slotWord (dx dy : Nat) : Word := w64 (2 ^ 63 + dx % 128 * 64 + dy % 64)
/-- Whether a slot word's reserved field is not zero, and whether its destination lies in the partition (Table 5.3). -/
def slotReserved (w : Word) : Bool := fld w 13 50 != 0
def slotInside (x : TileSt) (w : Word) : Bool := decide (fld w 6 7 < x.pw) && decide (fld w 0 6 < x.phh)

/-- The 32 bytes of a continuation record (Table 8.4). -/
def recBytes (r : Rec) : List Byte :=
  wordsBytes [w64 (r.lch % 64 * 2 ^ 58 + r.cpc.toNat), r.fp, r.jca, w64 (r.arg1.toNat * 2 ^ 32 + r.arg0.toNat)]
def bytesRec (l : List Byte) : Rec :=
  let w := bytesWords 4 l
  { lch := fld (lget w 0 0) 58 6, cpc := BitVec.ofNat 58 (fld (lget w 0 0) 0 58), fp := lget w 1 0, jca := lget w 2 0
    arg1 := BitVec.ofNat 32 (fld (lget w 3 0) 32 32), arg0 := BitVec.ofNat 32 (fld (lget w 3 0) 0 32), tjob := none }

/-- Distance of two numbers. -/
def dist (a b : Nat) : Nat := (a - b) + (b - a)
/-- Least hops along one axis with links that span one or two places. -/
def foldHops (d : Nat) : Nat := d / 2 + d % 2

/-- A physical row is a spare row, or the exposed row with this number (01 R13). -/
def isSpareRow (py : Nat) : Bool := py % 9 == 8
def exposedRow (py : Nat) : Nat := 8 * (py / 9) + py % 9
/-- R39, R416: least hops between exposed rows over mesh and folded links: a folded link skips one exposed row and the spare row
between, a mesh step across a field boundary passes the spare row's router. -/
def rowHops (a b : Nat) : Nat := if dist a b = 1 ∧ a / 8 ≠ b / 8 then 2 else foldHops (dist a b)
/-- Least hops from the spare row of a field to an exposed row: a mesh link joins it to the rows above and below (log 81). -/
def spareHops (f r : Nat) : Nat :=
  let up := rowHops (8 * f + 7) r
  1 + if f < 7 then min up (rowHops (8 * f + 8) r) else up
/-- Least hops along a column over mesh and folded links. -/
def colHops (p q : Nat) : Nat :=
  if isSpareRow p && isSpareRow q then
    (if p = q then 0 else spareHops (min p q / 9) (8 * (max p q / 9) + 7) + 1)
  else if isSpareRow p then spareHops (p / 9) (exposedRow q)
  else if isSpareRow q then spareHops (q / 9) (exposedRow p)
  else rowHops (exposedRow p) (exposedRow q)
/-- R416: the hops of a route between two sites of the wafer: over mesh links, the spare rows' routers counted, or in the
full-wafer partition over mesh and folded links. -/
def siteHops (full : Bool) (ax ay bx bz : Nat) : Nat :=
  if full then foldHops (dist ax bx) + colHops ay bz else dist ax bx + dist ay bz
/-- Whether a tile belongs to the full-wafer partition. -/
def fullWafer (x : TileSt) : Bool := decide (x.pw = 128) && decide (x.phh = 64)
/-- R416: the hops of a packet from the site where a tile stands when it sends it to the site that the embedding gave another. -/
def hopsOut (s : State) (a b : Tile) : Nat :=
  if a = b then 0 else siteHops (fullWafer (s.tile a)) (s.tile a).px (s.tile a).py (s.tile b).ex (s.tile b).ey
/-- R100: the hops that a stub adds, from the site that the embedding gave a tile to the one where it stands. -/
def hopsStub (s : State) (a b : Tile) : Nat :=
  let y := s.tile b
  if a = b then 0 else siteHops (fullWafer y) y.ex y.ey y.px y.py
/-- R416, R100: the hops of a packet that leaves one tile and reaches another with none retired on its way. -/
def hops (s : State) (a b : Tile) : Nat := hopsOut s a b + hopsStub s a b
/-- R41: the hops between two tiles over the embedding as built, which retirement does not change. -/
def builtHops (full : Bool) (x y : TileSt) : Nat := siteHops full x.ex x.ey y.ex y.ey

/-- HOP saturates at 2^32 - 1 (Table 5.1). -/
def addHop (h : BitVec 32) (n : Nat) : BitVec 32 := BitVec.ofNat 32 (min (h.toNat + n) (2 ^ 32 - 1))
/-- R81, R100: a thread as it leaves a tile for another, and as it reaches that one, past its stub. -/
def Thread.leaves (th : Thread) (s : State) (a b : Tile) : Thread := { th with hop := addHop th.hop (hopsOut s a b) }
def Thread.reaches (th : Thread) (s : State) (a b : Tile) : Thread := { th with hop := addHop th.hop (hopsStub s a b) }

end Sys2Proof.Machine
end

