-- ==== Sys2Proof/Machine/Embedding.lean ====
section
/-! DEFINITION. Sys2Proof/Machine/Embedding.lean: what firmware writes of the embedding into a tile's registers: coordinates,
neighbour pointers and scope tables (02 R38 to R41, 18 R390). -/

namespace Sys2Proof.Machine

/-- A rectangle of the wafer as a partition's coordinates name its tiles; the whole wafer. -/
def Rect.at (r : Rect) (x y : Nat) : Tile := 128 * (r.y + y) + (r.x + x)
def waferRect : Rect := ⟨0, 0, 128, 64⟩
def Part.rect (p : Part) : Rect := ⟨p.x0, p.y0, p.w, p.h⟩
/-- R39: the place of a coordinate on a folded ring of n, and back. -/
def ringPos (c n : Nat) : Nat := if c % 2 = 0 then c / 2 else n - 1 - (c - 1) / 2
def foldAt (i n : Nat) : Nat := if i < n / 2 then 2 * i else 2 * (n - 1 - i) + 1
def ringStep (c n k : Nat) : Nat := foldAt ((ringPos c n + k) % n) n
/-- R39: the neighbour of partition-relative (x, y) in a direction. -/
def nbrOf (w h x y : Nat) (d : Dir) : Option (Nat × Nat) :=
  if w = 128 ∧ h = 64 then
    some (match d with
      | .e => (ringStep x 128 1, y) | .w => (ringStep x 128 127, y)
      | .s => (x, ringStep y 64 1) | .n => (x, ringStep y 64 63))
  else match d with
    | .e => if x + 1 < w then some (x + 1, y) else none
    | .w => if 0 < x then some (x - 1, y) else none
    | .s => if y + 1 < h then some (x, y + 1) else none
    | .n => if 0 < y then some (x, y - 1) else none
/-- Table 2.9: TCO of a tile of a rectangle. -/
def tcoWord (r : Rect) (t : Nat) : Word :=
  w64 (t / 128 * 2 ^ 40 + t % 128 * 2 ^ 32 + (t % 128 - r.x) * 2 ^ 8 + (t / 128 - r.y))
/-- Table 2.10: the pointer of a tile of a rectangle. -/
def npWord (s : State) (r : Rect) (t : Nat) (d : Dir) : Word :=
  match nbrOf r.w r.h (t % 128 - r.x) (t / 128 - r.y) d with
  | none => 1#64 <<< 63
  | some (x, y) =>
    let a := s.tile t
    let b := s.tile (r.at x y)
    w64 (y * 2 ^ 40 + x * 2 ^ 32 + modPow 8 ((b.py : Int) - a.py) * 2 ^ 8 + modPow 8 ((b.px : Int) - a.px))

-- Scope tables (R41).
/-- How far a test holds from c, at most n steps, below or above. -/
def reach (f : Nat → Bool) : Nat → Nat → Bool → Nat
  | 0, _, _ => 0
  | n + 1, c, up =>
    if up then (if f (c + 1) then reach f n (c + 1) up + 1 else 0)
    else if 0 < c ∧ f (c - 1) = true then reach f n (c - 1) up + 1 else 0
/-- R41: the entry of level n: the largest rectangle of tiles within n hops of the embedding as built; ties to width, then XLO, then
YLO. A folded link reaches two columns or rows in one hop, and a tile on a spare stands up to 8 rows and 7 columns from its
coordinates, so that no tile more than 16 farther is in reach. -/
def scopeRect (s : State) (r : Rect) (t n : Nat) : Rect :=
  let x := t % 128 - r.x
  let y := t / 128 - r.y
  let full := decide (r.w = 128) && decide (r.h = 64)
  let far := (if full then 2 * n else n) + 16
  let near (i j : Nat) : Bool := decide (i < r.w) && decide (j < r.h) && decide (builtHops full (s.tile t) (s.tile (r.at i j)) ≤ n)
  let cand (lo hi : Nat) : Option Rect :=
    let row (j : Nat) : Bool := (List.range (hi - lo + 1)).all fun i => near (lo + i) j
    if row y then
      let d := reach row far y false
      some ⟨lo, y - d, hi - lo + 1, d + reach row far y true + 1⟩
    else none
  let all := (List.range (min far x + 1)).flatMap fun a => (List.range (far + 1)).filterMap fun b => cand (x - a) (x + b)
  let better (q b : Rect) : Bool :=
    let k (q : Rect) : Nat := q.w * q.h * 256 + q.w
    decide (k b < k q) || (k b == k q && (decide (q.x < b.x) || (q.x == b.x && decide (q.y < b.y))))
  all.foldl (fun b q => if better q b then q else b) ⟨x, y, 1, 1⟩
/-- Table 2.11. -/
def scopeWord (r : Rect) : Word := w64 ((r.x + r.w - 1) * 2 ^ 24 + (r.y + r.h - 1) * 2 ^ 16 + r.x * 2 ^ 8 + r.y)
/-- R41: entry n of the table of a tile of a rectangle. -/
def scopeEntry (s : State) (r : Rect) (t n : Nat) : Word :=
  scopeWord (if n = 0 then ⟨t % 128 - r.x, t / 128 - r.y, 1, 1⟩ else if n = 15 then ⟨0, 0, r.w, r.h⟩ else scopeRect s r t n)
def scopeTable (s : State) (r : Rect) (t : Nat) : List Word := (List.range 16).map (scopeEntry s r t)

-- The embedding built at bring-up (18 R390, log 89).
/-- Whether a tile's registers still stand as bring-up wrote them: no partition has been created over it. -/
def asBuilt (s : State) (t : Tile) : Bool := s.up && (s.tile t).scope.isEmpty
/-- Word k of a tile's registers as bring-up wrote it for the torus of the whole wafer: TCO, the pointers, the scope entries. -/
def builtWord (s : State) (t k : Nat) : Word :=
  match k with
  | 1 => tcoWord waferRect t
  | 2 => npWord s waferRect t .n
  | 3 => npWord s waferRect t .e
  | 4 => npWord s waferRect t .s
  | 5 => npWord s waferRect t .w
  | k => scopeEntry s waferRect t (k - 16)
/-- The registers of a tile that firmware is about to write, with what bring-up wrote. -/
def builtTile (s : State) (t : Tile) : State :=
  if asBuilt s t then s.modTile t fun x =>
    { x with tco := builtWord s t 1, npn := builtWord s t 2, npe := builtWord s t 3, nps := builtWord s t 4, npw := builtWord s t 5
             scope := scopeTable s waferRect t }
  else s

end Sys2Proof.Machine
end

