-- ==== Sys2Proof/Machine/Lists.lean ====
section
/-! DEFINITION. Sys2Proof/Machine/Lists.lean: deferred lists and wait records (06 R107 to R110), bindings (R111),
counters and their waiters (R116, R117), and every operation that a handler performs at a word's home (11 R225). -/

namespace Sys2Proof.Machine

/-- Column and row of a tile in its partition, seen from a tile of that partition. -/
def relX (x : TileSt) (t : Tile) : Nat := t % 128 - x.x0
def relY (x : TileSt) (t : Tile) : Nat := t / 128 - x.y0

/-- R108: a record pointer of 27 bits; 0 is no pointer. -/
def recPtr (x : TileSt) (e : DefEnt) : Nat :=
  2 ^ 26 + relX x e.charge % 128 * 2 ^ 19 + relY x e.charge % 64 * 2 ^ 13 + e.slot % 2 ^ 13

/-- Where a park-ring slot stands in physical vault memory (R88). -/
def parkSlot (n : Nat) : Nat := parkBase + 1024 * n

/-- R108: bits [16:3] of a word's local offset. -/
def bucketOf (off : Nat) : Nat := off / 8 % 16384

/-- Pointer fields of the records of a list: charge tile, slot, NEXT, TAIL, CHAIN. -/
def listLinks (x : TileSt) (l : List DefEnt) (chain : Nat) : List (Tile × Nat × Nat × Nat × Nat) :=
  match l with
  | [] => []
  | e :: r =>
    let next (l : List DefEnt) : Nat := match l with | [] => 0 | f :: _ => recPtr x f
    let tail : Nat := match r.getLast? with | some f => recPtr x f | none => recPtr x e
    let rec go : List DefEnt → List (Tile × Nat × Nat × Nat × Nat)
      | [] => []
      | f :: r => (f.charge, f.slot, next r, 0, 0) :: go r
    (e.charge, e.slot, next r, tail, chain) :: go r

/-- The lists of a bucket, in rising offset of their words. -/
def bucketLists (x : TileSt) (b : Nat) : List (List DefEnt) :=
  (x.deferred.filter fun e => bucketOf e.1 == b && !e.2.isEmpty).map (·.2)

/-- The head pointer of the first list of some lists. -/
def headPtr (x : TileSt) : List (List DefEnt) → Nat
  | (e :: _) :: _ => recPtr x e
  | _ => 0

/-- Every pointer that a bucket's lists hold in records. -/
def bucketLinks (x : TileSt) : List (List DefEnt) → List (Tile × Nat × Nat × Nat × Nat)
  | [] => []
  | l :: r => listLinks x l (headPtr x r) ++ bucketLinks x r

/-- R108: a pointer of a record in a park-ring slot: off 0 NEXT, 1 TAIL, 2 CHAIN. -/
def putLink (s : State) (t slot off : Nat) (v : Nat) : State :=
  let a := parkSlot slot + (if off = 0 then 0x3E8 else 0x3F0)
  let w := leWord (physGet s t a 8)
  let lo := if off = 2 then 27 else 0
  let m : Word := BitVec.ofNat 64 ((2 ^ 27 - 1) * 2 ^ lo)
  physPut s t a (wBytes ((w &&& ~~~m) ||| w64 (v % 2 ^ 27 * 2 ^ lo)))

/-- A link update: written at once on the tile itself, on VC2 otherwise (R108). -/
def sendLink (s : State) (t charge slot off v : Nat) : State :=
  if charge = t then putLink s t slot off v else s.send t charge 2 (.link slot off (w64 v))

/-- The bucket head and the records' pointers follow a change of a bucket's lists. -/
def relink (s : State) (t b : Nat) (old : TileSt) : State :=
  let x := s.tile t
  let lo := bucketLists old b
  let ln := bucketLists x b
  let wasAt := bucketLinks old lo
  let s := if headPtr old lo = headPtr x ln then s else physPut s t (bucketBase + 4 * b) (leBytes 4 (headPtr x ln))
  (bucketLinks x ln).foldl (fun s (c, slot, n, tl, ch) =>
    let (pn, pt, pc) := match wasAt.find? (fun e => e.1 == c && e.2.1 == slot) with
      | some (_, _, n, tl, ch) => (n, tl, ch)
      | none => (0, 0, 0)
    let s := if n = pn then s else sendLink s t c slot 0 n
    let s := if tl = pt then s else sendLink s t c slot 1 tl
    if ch = pc then s else sendLink s t c slot 2 ch) s

/-- The list of the word at a vault-space offset, and the state with it replaced. -/
def defList (s : State) (t off : Nat) : List DefEnt := aget (s.tile t).deferred off []
def setDefList (s : State) (t off : Nat) (l : List DefEnt) : State :=
  let old := s.tile t
  let s := s.modTile t fun x => { x with deferred := if l.isEmpty then adel x.deferred off else aput x.deferred off l }
  relink s t (bucketOf off) old

/-- Table 6.2: the record's words, its pointers clear. CTX, which the table gives a meaning for a pinned waiter only, holds for an
unpinned one the number of the context that the thread has left (DESIGN CHOICE, log 111). -/
def kindBits : WKind → Nat | .take => 0 | .peek => 1 | .cwait => 2
def recordBytes (e : DefEnt) : List Byte :=
  wordsBytes [e.tgt, e.waddr, w64 (kindBits e.kind * 2 ^ 62 + b2n e.pin * 2 ^ 61 + e.ctx % 32 * 2 ^ 56 + e.dreg % 16 * 2 ^ 52 + 2 ^ 51), 0]

/-- R108, steps 1 and 2 at the charge tile: the record, and an unpinned waiter's pod, into the slot. A pinned thread has one slot:
a second record of it overwrites the first (DESIGN CHOICE, log 101). -/
def putRecord (s : State) (t : Tile) (e : DefEnt) (th : Option Thread) : State :=
  let a := parkSlot e.slot
  let s := physPut s t (a + 0x3D8) (recordBytes e)
  let dx := fld e.waddr 44 7
  let dy := fld e.waddr 51 6
  let s := match th with
    | some p => physPut (physPut s t a (podBytes p 0)) t (a + 1016) (wBytes (slotWord dx dy))
    | none => s
  let side := match th with | some p => sideOf p | none => ⟨none, false, none, e.slot, none⟩
  let ps : ParkSt := { side := side, waiting := some e, hasPod := th.isSome, refused := false, seq := s.reqNo }
  s.modTile t fun y => { y with park := aput y.park e.slot ps }

/-- R88, Table 5.3: a park-ring slot's word, whether the slot holds a pod, and the destination it names. An edited word that names a
destination outside the partition keeps its pod at the tile (DESIGN CHOICE, log 110; R2). -/
def parkWord (s : State) (t : Tile) (slot : Nat) : Word := leWord (physGet s t (parkSlot slot + 1016) 8)
def parkValid (s : State) (t : Tile) (slot : Nat) : Bool := bit (parkWord s t slot) 63
def parkDst (s : State) (t : Tile) (slot : Nat) : Tile :=
  if slotInside (s.tile t) (parkWord s t slot) then (s.tile t).at (fld (parkWord s t slot) 6 7) (fld (parkWord s t slot) 0 6) else t
/-- The slot word of a pod that is put in a slot (Table 5.3). -/
def putParkDst (s : State) (t : Tile) (slot : Nat) (dst : Tile) : State :=
  physPut s t (parkSlot slot + 1016) (wBytes (slotWord (relX (s.tile t) dst) (relY (s.tile t) dst)))
/-- A pod that stands in a slot gets a destination: the rest of its slot word stays. -/
def setParkDst (s : State) (t : Tile) (slot : Nat) (dst : Tile) : State :=
  let w := parkWord s t slot
  physPut s t (parkSlot slot + 1016) (wBytes (w - w64 (fld w 0 13) + w64 (fld (slotWord (relX (s.tile t) dst) (relY (s.tile t) dst)) 0 13)))
/-- The same, where it is another than the one that the pod has. -/
def moveParkDst (s : State) (t : Tile) (slot : Nat) (dst : Tile) : State :=
  if parkDst s t slot = dst then s else setParkDst s t slot dst
/-- R81, R82: the pod of a park-ring slot with the cause with which it will be installed frozen: that of the rules for an edited one, or
the one it came with. Its charge is the slot's tile's where the edited one lies outside the partition (R2, log 110). -/
def slotPod (s : State) (t : Tile) (slot : Nat) (sd : Side) : Thread × Option Cause :=
  let x := s.tile t
  let b := physGet s t (parkSlot slot) 672
  let th := podThread b sd
  let w := parkWord s t slot
  ( if th.cx.toNat < x.pw ∧ th.cy.toNat < x.phh then th else { th with cx := BitVec.ofNat 7 x.lx, cy := BitVec.ofNat 6 x.ly }
  , if podBad x b || slotReserved w || !slotInside x w then some .podFormat else sd.bad )
/-- A record leaves its slot (R109, R110). -/
def clearRecord (s : State) (t : Tile) (slot : Nat) : State :=
  let a := parkSlot slot + 0x3E8
  let w := leWord (physGet s t a 8)
  let s := physPut s t a (wBytes (w &&& ~~~(1#64 <<< 51)))
  s.modTile t fun y => match afind y.park slot with
    | some p => if p.hasPod then { y with park := aput y.park slot { p with waiting := none } } else { y with park := adel y.park slot }
    | none => y

/-- R108: the home links a waiter at the tail of the word's list and places its record. -/
def appendWaiter (s : State) (t off : Nat) (e : DefEnt) (th : Option Thread) : State :=
  let s := s.nextReq
  let s := if e.charge = t then putRecord s t e th else s.send t e.charge 2 (.waitDeposit e (th.map fun p => p.leaves s t e.charge))
  setDefList s t off (defList s t off ++ [e])

/-- R109: the wake of an entry. -/
def wakeEnt (t : Tile) (s : State) (e : DefEnt) (v : Option Word) : State := s.send t e.charge 4 (.wake e v)

/-- Table 6.1, GIVE on tag E: entries served from the head; whether a TAKE was reached, and the entries that stay. -/
def giveServe (t : Tile) (v : Word) : List DefEnt → State → State × Bool × List DefEnt
  | [], s => (s, false, [])
  | e :: r, s =>
    match e.kind with
    | .take => (wakeEnt t s e (some v), true, r)
    | .peek => giveServe t v r (wakeEnt t s e (some v))
    | .cwait => let (s, b, l) := giveServe t v r s; (s, b, e :: l)

/-- R117: an increment serves the CWAIT entries whose target is met. -/
def cwaitServe (s : State) (t off : Nat) (v : Word) : State :=
  let l := defList s t off
  let hit (e : DefEnt) : Bool := (e.kind == WKind.cwait) && decide (e.tgt.toNat ≤ v.toNat)
  if l.any hit then
    let s := (l.filter hit).foldl (fun s e => wakeEnt t s e none) s
    setDefList s t off (l.filter fun e => !hit e)
  else s

/-- R34: an atomic's page is checked for the write before the word is read; with it, what its access means for the windows it
touches where it changes nothing (04 R76). -/
def mayWrite (s : State) (t off n : Nat) : Except Trap (State × (State → State)) :=
  if off / 2 ^ 40 = 0 then
    match xlate s t (off % 2 ^ 40) aWrite with
    | .error c => .error { cause := c, touched := walkTouch s t (off % 2 ^ 40) }
    | .ok (s, x) => .ok (s, fun u => genWrite u t x.pa n)
  else .ok (s, id)
/-- R122: n bytes read and written at their home as a single step; where f gives no value the word is left as it is. -/
def rmwHome (s : State) (t off n : Nat) (f : Nat → Option Nat) : Except Trap (State × Nat) :=
  match mayWrite s t off n with
  | .error e => .error e
  | .ok (s, g) =>
    match readHome s t off n aRead with
    | .error e => .error e
    | .ok (s, b) =>
      match f (leNat b) with
      | some v =>
        match writeHome s t off (leBytes n (v % 2 ^ (8 * n))) aWrite with
        | .error e => .error e
        | .ok s => .ok (s, leNat b)
      | none => .ok (g s, leNat b)

/-- R117: after an increment at an offset, the waiters of its 8-byte word are served with the value it then holds. -/
def servedAt (s : State) (t off : Nat) : State :=
  if off / 2 ^ 40 = 0 then
    match readHome s t (off / 8 * 8) 8 aRead with
    | .ok (_, b) => cwaitServe s t (off / 8 * 8) (leWord b)
    | .error _ => s
  else s

/-- A number added to a word at its home. -/
def addHome (s : State) (t off n : Nat) : Except Trap State :=
  match rmwHome s t off 8 (fun m => some (m + n)) with
  | .error e => .error e
  | .ok (s, _) => .ok s
/-- R117: an increment of a counter at its home, with service of its waiters. -/
def incrHome (s : State) (t off n : Nat) : Except Trap State :=
  match addHome s t off n with
  | .error e => .error e
  | .ok s => .ok (servedAt s t off)

/-- What an operation at a word's home answers. -/
inductive SRes where
  | done
  | val (v : Word)
  | flag (b : Bool)
  | tried (v : Option Word)
  | waits (k : WKind) (tgt : Word)
  deriving DecidableEq, Repr

/-- The result of an atomic extended by R197. -/
def atomRead (ty : Ty) (old : Nat) : SRes := .val (extTy ty old)

/-- R107: a sync word's tag, kept under the word's number in memory. -/
def tagAt (s : State) (t pa : Nat) : Bool := s.full.contains (vKey t pa / 8)
def setTag (s : State) (t pa : Nat) (f : Bool) : State :=
  { s with full := if f then sadd s.full (vKey t pa / 8) else sdel s.full (vKey t pa / 8) }

/-- A sync-word operation sets a tag in the word's L2 line (R49) and counts as a write access (04 R76). -/
def tagWrite (s : State) (t : Tile) (x : Xl) (f : Bool) : State := genWrite (setTag (dirtyLines s t x.key x.pa 8) t x.pa f) t x.pa 8
/-- Table 6.1 for GIVE, R107: a poisoned word, or one whose error the read of its tag finds (R58), is cleared and its tag set to E
first. -/
def giveAt (s : State) (t off : Nat) (x : Xl) (v : Word) : State × SRes :=
  let bad := (poisonTrap s (vKey t x.pa) 8).isSome
  let was := tagAt s t x.pa && !bad
  let s := afterWrite (vaultWrite s t x.key x.pa (wBytes v)) t off 8 x.pa x.key
  if was then (s, .flag true)
  else
    let l := defList s t off
    let (s, taken, rest) := giveServe t v l s
    let s := if rest = l then s else setDefList s t off rest
    (setTag s t x.pa (!taken), .flag false)

/-- Sync-word operations at the home (Table 6.1). -/
def syncHome (s : State) (t off : Nat) (k : Acc) (f : State → Xl → Except Trap (State × SRes)) : Except Trap (State × SRes) :=
  match xlate s t off k with
  | .error c => .error { cause := c, touched := walkTouch s t off }
  | .ok (s, x) => f s x

/-- A sync word's arrays have left retention (R55). -/
def syncWake (s : State) (t : Tile) (x : Xl) : State := wakeArrays s t 0 x.pa 8 true
/-- A sync word read; poison met by the operation (Table 3.5). -/
def syncRead (s : State) (t : Tile) (x : Xl) : Except Trap (State × Word) :=
  match poisonTrap s (vKey t x.pa) 8 with
  | some tr => .error { tr with touched := [⟨t, 0, x.pa, 8, true⟩] }
  | none => .ok (syncWake s t x, leWord (vaultRead s t x.key x.pa 8))

/-- R240, Table 6.3: a binding of a word to a region. -/
def bindAt (s : State) (t : Tile) (b : Word × Word × Word) (add : Bool) : State × Bool :=
  let x := s.tile t
  if add then
    if x.binds.contains b then (s, true)
    else if x.binds.length < 64 then (s.setTile t { x with binds := x.binds ++ [b] }, true)
    else (s, false)
  else if x.binds.contains b then (s.setTile t { x with binds := x.binds.filter (· != b) }, true)
  else (s, false)

/-- 11 R225: an operation performed at a word's home, local offset off, as the instruction performs it there. -/
def homeOp (s : State) (t off : Nat) (op : MsgOp) : Except Trap (State × SRes) :=
  let v := off % 2 ^ 40
  let rmw (ty : Ty) (f : Nat → Option Nat) := rmwHome s t off (tyBits ty / 8) f
  match op with
  | .xadd ty b =>
    match rmw ty (fun m => some (m + b.toNat)) with
    | .error e => .error e
    | .ok (s, old) => .ok (servedAt s t off, atomRead ty old)
  | .xchg ty b =>
    match rmw ty (fun _ => some b.toNat) with
    | .error e => .error e
    | .ok (s, old) => .ok (s, atomRead ty old)
  | .cas ty d b =>
    match rmw ty (fun m => if m = d.toNat % 2 ^ tyBits ty then some b.toNat else none) with
    | .error e => .error e
    | .ok (s, old) => .ok (s, atomRead ty old)
  | .join =>
    match rmwHome s t off 8 (fun m => some (m + (2 ^ 64 - 1))) with
    | .error e => .error e
    | .ok (s, old) => .ok (s, .flag (w64 old == 1))
  | .take _ => syncHome s t v aSyncW fun s x =>
      match syncRead s t x with
      | .error e => .error e
      | .ok (s, w) => if tagAt s t x.pa then .ok (tagWrite s t x false, .val w) else .ok (s, .waits .take 0)
  | .tryt => syncHome s t v aSyncW fun s x =>
      match syncRead s t x with
      | .error e => .error e
      | .ok (s, w) => if tagAt s t x.pa then .ok (tagWrite s t x false, .tried (some w)) else .ok (genWrite s t x.pa 8, .tried none)
  | .peek _ => syncHome s t v aSyncR fun s x =>
      match syncRead s t x with
      | .error e => .error e
      | .ok (s, w) => if tagAt s t x.pa then .ok (s, .val w) else .ok (s, .waits .peek 0)
  | .give w => syncHome s t v aSyncW fun s x => .ok (giveAt (syncWake s t x) t v x w)
  | .sete => syncHome s t v aSyncW fun s x =>
      match syncRead s t x with
      | .error e => .error e
      | .ok (s, _) => .ok (tagWrite s t x false, .done)
  | .feq => syncHome s t v aSyncR fun s x =>
      match syncRead s t x with
      | .error e => .error e
      | .ok (s, _) => .ok (s, .flag (tagAt s t x.pa))
  | .bindR base len => syncHome s t v aSyncR fun s x =>
      match syncRead s t x with
      | .error e => .error e
      | .ok (s, _) =>
      let (s, b) := bindAt s t ((s.tile t).here v, base, len) true
      .ok (s, .flag b)
  | .unbindR base len => syncHome s t v aSyncR fun s x =>
      match syncRead s t x with
      | .error e => .error e
      | .ok (s, _) =>
      let (s, b) := bindAt s t ((s.tile t).here v, base, len) false
      .ok (s, .flag b)
  | .cwait tgt =>
    match readHome s t off 8 {} with
    | .error e => .error e
    | .ok (s, b) => if tgt.toNat ≤ leNat b then .ok (s, .done) else .ok (s, .waits .cwait tgt)
  | .ctest tgt =>
    match readHome s t off 8 {} with
    | .error e => .error e
    | .ok (s, b) => .ok (s, .flag (decide (tgt.toNat ≤ leNat b)))

/-- R110: the record of a thread leaves every list that holds it; a slot of the charge tile names it. -/
def unlinkSlot (s : State) (charge slot : Nat) (e : DefEnt) : State :=
  match resolve s charge true e.waddr aRead 8 with
  | .ok (.tile h off) =>
    let keep (f : DefEnt) : Bool := !(f.charge == charge && f.slot == slot)
    let s := setDefList s h off ((defList s h off).filter keep)
    clearRecord s charge slot
  | _ => clearRecord s charge slot

/-- The record of a pinned waiter, found by its context and request, is unlinked. -/
def unlinkReq (s : State) (charge slot : Nat) : State :=
  match afind (s.tile charge).park slot with
  | some p => match p.waiting with
    | some e => unlinkSlot s charge slot e
    | none => s
  | none => s

end Sys2Proof.Machine
end

