-- ==== Sys2Proof/Machine/Ops.lean ====
section
/-! DEFINITION. Sys2Proof/Machine/Ops.lean: the named operations on threads: retiring, pinning, migrating, waiting, ending,
and taking a fault (17 R358 to R371) with the return from it (R365). -/

namespace Sys2Proof.Machine

/-- Table 17.2. -/
def causeCode : Cause → Nat
  | .address => 0x01 | .partition => 0x02 | .viewWrite => 0x03 | .sysSpace => 0x04 | .unmapped => 0x05 | .table => 0x06
  | .protection => 0x07 | .syncPage => 0x08 | .revoked => 0x09 | .poison => 0x0A | .pinFetch => 0x0B | .illegal => 0x0C
  | .poolExec => 0x0D | .trap => 0x0E | .bkpt => 0x0F | .step => 0x10 | .supStop => 0x11 | .regParity => 0x12
  | .podFormat => 0x13 | .pane => 0x14 | .paneState => 0x15 | .paneBusy => 0x16 | .stream => 0x17 | .gang => 0x18
  | .gangStop => 0x19 | .port => 0x1A | .barrier => 0x1B | .sreg => 0x1C | .window => 0x1D | .mparam => 0x1E
  | .mgroup => 0x1F | .card => 0x20 | .cipher => 0x21 | .notVis => 0x22 | .footprint => 0x23 | .noScan => 0x24
  | .mdata => 0x25 | .noPlane => 0x26 | .mismatch => 0x27 | .group => 0x28 | .abort => 0x29 | .debugWin => 0x2A
  | .preemptWait => 0x2B | .record => 0x2C | .loadBand => 0x2D | .loadLane => 0x2E

/-- The violations of Table 17.2. -/
def isViol : Cause → Bool
  | .partition | .viewWrite | .sysSpace | .revoked | .debugWin => true
  | _ => false

/-- Job status causes (Tables 7.7 and 15.8). A cause with no code ends as ABORT (log 21). -/
def jobCode : Cause → Nat
  | .poison => 0x01 | .protection => 0x02 | .unmapped => 0x03 | .revoked => 0x04 | .footprint => 0x05 | .address => 0x06
  | .group => 0x07 | .mismatch => 0x08 | .cipher => 0x09 | .table => 0x0B | .notVis => 0x0C | .noScan => 0x0D
  | .trap => 0x0E | .illegal => 0x0F | .poolExec => 0x10 | .regParity => 0x11 | .partition => 0x12 | .viewWrite => 0x13
  | _ => 0x0A

/-- The job status cause of a Table 17.2 code. -/
def packetJob (n : Nat) : Nat :=
  match [Cause.poison, .protection, .unmapped, .revoked, .footprint, .address, .cipher, .table, .notVis, .noScan, .trap, .illegal,
      .poolExec, .regParity, .partition, .viewWrite].find? (fun c => causeCode c == n) with
  | some c => jobCode c
  | none => 0x0A

/-- Flags of a fault packet (Table 17.1). -/
structure PFlags where
  async : Bool := false
  defer : Bool := false
  qjob : Bool := false
  deriving DecidableEq, Repr

/-- Table 17.1: the eight words of a packet about context c of tile t. -/
def packetWords (s : State) (t c : Nat) (tr : Trap) (pc : Word) (iw : BitVec 96) (tid : BitVec 32) (fl : PFlags) (nest : Bool) :
    List Word :=
  let x := s.tile t
  let tub := decide (32 ≤ c)
  [ w64 (2 ^ 63 + b2n fl.async * 2 ^ 62 + b2n fl.defer * 2 ^ 61 + b2n tub * 2 ^ 60 + b2n (isViol tr.cause) * 2 ^ 59 +
      b2n nest * 2 ^ 58 + b2n fl.qjob * 2 ^ 57 + causeCode tr.cause * 2 ^ 48 + x.ly * 2 ^ 40 + x.lx * 2 ^ 32 +
      c % 32 * 2 ^ 24 + (x.seq + 1) % 2 ^ 24)
  , pc, iw.setWidth 64, w64 ((iw.toNat / 2 ^ 64) * 2 ^ 32 + tid.toNat), tr.addr, tr.syn, w64 (if tub then x.tcyc else x.lcyc)
  , w64 (x.pid * 2 ^ 32) ]

/-- R358, R360: where a tile's packets go: its block supervisor's tile, or the field firmware core. -/
def packetSite (s : State) (t c : Nat) : Nat :=
  let x := s.tile t
  if c = 30 ∨ c = 31 ∨ bit x.supv 63 = false then fwSite (fieldOf t) else x.at (fld x.supv 8 7) (fld x.supv 0 6)

/-- A packet counts at its tile and leaves on VC7 (R358; log 15). -/
def sendPacket (s : State) (t site : Nat) (ws : List Word) : State :=
  (s.modTile t fun x => { x with seq := x.seq + 1 }).send t site 7 (.faultPkt ws (s.tile t).pid false)

/-- R236, R370: a packet that freezes nothing. -/
def asyncPacket (s : State) (t c : Nat) (tr : Trap) (pc : Word) (iw : BitVec 96) (tid : BitVec 32) (fl : PFlags) : State :=
  sendPacket s t (packetSite s t c) (packetWords s t c tr pc iw tid fl false)

/-- R417: one word whose error an access has found is poisoned from then on. -/
def learnWord (s : State) (e : Nat × Bool) : State :=
  let here : State := { s with poison := sadd s.poison e.1, latent := sdel s.latent e.1 }
  match e.2, wordHome e.1 with
  | true, some (t, _, b) => (match afind (s.tile t).dirty (b / 128) with
    | some d => s.modTile t fun x =>
        { x with dirty := aput x.dirty (b / 128) { d with poison := sadd d.poison e.1, latent := sdel d.latent e.1 } }
    | none => here)
  | _, _ => here
/-- R417, R55: the words whose error an access has found are poisoned from then on, and the arrays that it has used have left
retention. -/
def learnPoison (s : State) (tr : Trap) : State := wakeAll (tr.newPoison.foldl learnWord s) tr.touched
/-- A trap as it is told to another unit, once its home has learnt of it: the address concerned, and no words left to learn. -/
def Trap.told (tr : Trap) (a : Word) : Trap := { tr with addr := a, newPoison := [], touched := [] }

-- Charges, contexts and notices.
/-- R86: the tile that a thread is charged to; one that an edited pod names outside the partition counts as the tile itself (log 110). -/
def chargeTile (s : State) (t : Tile) (th : Thread) : Tile :=
  if th.cx.toNat < (s.tile t).pw ∧ th.cy.toNat < (s.tile t).phh then (s.tile t).at th.cx.toNat th.cy.toNat else t
/-- R86: a charge ends; its slot is free again at its charge tile. -/
def releaseCharge (s : State) (t : Tile) (th : Thread) : State :=
  let ct := chargeTile s t th
  if ct = t then s.modTile t fun x => { x with slots := sdel x.slots th.slot }
  else s.send t ct 4 (.chargeRelease th.slot)
/-- R86: a tile that carries fewer than 4,128 charges takes one on its lowest slot (log 11) that no charge holds and no pod or
record still stands in. -/
def takeCharge (x : TileSt) : Option (Nat × TileSt) :=
  if 4128 ≤ x.slots.length then none
  else match lowestFree (x.park.foldl (fun l e => sadd l e.1) x.slots) 0 4128 with
    | some n => some (n, { x with slots := sadd x.slots n })
    | none => none
/-- R85: a context-free notice to the head of the notice list. -/
def sendNotice (s : State) (t : Tile) : State :=
  match (s.tile t).notices with
  | [] => s
  | o :: r => (s.modTile t fun x => { x with notices := r }).send t o 1 .freeNotice
/-- A context becomes free; a user context freed while the arrival ring is empty sends a notice (R85). -/
def freeCtx (s : State) (t c : Nat) : State :=
  let s := s.setCtx t c Ctx.free
  if c ≤ 29 ∧ (s.tile t).arrSides.isEmpty = true then sendNotice s t else s

/-- R165, R324: a thread that counts for a TUBER job has ended; cause is 0 when it exited. -/
def jobThreadEnd (s : State) (tj : Option (Nat × Nat)) (cause : Nat) : State :=
  match tj with
  | none => s
  | some (jt, no) => s.modTile jt fun x => { x with jobs := x.jobs.map fun j =>
      if j.order = no then
        { j with live := j.live - 1, cause := (if j.cause = 0 then cause else j.cause), finished := decide (j.live ≤ 1) }
      else j }

-- Pins.
/-- R281: the panes whose open stream the thread of a context holds. -/
def streamsOf (s : State) (t c : Nat) : List Nat :=
  ((s.tile t).panes.filter fun e => match e.2.stream with
    | some st => st.c == c && st.tid == (s.ctx t c).th.tid
    | none => false).map (·.1)
/-- R91, R367: whether the thread of a context is pinned. -/
def pinned (s : State) (t c : Nat) : Bool :=
  let x := s.ctx t c
  !(streamsOf s t c).isEmpty || (match x.gang with | .following _ _ _ => true | .leading _ => true | _ => false) || !x.pend.isEmpty ||
    (s.tile t).ports.any (fun e => e.2.owner == some c) || x.th.epin || x.th.apin || x.stepping

/-- R348: the running launch with a number; the number of the running launch of an index. -/
def Part.launchNo (p : Part) (no : Nat) : Option Launch :=
  match afind p.launches (no % 64) with
  | some l => if l.no = no then some l else none
  | none => none
def runNo (s : State) (pid li : Nat) : Option Nat :=
  match s.part pid with
  | some p => (afind p.launches li).map (·.no)
  | none => none
/-- R374: the launch that holds a tile against a launch of a partition. -/
def holder (s : State) (pid : Nat) (li : Option Nat) (h : Tile) : Option Launch :=
  match li, s.part pid with
  | some l, some p =>
    (p.launches.find? fun e => e.2.holds && (afind e.2.victims l).isSome && e.2.rect.has (h % 128 - p.x0) (h / 128 - p.y0)).map (·.2)
  | _, _ => none
/-- R91, R374: whether an access of a context to a home is carried out as a pinned thread's is. -/
def pinnedTo (s : State) (t c : Nat) (h : Tile) : Bool :=
  pinned s t c || (holder s (s.tile t).pid (s.ctx t c).th.launch h).isSome

/-- The tile of a list nearest to (x, y), ties to the lowest rank (R372); the list is in rank order. -/
def nearest (p : Part) (x y : Nat) : List Tile → Option Tile
  | [] => none
  | t :: r =>
    let d (t : Tile) : Nat := dist (t % 128 - p.x0) x + dist (t / 128 - p.y0) y
    match nearest p x y r with
    | some u => if d t ≤ d u then some t else some u
    | none => some t
/-- R372: the relocation map of a held rectangle for a victim launch, as the victim received it: its end leaves the map as it is. -/
def relocMap (p : Part) (l : Launch) (victim : Nat) (h : Tile) : Tile :=
  let out (t : Tile) : Bool := !l.rect.has (t % 128 - p.x0) (t / 128 - p.y0)
  let x := h % 128 - p.x0
  let y := h / 128 - p.y0
  let mine := match afind l.victims victim with | some r => p.rectTiles r | none => []
  match nearest p x y (mine.filter out) with
  | some t => t
  | none => (nearest p x y (p.tiles.filter out)).getD h
/-- R374: where a pod, wake or record bound for a tile goes. -/
def redirect (s : State) (pid : Nat) (li : Option Nat) (h : Tile) : Tile :=
  match holder s pid li h, li, s.part pid with
  | some l, some v, some p => relocMap p l v h
  | _, _, _ => h

-- The combining buffer (R96, R97).
/-- The home tile of a combining entry's target. -/
def combHome (s : State) (t : Tile) (e : CombEnt) : Tile := (s.tile t).at (fld e.addr 44 7) (fld e.addr 51 6)
/-- R96: the entries that a flush sends: those that a test picks, and for their homes the older ones, so that each home's leave in
the order they were created. -/
def flushPick (s : State) (t : Tile) (f : CombEnt → Bool) : List CombEnt → List CombEnt
  | [] => []
  | e :: r => if f e || r.any (fun g => f g && combHome s t g == combHome s t e) then e :: flushPick s t f r else flushPick s t f r
/-- R96: the entries that a test picks leave for their homes. -/
def flushWhere (s : State) (t : Tile) (f : CombEnt → Bool) : State :=
  let l := flushPick s t f (s.tile t).comb
  if l.isEmpty then s
  else
    let s := s.modTile t fun x => { x with comb := x.comb.filter fun e => !l.contains e }
    let homes := (l.map (combHome s t)).eraseDups
    homes.foldl (fun s h => s.send t h 3 (.flush (l.filter fun e => combHome s t e == h))) s
/-- Whether a thread contributed to an entry, from whichever context. -/
def contributes (tid : BitVec 32) (e : CombEnt) : Bool := e.who.any fun w => w.2.1 == tid
/-- R83: a context's entries leave. -/
def flushCtx (s : State) (t c : Nat) : State := flushWhere s t (contributes (s.ctx t c).th.tid)
/-- R105, R124: whether a request of a thread is still outstanding, wherever its thread stands. -/
def reqDue (s : State) (i : Nat) : Bool :=
  (s.tiles.any fun e => e.2.ctxs.any fun y => y.2.outs.any (fun o => o.id == i) || y.2.pend.any fun p => p.subs.any fun q => q.1 == i) ||
    s.left.any fun o => o.out.id == i
/-- R236: a context is released with writes of its thread outstanding: they stay with the thread. -/
def leaveOuts (s : State) (t c : Nat) : State :=
  let x := s.ctx t c
  { s with left := s.left ++ x.outs.map fun o => ⟨(s.tile t).pid, x.th.tid, o, x.relIds.contains o.id⟩ }
/-- R83, R105: a thread that is installed has its writes still outstanding, and its FENCE.rel waits for those it covered. -/
def takeOuts (s : State) (t c : Nat) : State :=
  let x := s.ctx t c
  let mine (o : LeftOut) : Bool := o.pid == (s.tile t).pid && o.tid == x.th.tid
  let l : List LeftOut := s.left.filter mine
  if l.isEmpty then s
  else
    let y : Ctx := { x with outs := l.map LeftOut.out, relIds := (l.filter LeftOut.rel).map fun o => (LeftOut.out o).id }
    ({ s with left := s.left.filter fun o => !mine o } : State).setCtx t c y
/-- R215: no destination pending, every entry flushed and every write acknowledged. -/
def drained (s : State) (t c : Nat) : Bool := (s.ctx t c).pend.isEmpty && (s.ctx t c).outs.isEmpty

-- Streams, ports and gangs.
/-- R282, steps 2 to 5: a stream ends; the contexts whose consumer claims still waited on the pane. -/
def closeStream (s : State) (t h : Nat) : State × List Nat :=
  let p := (s.tile t).pane h
  let waits := (p.claims.filter fun q => !q.prod).map (·.c)
  let p := { p with send := false, serr := false, cptr := 0, pptr := 0, ccur := 0, pcur := 0, slots := [], claims := [], stream := none }
  (s.modTile t fun x => x.setPane h p, waits)
/-- R162: a context's port claims end. -/
def freePorts (s : State) (t c : Nat) : State :=
  s.modTile t fun x => { x with ports := x.ports.map fun e => (e.1, if e.2.owner = some c then { e.2 with owner := none } else e.2) }
/-- R277, R161: followers go on at the instruction after their FOLLOW. -/
def releaseFollowers (s : State) (l : List Tile) : State :=
  l.foldl (fun s f => s.modCtx f 29 fun x =>
    match x.gang with
    | .following _ _ ret =>
      let x := { x with gang := .none, fq := [], stopReq := false, th := { x.th with pc := ret } }
      match x.st with
      | .ready | .running | .waiting => { x with st := .ready, wait := .none }
      | _ => x
    | _ => x) s
/-- R161: a member has stopped or ended; the others stop at their boundaries. -/
def gangStops (s : State) (t c : Nat) : State :=
  let stop (s : State) (t c : Nat) : State := s.modCtx t c fun x =>
    match x.st with
    | .ready | .running | .waiting => { x with stopReq := true }
    | _ => x
  match (s.ctx t c).gang with
  | .leading l => l.foldl (fun s f => stop s f 29) s
  | .following lt lc _ =>
    let s := stop s lt lc
    (match (s.ctx lt lc).gang with | .leading l => l | _ => []).foldl (fun s f => if f = t then s else stop s f 29) s
  | _ => s
/-- R276: reservations of a LEAD end; its tile serves it until it completes or faults. -/
def releaseLead (s : State) (t : Tile) (held : List Tile) : State :=
  let s := held.foldl (fun s f => s.modTile f fun x =>
    match x.leadRes with | some (l, _, _) => if l = t then { x with leadRes := none } else x | none => x) s
  { s with net := s.net.filter fun p => match p.body with
    | .lead _ _ _ _ => p.src != t
    | .leadRe _ _ => p.dst != t
    | _ => true }

/-- R110: a pinned waiter's request is withdrawn wherever it stands: on its way, in a handler queue or in its list. With all
false only requests that may wait in a list are (R366). -/
def withdrawReq (s : State) (t c id : Nat) (all : Bool := true) : State :=
  let mine (r : Req) : Bool := r.t == t && r.c == c && r.id == id
  let waits (o : MsgOp) : Bool := match o with | .take _ | .peek _ | .cwait _ => true | _ => all
  let isReq (p : Packet) : Bool := match p.body with
    | .msg r _ o => mine r && waits o
    | .bquery r _ | .spawnx r _ => mine r && all
    | .waitDeposit e _ => e.ctxTile == t && e.reqId == id && e.pin
    | _ => false
  let unq (x : TileSt) : TileSt := { x with hq := x.hq.filter fun p => !isReq p }
  let s := { s with net := (s.net.filter fun p => !isReq p), tiles := (s.tiles.map fun (e : Nat × TileSt) => (e.1, unq e.2)) }
  let same (e : DefEnt) : Bool := e.pin && e.ctxTile == t && e.ctx == c && e.reqId == id
  let lists := s.tiles.flatMap fun (e : Nat × TileSt) => (e.2.deferred.filter fun d => d.2.any same).map fun d => (e.1, d.1)
  let s := lists.foldl (fun s (h, off) => setDefList s h off ((defList s h off).filter fun e => !same e)) s
  let slots := s.tiles.flatMap fun (e : Nat × TileSt) => (e.2.park.filter fun d => match d.2.waiting with | some w => same w | none => false).map
    fun d => (e.1, d.1)
  slots.foldl (fun s (h, n) => clearRecord s h n) s

/-- R365, R369: what a waiting instruction holds is withdrawn; its PC is kept, and a bank operator's progress (15 R332). -/
def abandonWait (s : State) (t c : Nat) : State :=
  let s := if (s.tile t).leading = some c then s.modTile t fun x => { x with leading := none } else s
  match (s.ctx t c).wait with
  | .reply id => withdrawReq s t c id
  | .snapshot id => withdrawReq s t c id
  | .claim h _ _ _ _ => s.modTile t fun x =>
      x.setPane h { x.pane h with claims := (x.pane h).claims.filter fun q => q.c != c }
  | .lead l _ => releaseLead s t l
  | .bank => s.modCtx t c fun x => { x with tub := { x.tub with prog := x.tub.prog.filter fun p => 5 ≤ p.op } }
  | _ => s

-- Ending a thread.
/-- Where a save slot stands (15 R330, R331). -/
def saveSlot (held : Bool) (n : Nat) : Nat := (if held then heldBase else saveBase) + 2048 * n
/-- R86, R331: what a thread holds beside its context: its charge, or as a tuber thread, its held save slot. -/
def endHolds (s : State) (t c : Nat) (th : Thread) : State :=
  if c < 32 then releaseCharge s t th
  else match (s.ctx t c).tub.heldSlot with
    | some k => physPut s t (saveSlot true k + 2040) (wBytes 0)
    | none => s
/-- R366: a thread ends without EXIT's waits; the contexts whose claims its stream leaves with STREAM. -/
def killQuiet (s : State) (t c : Nat) : State × List Nat :=
  let x := s.ctx t c
  let s := abandonWait s t c
  let s := x.pend.foldl (fun s p => p.subs.foldl (fun s r => withdrawReq s t c r.1 false) s) s
  let (s, waits) := (streamsOf s t c).foldl (fun (e : State × List Nat) h =>
    let (s, l) := closeStream e.1 t h
    (s, e.2 ++ l)) (s, [])
  let s := freePorts s t c
  let s := match x.gang with
    | .leading l => releaseFollowers s l
    | .following lt lc _ =>
      (gangStops s t c).modCtx lt lc fun y => match y.gang with | .leading l => { y with gang := .leading (l.filter (· != t)) } | _ => y
    | _ => s
  let s := leaveOuts (endHolds s t c x.th) t c
  let cause := match x.tb1, x.tb0 with
    | some w, _ => some (fld (lget w 0 0) 48 8)
    | none, some w => some (fld (lget w 0 0) 48 8)
    | none, none => none
  let code := if x.st = .frozen ∨ x.st = .inService then
      match cause with
      | some n => packetJob n
      | none => 0x0A
    else 0x0A
  let s := jobThreadEnd s x.th.tjob code
  (freeCtx s t c, waits.filter (· != c))

/-- Table 17.6: the crash record of a third-level trap. -/
def crashRecord (s : State) (t : Tile) (ws : List Word) (tb0 tb1 : List Word) (cyc : Nat) : State :=
  let x := s.tile t
  let n := (x.ncr + 1) % 2 ^ 16
  let c (w : List Word) : Nat := fld (lget w 0 0) 48 8
  let bytes := wordsBytes (ws.take 5 ++ [w64 (c tb0 * 2 ^ 56 + c tb1 * 2 ^ 48), w64 cyc, w64 (n * 2 ^ 48)])
  physPut (s.modTile t fun x => { x with ncr := x.ncr + 1 }) t crashBase bytes

/-- R369: a fault of a context that holds both trap banks. The packet of the third fault goes to the field firmware core. -/
def thirdLevel (s : State) (t c : Nat) (ws : List Word) : State :=
  let x := s.ctx t c
  let s := s.modTile t fun y => { y with seq := y.seq + 1 }
  let s := crashRecord s t ws (x.tb0.getD []) (x.tb1.getD []) (if 32 ≤ c then (s.tile t).tcyc else (s.tile t).lcyc)
  if 32 ≤ c then
    let s := jobThreadEnd s x.th.tjob (packetJob (fld (lget ws 0 0) 48 8))
    let s := s.modCtx t c fun y => { y with th := { y.th with tjob := none } }
    (killQuiet s t c).1
  else
    let live := ((s.tile t).ctxs.filter fun e => decide (e.1 < 32) && e.2.st != .free).map (·.1)
    let s := live.foldl (fun s c => (killQuiet s t c).1) s
    (s.modTile t fun y => { y with ptr := 0 }).send t (fwSite (fieldOf t)) 7 (.faultPkt ws (s.tile t).pid true)

/-- R332, R287: the fault of a tuber context that runs an NCMD operator: it is freed and the reply carries the cause. -/
def ncmdFault (s : State) (t c : Nat) (tr : Trap) : State :=
  let x := s.ctx t c
  match (s.tile t).jobs.find? (fun j => j.ent == x.tub.jent) with
  | some j =>
    let r : Req := { t := t, c := j.c, id := j.req, tid := j.tid, pc := j.pc, iw := j.iw, priv := false, slot := 0, charge := t }
    freeCtx (s.send t t 4 (.ncmdRe r 0 (some tr))) t c
  | none => freeCtx s t c

/-- R358, R368: a context freezes with a cause: the packet of Table 17.1 is latched in a trap bank and sent, what it waited
for is withdrawn, and its gang stops (R161). The frozen PC is the one its thread holds. -/
def freeze (s : State) (t c : Nat) (tr : Trap) (pc : Word) (iw : BitVec 96) (fl : PFlags := {}) : State :=
  let s := learnPoison s tr
  let x := s.ctx t c
  if x.tub.isNcmd then ncmdFault s t c tr
  else
    let ws := packetWords s t c tr pc iw x.th.tid fl (x.tb0.isSome && x.tb1.isNone)
    if x.tb1.isSome then thirdLevel s t c ws
    else
      let s := abandonWait s t c
      let s := sendPacket s t (packetSite s t c) ws
      let s := s.modCtx t c fun x =>
        { x with st := .frozen, wait := .none, snap := none, stepping := false, stopReq := false, mig := none
                 gang := (if x.gang = .armed then .none else x.gang)
                 tb0 := if x.tb0.isSome then x.tb0 else some ws, tb1 := if x.tb0.isSome then some ws else x.tb1 }
      if tr.cause = .gangStop then s else gangStops s t c

/-- The claims that a closing stream leaves waiting raise STREAM at their own contexts (R282). -/
def streamFaults (s : State) (t : Nat) (l : List Nat) : State :=
  l.foldl (fun s c => freeze s t c { cause := .stream } (s.ctx t c).th.pc (s.ctx t c).iw) s
/-- R366. -/
def killCtx (s : State) (t c : Nat) : State := let (s, l) := killQuiet s t c; streamFaults s t l
/-- A stream closes. -/
def endStream (s : State) (t h : Nat) : State := let (s, l) := closeStream s t h; streamFaults s t l

/-- Taking a fault found by the executing context, precisely: state as before the instruction, its PC kept. -/
def takeFault (s : State) (tr : Trap) : State := freeze s s.cur.t s.cur.c tr s.th.pc s.cur.iw

/-- R368: RLS releases the newer held trap bank. -/
def releaseBank (x : Ctx) : Ctx := if x.tb1.isSome then { x with tb1 := none } else { x with tb0 := none }
/-- R365: the return from a fault: an in-service context becomes ready at its frame's PC. -/
def resumeCtx (s : State) (t c : Nat) (rls : Bool) : State :=
  s.modCtx t c fun x =>
    let x := if rls then releaseBank x else x
    { x with st := .ready, wait := .none }

-- Retiring.
/-- R92: PSPAN counts a retired instruction; at 0 the automatic pin ends. -/
def spanStep (th : Thread) : Thread :=
  if th.apin then
    if th.pspan.toNat ≤ 1 then { th with apin := false, pspan := 0 } else { th with pspan := th.pspan - 1 }
  else th
/-- R367: a context under STEP freezes when its instruction has retired. -/
def stepFreeze (s : State) (t c : Nat) : State :=
  if (s.ctx t c).stepping then freeze s t c { cause := .step } (s.ctx t c).th.pc 0 else s
/-- The next PC and the queue of a context whose instruction retires: a follower's come from its leader (R160). -/
def nextPc (x : Ctx) (pc : Word) : Word × List Fwd :=
  match x.gang, x.fq with
  | .following _ _ _, f :: r => (f.next, r)
  | _, l => (pc, l)
/-- An instruction of a context retires with the next PC. -/
def retireCtx (s : State) (t c : Nat) (pc : Word) : State :=
  stepFreeze (s.modCtx t c fun x =>
    { x with th := spanStep { x.th with pc := (nextPc x pc).1 }, fq := (nextPc x pc).2
             st := (if x.st = .waiting then .ready else x.st), wait := .none, snap := none, joined := none }) t c
/-- The executing instruction retires at PC + 12, or at a given PC. -/
def State.retire (s : State) : State := retireCtx s s.cur.t s.cur.c (s.th.pc + 12)
def State.retireAt (s : State) (pc : Word) : State := retireCtx s s.cur.t s.cur.c pc
/-- A waiting instruction of another context retires (its reply or grant has come). -/
def retireNext (s : State) (t c : Nat) : State := retireCtx s t c ((s.ctx t c).th.pc + 12)

-- Migration.
/-- R82, R92: the thread as its pod carries it from a tile to a destination. A relocation pod (kind 3) leaves BCNT as it is: it is
no bounce and resets none (DESIGN CHOICE, log 98). -/
def podOut (x : TileSt) (th : Thread) (dst : Tile) (kind : BitVec 2) : Thread :=
  let back := x.at th.ox.toNat th.oy.toNat == dst
  podLive { th with ox := BitVec.ofNat 7 x.lx, oy := BitVec.ofNat 6 x.ly, rel := (kind == 3), ret := false, parked := false
                    bcnt := (if kind = 3 then th.bcnt else if back then (if th.bcnt = 7 then 7 else th.bcnt + 1) else 0) }

/-- R82, R92: a pod's thread as it is installed. -/
def installTh (x : TileSt) (th : Thread) : Thread :=
  if x.bounceLim ≠ 0 ∧ th.bcnt.toNat = x.bounceLim then
    { th with apin := true, pspan := BitVec.ofNat 16 x.pinSpan, bcnt := 0 }
  else th

/-- A thread in a context, ready at its PC. -/
def Ctx.ofThread (th : Thread) (ok : Nat) : Ctx := { Ctx.free with st := .ready, th := th, nextOk := ok }

/-- The thread that a migrating context's pod carries: MIGR has retired, its predicate true (R231). -/
def podFor (s : State) (t : Tile) (x : Ctx) (m : Mig) (dst : Tile) : Thread :=
  let th := if m.kind = 1 then spanStep (wrP { x.th with pc := x.th.pc + 12 } (Fin.ofNat 8 m.pn) true) else x.th
  podOut (s.tile t) th dst m.kind

/-- R83: a packing context whose writes are all acknowledged sends its pod and is held. -/
def sendPod (s : State) (t c : Nat) : State :=
  let x := s.ctx t c
  match x.st, x.mig with
  | .packing, some m =>
    if x.outs.isEmpty && x.pend.isEmpty then
      let dst := redirect s (s.tile t).pid x.th.launch m.dst
      (s.setCtx t c { x with st := .held, mig := some { m with dst := dst } }).send t dst 0
        (.pod ((podFor s t x m dst).leaves s t dst) m.kind none none)
    else s
  | _, _ => s

/-- R80, R89: the thread begins to pack; its combining entries leave, and the pod once nothing is outstanding (R83). -/
def beginPack (s : State) (t c : Nat) (dst : Tile) (kind : BitVec 2) (pn : Nat) : State :=
  let s := flushCtx s t c
  sendPod (s.modCtx t c fun x => { x with st := .packing, wait := .none, mig := some ⟨dst, kind, pn, none, 0⟩ }) t c

-- EXIT.
/-- R282, step 1: a slot of a pane whose stream the thread holds is draining. -/
def streamDrains (s : State) (t c : Nat) : Bool :=
  (streamsOf s t c).any fun h => ((s.tile t).pane h).slots.any fun e => e.2 == .draining
/-- R215: the thread's streams close, and its port claims end. -/
def exitPanes (s : State) (t c : Nat) : State := freePorts ((streamsOf s t c).foldl (fun s h => endStream s t h) s) t c
/-- R215: the steps of EXIT after its waits. -/
def exitThread (s : State) (t c : Nat) : State :=
  let x := s.ctx t c
  let s := exitPanes s t c
  let s := match x.gang with
    | .leading l => releaseFollowers s l
    | _ => s
  let s := endHolds s t c x.th
  let s := jobThreadEnd s x.th.tjob 0
  freeCtx s t c

/-- R274, R282: the exit of a JOIN that has decremented its counter, once no slot of a stream that the thread holds is draining. -/
def exitAfter (s : State) (t c : Nat) : State :=
  if streamDrains s t c then s.modCtx t c fun x => { x with st := .waiting, wait := .retry, joined := some x.th.pc } else exitThread s t c

/-- What ends an instruction before it retires. -/
inductive Stop where
  | trap (tr : Trap)
  | wait (w : Wait)
  | migrate (dst : Tile) (kind : BitVec 2) (pn : Nat)
  | ret
  deriving DecidableEq, Repr

/-- R328: a return trap: the tuber thread is packed and awaits its place in the tile core. -/
def returnTrap (s : State) (t c : Nat) : State :=
  s.modCtx t c fun x => { x with st := .returning, wait := .none, tub := { Tub.zero with jent := x.tub.jent, heldSlot := x.tub.heldSlot } }

/-- The outcome of an instruction: its own next state, or the fault, wait, migration or return trap it meets, each from the
state before the instruction (R180). -/
def finish (s : State) (r : Except Stop State) : Host.Outcome State Fault Refusal :=
  match r with
  | .ok s' => .next s'
  | .error (.trap tr) => .next (takeFault s tr)
  | .error (.wait w) => .next (s.modMe fun c => { c with st := .waiting, wait := w })
  | .error (.migrate d k p) => .next (beginPack s s.cur.t s.cur.c d k p)
  | .error .ret => .next (returnTrap s s.cur.t s.cur.c)

/-- A check that raises a cause with the address concerned. -/
def guardE (ok : Bool) (c : Cause) (a : Word := 0) : Except Stop Unit := if ok then .ok () else .error (.trap { cause := c, addr := a })

end Sys2Proof.Machine
end

