-- ==== Sys2Proof/Machine/System.lean ====
section
/-! DEFINITION. Sys2Proof/Machine/System.lean: tile system space (02 R28, R29, R36): tile registers, format window registers
(04 R71, R72), matrix counters (14 R305), the physical vault window, and the debug window with its commands
(17 R362 to R368); and host reports (18 R383). -/

namespace Sys2Proof.Machine

-- Host reports.
/-- Table 18.3: a report to the partition's function and to the physical function, each with its own count. -/
def reportWords (kind cause pid : Nat) (seq : Nat) (pc addr : Word) (arg tx ty : Nat) : List Word :=
  [ w64 (kind * 2 ^ 56 + cause * 2 ^ 48 + pid % 64 * 2 ^ 32 + seq % 2 ^ 32), pc, addr, w64 (arg % 2 ^ 32 * 2 ^ 32 + tx * 2 ^ 8 + ty) ]
/-- R385: where record seq stands in the report ring of a virtual function, the first that the host has set up (log 91). -/
def reportPlace (p : Part) (seq : Nat) : Option Word :=
  (p.scs.find? fun c => decide (32 ≤ aget p.repSize c 0)).map fun c => aget p.repBase c 0 + w64 (32 * ((seq - 1) % (aget p.repSize c 0 / 32)))
/-- A record of a function, and its MSI-X message (R384), whose vector of 64 is a free value (log 91). -/
def reportOut (f kind : Nat) (ws : List Word) (place : Option Word) : List HostOut :=
  [HostOut.report f ws place, HostOut.msix f (Config.msixVector f kind % 64)]
/-- R383: a report to the physical function, and to the virtual function of its partition. -/
def hostReport (s : State) (toPart : Bool) (kind cause pid : Nat) (pc addr : Word) (arg tx ty : Nat) : State :=
  let s := match s.part pid with
    | some p => if toPart then
        { s.setPart { p with repSeq := p.repSeq + 1 } with
          out := s.out ++ reportOut pid kind (reportWords kind cause pid (p.repSeq + 1) pc addr arg tx ty) (reportPlace p (p.repSeq + 1)) }
      else s
    | none => s
  { s with pfSeq := s.pfSeq + 1, out := s.out ++ reportOut 64 kind (reportWords kind cause pid (s.pfSeq + 1) pc addr arg tx ty) none }

-- Matrix state words.
/-- Table 14.12. -/
def mxStateWord (m : Mx) : Word :=
  let tier (p : Option Plane) : Nat := match p with | some q => q.tier | none => 7
  w64 ((m.queue.length + b2n m.run.isSome) % 16 * 2 ^ 8 + b2n m.run.isSome * 2 ^ 7 + tier m.active * 2 ^ 4 + tier m.shadow)
/-- Table 14.13. -/
def provWord : Option Plane → Word
  | some p => w64 (p.wnd * 2 ^ 60 + p.nc * 2 ^ 53 + p.cstr * 2 ^ 26 + p.u0)
  | none => 0

-- Format window registers.
def winWord (w : Win) (k : Nat) : Word :=
  match k with
  | 0 => w64 (b2n w.en * 2 ^ 63 + b2n w.cerr * 2 ^ 62 + w.key.toNat * 2 ^ 54 + b2n w.scm * 2 ^ 53 + w.fmt.toNat * 2 ^ 48 + w.gen.toNat)
  | 1 => w64 w.src.toNat
  | 2 => w64 (w.nrow.toNat * 2 ^ 32 + w.rowlen.toNat)
  | 3 => w64 w.pitch.toNat
  | 4 => w64 w.scl.toNat
  | _ => 0
/-- R72: the checks of an enable. -/
def winOk (w : Win) : Bool :=
  let f := w.fmt.toNat
  decide (f ≤ 19) && decide (1 ≤ w.nrow.toNat) && decide (1 ≤ w.rowlen.toNat) && decide (w.units ≤ 2 ^ 26) &&
    (decide (w.nrow.toNat ≤ 1) || decide (w.rowbytes ≤ w.pitch.toNat)) && decide (w.srcEnd ≤ 2 ^ 30) &&
    (!fmtGraded f || w.scm) && (!(fmtInt f || f == 18 || f == 19) || !w.scm) &&
    (!w.scm || decide (w.scl.toNat + w.units ≤ 2 ^ 30))
/-- R72: a write to a window word, which is counted (14 R315); none when a reserved bit is set. -/
def winWrite (w : Win) (k : Nat) (v : Word) : Option Win :=
  let w := { w with writes := w.writes + 1 }
  match k with
  | 0 =>
    if fld v 58 4 ≠ 0 ∨ fld v 32 16 ≠ 0 then none
    else
      let w := { w with key := BitVec.ofNat 4 (fld v 54 4), scm := bit v 53, fmt := BitVec.ofNat 5 (fld v 48 5), gen := w.gen + 1 }
      some (if bit v 63 then (if winOk w then { w with en := true, cerr := false } else { w with en := false, cerr := true })
        else { w with en := false, cerr := false })
  | 1 => if fld v 30 34 ≠ 0 then none else some (if w.en then { w with cerr := true } else { w with src := BitVec.ofNat 30 v.toNat })
  | 2 => some (if w.en then { w with cerr := true }
      else { w with nrow := BitVec.ofNat 32 (fld v 32 32), rowlen := BitVec.ofNat 32 (fld v 0 32) })
  | 3 => if fld v 30 34 ≠ 0 then none else some (if w.en then { w with cerr := true } else { w with pitch := BitVec.ofNat 30 v.toNat })
  | 4 => if fld v 30 34 ≠ 0 then none else some (if w.en then { w with cerr := true } else { w with scl := BitVec.ofNat 30 v.toNat })
  | _ => some { w with writes := w.writes - 1 }
def writeWin (s : State) (t n k : Nat) (v : Word) : Except Cause State :=
  match winWrite ((s.tile t).win n) k v with
  | none => .error .sreg
  | some w => .ok (s.modTile t fun x => { x with wins := aput x.wins n w })

-- TLBI.
/-- R36, Table 2.8. -/
def tlbi (s : State) (t : Nat) (v : Word) : Except Cause State :=
  if fld v 41 23 ≠ 0 ∨ fld v 4 8 ≠ 0 then .error .sreg
  else if bit v 40 then .ok (s.modTile t fun x => { x with tlb := [] })
  else if 10 ≤ fld v 0 4 then .error .table
  else
    let sz := pageBytes (fld v 0 4)
    let base := fld v 12 28 * 4096 / sz * sz
    .ok (s.modTile t fun x => { x with tlb := x.tlb.filter fun e => !meets e.base e.size base sz })

-- The debug window.
def stateCode : CtxSt → Nat
  | .free => 0 | .ready => 1 | .running => 2 | .waiting => 3 | .packing | .held | .refused => 4 | .frozen => 5 | .inService => 6
  | .returning => 7 | .saving => 8
/-- Table 17.5. -/
def dstat (x : Ctx) : Word :=
  w64 (b2n x.preh * 2 ^ 7 + b2n x.stepping * 2 ^ 6 + (b2n x.tb0.isSome + b2n x.tb1.isSome) * 2 ^ 4 + stateCode x.st)
/-- Table 15.7. -/
def tubWords (u : Tub) : List Word :=
  [ u.sbase, w64 (u.idb.toNat * 2 ^ 32 + u.nrow), u.fbase, w64 (u.fval.toNat * 2 ^ 32 + u.fmask.toNat)
  , w64 (u.fhi.toNat * 2 ^ 32 + u.flo.toNat)
  , w64 (b2n u.so * 2 ^ 15 + b2n u.fa * 2 ^ 14 + b2n u.fne * 2 ^ 13 + u.tlist.length * 2 ^ 6)
  , w64 (b2n (u.prog.any fun p => decide (5 ≤ p.op)) * 2 ^ 13 + u.tcap * 2 ^ 6 + u.jent) ]
/-- R337: an entry of the top-k list. -/
def topWord (e : BitVec 16 × BitVec 32) : Word := w64 (e.2.toNat * 2 ^ 32 + e.1.toNat)
/-- R337: a sentinel entry. -/
def topNone : BitVec 16 × BitVec 32 := (BitVec.allOnes 16, BitVec.allOnes 32)
/-- An entry of the list as a frame shows it: above the count what a supervisor has written there, else a sentinel (log 82). -/
def topAt (u : Tub) (i : Nat) : BitVec 16 × BitVec 32 :=
  match u.tlist[i]? with
  | some e => e
  | none => aget u.spare i topNone
/-- The list with a count that a supervisor has written; entries that the count leaves out stay where they stand. -/
def topCount (u : Tub) (n : Nat) : Tub :=
  let cut : List (Nat × (BitVec 16 × BitVec 32)) :=
    ((List.range 64).filter fun i => decide (n ≤ i) && (decide (i < u.tlist.length) || (afind u.spare i).isSome)).map fun i => (i, topAt u i)
  { u with tlist := (List.range n).map (topAt u), spare := cut }
/-- The context that a debug offset names, and the offset in its frame. -/
def frameOf (k : Nat) : Nat × Nat := (if k < 0x10000 then k / 0x800 else 32 + (k - 0x10000) / 0x800, k % 0x800)
/-- Table 17.4: a word of a frame; what is not DSTAT reads zero unless the context is frozen or in service (R363). -/
def frameWord (x : Ctx) (f : Nat) : Word :=
  if f = 0x380 then dstat x
  else if x.st ≠ .frozen ∧ x.st ≠ .inService then 0
  else if f < 0xA0 then leWord (((podHead x.th 0).drop (f / 8 * 8)).take 8)
  else if f < 0x300 then leWord (((vBytes x.th.v[Fin.ofNat 8 ((f - 0x100) / 64)]).drop ((f - 0x100) % 64)).take 8)
  else if f < 0x340 then lget (x.tb0.getD []) ((f - 0x300) / 8) 0
  else if f < 0x380 then lget (x.tb1.getD []) ((f - 0x340) / 8) 0
  else if f = 0x388 then 0
  else if f = 0x390 then x.dtgt
  else if f < 0x500 then lget (tubWords x.tub) ((f - 0x400) / 8) 0
  else topWord (topAt x.tub ((f - 0x500) / 8))

/-- R365: a RELOCATE takes effect once no destination is pending: both banks are released and the thread packs. -/
def relocNow (s : State) (t c : Nat) (dst : Tile) : State :=
  beginPack (s.modCtx t c fun x => { x with tb0 := none, tb1 := none, preh := false, relocating := some dst }) t c dst 3 0

/-- R365: a command on a context. rls releases the newer trap bank. -/
def command (s : State) (t c cmd : Nat) (rls : Bool) : Except Cause State :=
  let x := s.ctx t c
  let stopped := x.st == .frozen || x.st == .inService
  match cmd with
  | 1 => if x.st = .frozen then .ok (s.modCtx t c fun x => { x with st := .inService }) else .error .debugWin
  | 2 => if x.st = .inService ∧ x.preh = false then .ok (resumeCtx s t c rls) else .error .debugWin
  | 3 => if x.st = .inService ∧ x.preh = false then
      .ok ((resumeCtx s t c rls).modCtx t c fun x => { x with stepping := true })
    else .error .debugWin
  | 4 => match x.st with
    | .ready | .running | .waiting => .ok (freeze s t c { cause := .supStop } x.th.pc 0)
    | .packing | .held => .ok (s.modCtx t c fun x => { x with stopReq := true })
    | .refused => .ok (freeze s t c { cause := .supStop } x.th.pc 0)
    | _ => .error .debugWin
  | 5 => if stopped then .ok (killCtx s t c) else .error .debugWin
  | 6 =>
    let y := s.tile t
    if !stopped || decide (32 ≤ c) || decide (fld x.dtgt 8 7 ≥ y.pw) || decide (fld x.dtgt 0 6 ≥ y.phh) then .error .debugWin
    else
      let dst := y.at (fld x.dtgt 8 7) (fld x.dtgt 0 6)
      if x.pend.isEmpty then .ok (relocNow s t c dst)
      else .ok (s.modCtx t c fun x => { x with relocating := some dst })
  | _ => .error .debugWin

/-- R363: an edit of the pod image of an in-service context; the fields that edits cannot change stay. -/
def editImage (th : Thread) (i : Nat) (v : Word) : Option Thread :=
  if i = 0 then (if bit v 60 then none else some { th with pc := w64 (fld v 0 58) })
  else if i = 1 then some th
  else if i = 2 then
    if fld v 54 10 ≠ 0 then none
    else some { th with apin := bit v 53, bcnt := BitVec.ofNat 3 (fld v 50 3)
                        p := (List.range 7).foldl (fun p i => p.set (Fin.ofNat 8 (i + 1)) (bit v (43 + i))) th.p
                        klive := BitVec.ofNat 3 (fld v 40 3), vlive := BitVec.ofNat 8 (fld v 32 8), hop := BitVec.ofNat 32 (fld v 0 32) }
  else if i = 3 then
    if fld v 48 16 ≠ 0 ∨ fld v 37 11 ≠ 0 ∨ fld v 18 14 ≠ 0 then none
    else some { th with fst := BitVec.ofNat 5 (fld v 32 5), rm := BitVec.ofNat 2 (fld v 16 2), pspan := BitVec.ofNat 16 (fld v 0 16) }
  else if i = 19 then
    if fld v 48 16 ≠ 0 then none
    else some { th with k := #v[0, BitVec.ofNat 16 (fld v 0 16), BitVec.ofNat 16 (fld v 16 16), BitVec.ofNat 16 (fld v 32 16)] }
  else some (wrGn th (i - 3) v)

/-- An edit of a tuber frame's scan state and list size; JENT stays. PROG written as 0 drops the operator's progress, and as 1
brings none about (log 82). -/
def editTub (u : Tub) (i : Nat) (v : Word) : Option Tub :=
  match i with
  | 0 => some { u with sbase := v }
  | 1 => some { u with idb := BitVec.ofNat 32 (fld v 32 32), nrow := fld v 0 32 }
  | 2 => some { u with fbase := v }
  | 3 => some { u with fval := BitVec.ofNat 32 (fld v 32 32), fmask := BitVec.ofNat 32 (fld v 0 32) }
  | 4 => some { u with fhi := BitVec.ofNat 32 (fld v 32 32), flo := BitVec.ofNat 32 (fld v 0 32) }
  | 5 =>
    if fld v 16 48 ≠ 0 ∨ fld v 0 6 ≠ 0 then none
    else
      some { topCount u (min (fld v 6 7) 64) with so := bit v 15, fa := bit v 14, fne := bit v 13 }
  | _ =>
    if fld v 14 50 ≠ 0 then none
    else some { u with tcap := min (fld v 6 7) 64, prog := if bit v 13 then u.prog else none }

/-- R363: a write of one word of a frame. -/
def frameWrite (s : State) (t c f : Nat) (v : Word) : Except Cause State :=
  let x := s.ctx t c
  if f = 0x380 ∧ fld v 8 56 ≠ 0 then .error .debugWin
  else if f = 0x388 then
    if fld v 5 59 ≠ 0 then .error .debugWin else command s t c (fld v 0 4) (bit v 4)
  else if f = 0x390 then
    if fld v 15 49 ≠ 0 ∨ fld v 6 2 ≠ 0 ∨ fld v 8 7 ≥ (s.tile t).pw ∨ fld v 0 6 ≥ (s.tile t).phh then .error .debugWin
    else .ok (s.modCtx t c fun x => { x with dtgt := v })
  else if x.st ≠ .inService then .error .debugWin
  else if f < 0xA0 then
    match editImage x.th (f / 8) v with
    | some th => .ok (s.modCtx t c fun x => { x with th := th })
    | none => .error .debugWin
  else if f < 0x300 then
    let r : V := Fin.ofNat 8 ((f - 0x100) / 64)
    let l := vBytes x.th.v[r]
    let o := (f - 0x100) % 64
    .ok (s.modCtx t c fun x => { x with th := wrV x.th r (bytesV (l.take o ++ wBytes v ++ l.drop (o + 8))) })
  else if f < 0x400 then .ok s
  else if f < 0x500 then
    match editTub x.tub ((f - 0x400) / 8) v with
    | some u => .ok (s.modCtx t c fun x => { x with tub := u })
    | none => .error .debugWin
  else if fld v 16 16 ≠ 0 then .error .debugWin
  else
    let e := (BitVec.ofNat 16 v.toNat, BitVec.ofNat 32 (fld v 32 32))
    let i := (f - 0x500) / 8
    .ok (s.modCtx t c fun x => { x with tub :=
      if i < x.tub.tlist.length then { x.tub with tlist := x.tub.tlist.set i e } else { x.tub with spare := aput x.tub.spare i e } })

/-- A park-ring slot is free again. -/
def freeSlot (s : State) (t slot : Nat) : State :=
  (physPut s t (parkSlot slot + 1016) (wBytes 0)).modTile t fun x => { x with park := adel x.park slot }

/-- R365: PSLOT, KILL or RELOCATE of the thread in a park-ring slot. -/
def pslot (s : State) (t : Nat) (v : Word) : Except Cause State :=
  let n := fld v 0 13
  let x := s.tile t
  let ok := fld v 31 33 == 0 && fld v 22 2 == 0 && decide (n < 4128) && bit (leWord (physGet s t (parkSlot n + 1016) 8)) 63
  match afind x.park n with
  | none => .error .debugWin
  | some p =>
    let pin := match p.waiting with | some e => e.pin | none => false
    if !ok || pin then .error .debugWin
    else
      let th := podThread (physGet s t (parkSlot n) 672) p.side
      let mine (q : Packet) : Bool := q.src == t && (match q.body with | .pod _ _ (some sl) _ => sl == (t, n) | _ => false)
      match fld v 13 3 with
      | 5 =>
        if fld v 24 7 ≠ 0 ∨ fld v 16 6 ≠ 0 then .error .debugWin
        else
          let s := match p.waiting with | some e => unlinkSlot s t n e | none => s
          let s := { s with net := s.net.filter fun q => !mine q }
          let s := (freeSlot s t n).modTile t fun x => { x with slots := sdel x.slots n }
          .ok (jobThreadEnd s th.tjob 0x0A)
      | 6 =>
        if fld v 24 7 ≥ x.pw ∨ fld v 16 6 ≥ x.phh then .error .debugWin
        else
          let dst := redirect s x.pid th.launch (x.at (fld v 24 7) (fld v 16 6))
          let s := match p.waiting with | some e => unlinkSlot s t n e | none => s
          let s := { s with net := s.net.filter fun q => !mine q }
          let s := physWake s t (parkSlot n) 1024
          let h := leWord (physGet s t (parkSlot n) 8)
          let s := physPut s t (parkSlot n) (wBytes (h ||| w64 (2 ^ 62 + 2 ^ 61 + 3 * 2 ^ 58)))
          let s := setParkDst s t n dst
          let (th, why) := slotPod s t n p.side
          let ps : ParkSt := { side := p.side, waiting := none, hasPod := true, refused := false, seq := p.seq }
          .ok ((s.modTile t fun x => { x with park := aput x.park n ps }).send t dst 0 (.pod (th.leaves s t dst) 3 (some (t, n)) why))
      | _ => .error .debugWin

/-- R363: whether a writer is the supervisor of the block of a tile. -/
def isSup (s : State) (w : Writer) (t : Nat) : Bool :=
  let x := s.tile t
  match w with
  | .ctx wt wc => wc == 30 && bit x.supv 63 && x.at (fld x.supv 8 7) (fld x.supv 0 6) == wt
  | _ => true
/-- R363: whether a writer may write FRB, FRC and FRD of a tile. -/
def isOwnSup (s : State) (w : Writer) (t : Nat) : Bool :=
  match w with
  | .ctx wt _ => isSup s w t && wt == t
  | _ => true

/-- One aligned word of system space, the physical window apart (Table 2.4). -/
def sysWord (s : State) (t o : Nat) : Word :=
  let x := s.tile t
  if o < 0x100 then
    match o / 8 with
    | 0 => x.prt | 8 => x.vtb | 9 => 0
    | k => if asBuilt s t then builtWord s t k else match k with
      | 1 => x.tco | 2 => x.npn | 3 => x.npe | 4 => x.nps | 5 => x.npw
      | k => lget x.scope (k - 16) 0
  else if o < 0x20000 then winWord (x.win ((o - 0x10000) / 0x100)) ((o - 0x10000) % 0x100 / 8)
  else if o < 0x100000 then
    let k := o - 0x20000
    if k < 0x30 then lget x.mx.rpc (k / 8) 0
    else match k / 8 with
      | 8 => x.mx.msat | 9 => x.mx.munf | 10 => x.mx.movf | 11 => x.mx.mcan | 16 => x.cecnt
      | 32 => mxStateWord x.mx | 33 => provWord x.mx.active | _ => provWord x.mx.shadow
  else
    let k := o - 0x100000
    if k < 0x18000 then let (c, f) := frameOf k; frameWord (s.ctx t c) f
    else match (k - 0x18000) / 8 with
      | 0 => x.supv | 1 => x.frb | 2 => x.frc | 3 => x.frd | 4 => x.flost | _ => 0

/-- R28, R29: bytes of system space at a tile; the physical vault window uses the vault's arrays (03 R55). -/
def sysRead (s : State) (t o n : Nat) : Except Trap (State × List Byte) :=
  if 0x40000000 ≤ o then
    let a := o - 0x40000000
    match poisonTrap s (vKey t a) n with
    | some tr => .error { tr with touched := [⟨t, 0, a, n, true⟩] }
    | none => .ok (wakeArrays s t 0 a n true, cgets s.mem (vKey t a) n)
  else
    let ws := (List.range ((o + n - 1) / 8 - o / 8 + 1)).map fun i => sysWord s t (8 * (o / 8 + i))
    .ok (s, ((wordsBytes ws).drop (o % 8)).take n)

/-- The reserved bits of PRT, TCO, the neighbour pointers and the scope entries, by word number (Tables 2.2, 2.9 to 2.11). -/
def tileReserved (k : Nat) (v : Word) : Bool :=
  match k with
  | 0 => fld v 54 10 != 0 || bit v 39 || fld v 15 17 != 0 || fld v 6 2 != 0
  | 1 => fld v 46 18 != 0 || bit v 39 || fld v 15 17 != 0 || fld v 6 2 != 0
  | 2 | 3 | 4 | 5 => fld v 46 17 != 0 || bit v 39 || fld v 16 16 != 0
  | _ => fld v 31 33 != 0 || fld v 22 2 != 0 || bit v 15 || fld v 6 2 != 0
/-- One aligned word written to system space, the physical window apart: the cause of a refusal, or the new state. Firmware's write
of a reserved bit to a register that only it writes is refused as one to VTB is (00 R9; log 83). -/
def sysWriteWord (s : State) (w : Writer) (t o : Nat) (v : Word) : Except Cause State :=
  let fw := w == .firmware
  let set (f : TileSt → TileSt) : Except Cause State := if fw then .ok (s.modTile t f) else .error .sysSpace
  let reg (k : Nat) (f : TileSt → TileSt) : Except Cause State :=
    if !fw then .error .sysSpace else if tileReserved k v then .error .sreg else .ok ((if k = 0 then s else builtTile s t).modTile t f)
  if o = 0x40 then
    if fld v 30 34 ≠ 0 ∨ fld v 1 12 ≠ 0 then .error .sreg else .ok (s.modTile t fun x => { x with vtb := v })
  else if o = 0x48 then tlbi s t v
  else if o < 0x100 then
    match o / 8 with
    | 0 => reg 0 fun x => { x with prt := v }
    | 1 => reg 1 fun x => { x with tco := v }
    | 2 => reg 2 fun x => { x with npn := v }
    | 3 => reg 3 fun x => { x with npe := v }
    | 4 => reg 4 fun x => { x with nps := v }
    | 5 => reg 5 fun x => { x with npw := v }
    | k => reg k fun x => if k = 16 ∨ k = 31 then x else { x with scope := x.scope.set (k - 16) v }
  else if o < 0x20000 then writeWin s t ((o - 0x10000) / 0x100) ((o - 0x10000) % 0x100 / 8) v
  else if o < 0x100000 then
    let k := o - 0x20000
    let mx (f : Mx → Mx) : Except Cause State := if v = 0 then set fun x => { x with mx := f x.mx } else .error .sysSpace
    if k < 0x30 then mx fun m => { m with rpc := m.rpc.set (k / 8) 0 }
    else match k / 8 with
      | 8 => mx fun m => { m with msat := 0 }
      | 9 => mx fun m => { m with munf := 0 }
      | 10 => mx fun m => { m with movf := 0 }
      | 11 => mx fun m => { m with mcan := 0 }
      | 16 => if v = 0 then set fun x => { x with cecnt := 0 } else .error .sysSpace
      | _ => set id
  else
    let k := o - 0x100000
    if !isSup s w t then .error .debugWin
    else if k < 0x18000 then let (c, f) := frameOf k; frameWrite s t c f v
    else
      let own (f : TileSt → TileSt) : Except Cause State := if isOwnSup s w t then .ok (s.modTile t f) else .error .debugWin
      match (k - 0x18000) / 8 with
      | 0 => if fld v 15 48 ≠ 0 ∨ fld v 6 2 ≠ 0 then .error .debugWin else if fw then .ok (s.modTile t fun x => { x with supv := v }) else .ok s
      | 1 => if fld v 0 6 ≠ 0 then .error .debugWin else own fun x => { x with frb := v }
      | 2 => if fld v 0 3 ≠ 0 then .error .debugWin else own fun x => { x with frc := v }
      | 3 => own fun x => { x with frd := v }
      | 4 => .ok s
      | _ => pslot s t v

/-- Words written to system space in rising order; one that is refused refuses the access whole. -/
def sysWriteWords (s : State) (w : Writer) (t o : Nat) : List Word → Except Cause State
  | [] => .ok s
  | v :: r => match sysWriteWord s w t o v with
    | .error c => .error c
    | .ok s => sysWriteWords s w t (o + 8) r
/-- R28: a write of n bytes to system space. A write that covers a word in part changes its bytes of the word (log 22). -/
def sysWrite (s : State) (w : Writer) (t o : Nat) (l : List Byte) : Except Cause State :=
  if 0x40000000 ≤ o then .ok (vaultWrite (wakeArrays s t 0 (o - 0x40000000) l.length true) t 0 (o - 0x40000000) l)
  else
    let n := (o + l.length - 1) / 8 - o / 8 + 1
    let old := wordsBytes ((List.range n).map fun i => sysWord s t (8 * (o / 8 + i)))
    sysWriteWords s w t (o / 8 * 8) (bytesWords n (old.take (o % 8) ++ l ++ old.drop (o % 8 + l.length)))
/-- R365: whether a command on a context has still to take effect on DSTAT. -/
def dcmdDue (s : State) (t c : Nat) : Bool :=
  let x := s.ctx t c
  match x.st with
  | .packing | .held => x.stopReq
  | .frozen | .inService => x.relocating.isSome
  | _ => false
/-- R365: the context whose DCMD the bytes at an offset of system space belong to. -/
def dcmdOf (o : Nat) : Option Nat :=
  let k := o - 0x100000
  if o < 0x100000 ∨ 0x114000 ≤ o then none
  else if (frameOf k).2 / 8 = 0x71 then some (frameOf k).1 else none

/-- R28, R364: a refused write of firmware or of the host's debug path is reported to the host driver (log 23); at a tile of no
partition to the physical function alone, with the PID 63 of R383. -/
def refuseReport (s : State) (t : Nat) (c : Cause) (addr : Word) : State :=
  let x := s.tile t
  match s.partOf t with
  | some p => hostReport s true 1 (causeCode c) p.pid 0 addr 0 x.lx x.ly
  | none => hostReport s false 1 (causeCode c) 63 0 addr 0 x.lx x.ly

/-- A refused system-space write: a context takes the fault, another writer's is reported. -/
def refuseWrite (s : State) (w : Writer) (t o : Nat) (c : Cause) : State :=
  match w with
  | .ctx wt wc => freeze s wt wc { cause := c, addr := (s.tile t).here (3 * 2 ^ 40 + o) } (s.ctx wt wc).th.pc (s.ctx wt wc).iw
  | _ => refuseReport s t c ((s.tile t).here (3 * 2 ^ 40 + o))
/-- A system-space or debug write by one of its writers, as one step. -/
def writerStep (s : State) (w : Writer) (t o : Nat) (l : List Byte) : State :=
  match sysWrite s w t o l with
  | .ok s => s
  | .error c => refuseWrite s w t o c

end Sys2Proof.Machine
end

