-- ==== Sys2Proof/Machine/Remote.lean ====
section
/-! DEFINITION. Sys2Proof/Machine/Remote.lean: where a thread's access is performed (11 R225 to R227): at its home at once,
by a request on VC3 with a pending destination or an outstanding write, at the edge, or in system space. -/

namespace Sys2Proof.Machine

/-- R28: only c30 is privileged. -/
def priv (s : State) : Bool := s.cur.c == 30

/-- R26 and R121 for an access of n bytes by the executing context: every piece at one home. Where only the last byte fails R26 the
fault names that byte (DESIGN CHOICE, log 84). -/
def homeFor (s : State) (va : Word) (k : Acc) (n : Nat) : Except Stop Home :=
  match resolve s s.cur.t (priv s) va k n with
  | .error e => .error (.trap e)
  | .ok h =>
    if n ≤ 1 then .ok h
    else match resolve s s.cur.t (priv s) (va + w64 (n - 1)) k 1, h with
      | .error e, _ => .error (.trap e)
      | .ok (.edge _), .edge _ => .ok h
      | .ok (.tile u _), .tile v _ => if u = v then .ok h else .error (.trap { cause := .address, addr := va })
      | _, _ => .error (.trap { cause := .address, addr := va })

/-- The pieces of an access as local offsets of its home. -/
def localPieces (va : Word) (n : Nat) : List (Nat × Nat) := (pieces va 5 n).map fun p => (fld p.1 0 44, p.2)
/-- Data split over pieces. -/
def splitData : List (Nat × Nat) → List Byte → List (Nat × List Byte)
  | [], _ => []
  | (a, n) :: r, l => (a, l.take n) :: splitData r (l.drop n)

/-- R28: whether a local offset lies in system space. -/
def inSys (off : Nat) : Bool := off / 2 ^ 40 == 3

/-- The request that a packet on VC3 carries for one context. -/
def Body.asks : Body → Option Req
  | .get r _ | .put r _ _ | .putc r _ _ _ _ | .msg r _ _ | .bquery r _ | .spawnx r _ => some r
  | _ => none
/-- R104, R28: an access to the system space of another tile is performed after the thread's earlier requests to that home, which it
waits for here. -/
def sysGate (s : State) (h : Tile) (off : Nat) : Except Stop Unit :=
  let mine (p : Packet) : Bool := p.src == s.cur.t && p.dst == h &&
    (match p.body.asks with | some r => r.c == s.cur.c && r.tid == s.th.tid | none => false)
  if inSys off && h != s.cur.t && (s.inNet mine || (s.tile h).hq.any mine) then .error (.wait .retry) else .ok ()
/-- A read of n bytes performed at a home by one thread. -/
def readAt (s : State) (h : Tile) (va : Word) (n : Nat) : Except Stop (State × List Byte) :=
  let r := if inSys (fld va 0 44) then sysRead s h (fld va 0 40) n
    else readPieces s h aRead (localPieces va n)
  match r with
  | .ok x => .ok x
  | .error e => .error (.trap { e with addr := va })
/-- A write performed at a home by one thread. -/
def writeAt (s : State) (h : Tile) (va : Word) (l : List Byte) : Except Stop State :=
  if inSys (fld va 0 44) then
    match sysWrite s (.ctx s.cur.t s.cur.c) h (fld va 0 40) l with
    | .ok s => .ok s
    | .error c => .error (.trap { cause := c, addr := va })
  else
    match writePieces s h aWrite (splitData (localPieces va l.length) l) with
    | .ok s => .ok s
    | .error e => .error (.trap { e with addr := va })

/-- The request that the executing thread makes, with a new number. -/
def mkReq (s : State) : Req :=
  { t := s.cur.t, c := s.cur.c, id := s.reqNo, tid := s.th.tid, pc := s.th.pc, iw := s.cur.iw, priv := priv s, slot := s.th.slot
    charge := chargeTile s s.cur.t s.th }
/-- A destination becomes pending (R226). -/
def addPend (s : State) (dest : Dest) (subs : List (Nat × List Nat)) (addrs : List (Word × Nat)) : State :=
  s.modMe fun c => { c with pend := c.pend ++ [{ dest := dest, subs := subs, addrs := addrs, pc := c.th.pc, iw := s.cur.iw, bad := none }] }
/-- A write becomes outstanding (R105). -/
def addOut (s : State) (id : Nat) (va : Word) (n : Nat) : State :=
  s.modMe fun c => { c with outs := c.outs ++ [{ id := id, addr := va, len := n, pc := c.th.pc, iw := s.cur.iw, lane := none }] }
/-- A lane of a scattered store becomes outstanding (R234). -/
def addLane (s : State) (id : Nat) (va : Word) (grp lane : Nat) : State :=
  s.modMe fun c => { c with outs := c.outs ++ [{ id := id, addr := va, len := 4, pc := c.th.pc, iw := s.cur.iw, lane := some (grp, lane) }] }
/-- The site of a home on the network: a tile, or the tile's spoke for the channel of an edge offset (R56, R98, 01 R17). -/
def siteOf (s : State) : Home → Nat
  | .tile h _ => h
  | .edge o => ioSite s.cur.t (match s.part (s.tile s.cur.t).pid with | some p => (edgePlace p.chans o).1 | none => 0)

/-- A read request of a thread: GET on VC3, or an edge request. -/
def sendGet (s : State) (h : Home) (va : Word) (n : Nat) : State × Nat :=
  let r := mkReq s
  let ps := pieces va 5 n
  let b : Body := match h with | .tile _ _ => .get r ps | .edge _ => .edge r ps none none
  (s.nextReq.send s.cur.t (siteOf s h) 3 b, r.id)
/-- A write request of a thread: PUT or PUTC on VC3, or an edge request; it stays outstanding. -/
def sendPut (s : State) (h : Home) (va : Word) (l : List Byte) (cnt : Option (Word × Nat)) : State :=
  let r := mkReq s
  let ps := pieces va 5 l.length
  let b : Body := match h, cnt with
    | .tile _ _, none => .put r ps l
    | .tile _ _, some (c, n) => .putc r ps l c n
    | .edge _, c => .edge r ps (some l) c
  addOut (s.nextReq.send s.cur.t (siteOf s h) 3 b) r.id va l.length

/-- R115: a FENCE.rel still holds later writes back. -/
def relHeld (s : State) : Bool :=
  let x := s.me
  x.relIds.any fun i => x.outs.any (fun o => o.id == i) || x.pend.any fun p => p.subs.any fun q => q.1 == i
def relGate (s : State) : Except Stop Unit := if relHeld s then .error (.wait .retry) else .ok ()

/-- R228: bytes read into a g register, or a pair. -/
def loadDest (th : Thread) (ty : Ty) (d : G) (l : List Byte) : Thread :=
  if ty = .u128 then wrGn (wrG th d (leWord (l.take 8))) (d.val + 1) (leWord (l.drop 8))
  else wrG th d (extTy ty (leNat l))
def destOf (ty : Ty) (d : G) : Dest := if ty = .u128 then .pair d.val else .g d.val ty
/-- R228: the bytes that a store takes from D. -/
def storeBytes (th : Thread) (ty : Ty) (d : G) : List Byte :=
  if ty = .u128 then wBytes (rdG th d) ++ wBytes (rdGn th (d.val + 1)) else leBytes (tyBits ty / 8) (rdG th d).toNat

-- The tuber level (15 R249, R326).
/-- Whether n bytes at an address lie inside a region. -/
def inRegion (va : Word) (n : Nat) (g : Region) : Bool :=
  decide (g.base.toNat ≤ va.toNat) && decide (va.toNat + n ≤ g.base.toNat + g.len)
/-- The job of a tuber context. -/
def tubJob (s : State) (t c : Nat) : Option Job := (s.tile t).jobs.find? fun j => j.ent == (s.ctx t c).tub.jent
/-- R326: the footprint check. An access lies inside the footprint where one region holds it whole; one that only two abutting regions
hold together does not (DESIGN CHOICE, log 108). -/
def footprintOk (s : State) (t c : Nat) (va : Word) (n : Nat) (wr : Bool) : Bool :=
  match tubJob s t c with
  | some j => (j.wr ++ if wr then [] else j.rd).any (inRegion va n)
  | none => false
/-- A tuber access: return trap unless the home is the tile's own vault space; footprint; then R34. -/
def tubHome (s : State) (va : Word) (k : Acc) (n : Nat) : Except Stop Unit :=
  match homeFor s va k n with
  | .ok (.tile h off) =>
    if h ≠ s.cur.t ∨ off / 2 ^ 40 ≠ 0 ∨ 2 ^ 40 < off + n then .error .ret
    else guardE (footprintOk s s.cur.t s.cur.c va n k.write) .footprint va
  | _ => .error .ret
/-- R320: an operator that makes no access retires, and its context waits until it completes. -/
def bankRetire (s : State) : State :=
  let s := s.retire
  s.modMe fun c => if c.st = .running then { c with st := .waiting, wait := .bank } else c

/-- R320, R327: a tuber access or bank operator begins: its context waits until its accesses have been granted. -/
def beginOp (s : State) (p : OpProg) : State :=
  s.modMe fun c => { c with st := .waiting, wait := .bank
                            tub := { c.tub with prog := some { p with pc := c.th.pc, asked := (s.tile s.cur.t).tcyc } } }
/-- R365: a store to DCMD retires once its effect on DSTAT has taken place. -/
def retireStore (s : State) (h : Tile) (off : Nat) : State :=
  match (if inSys off then dcmdOf (off % 2 ^ 40) else none) with
  | some c => if dcmdDue s h c then s.modMe fun y => { y with st := .waiting, wait := .dcmd h c } else s.retire
  | none => s.retire

-- The constant cache (03 R54).
/-- Whether n bytes lie within the argument block of a launch that runs. -/
def inArgs (l : Launch) (va : Word) (n : Nat) : Bool :=
  l.args != 0 && decide (l.args.toNat ≤ va.toNat) && decide (va.toNat + n ≤ l.args.toNat + l.argsz)
/-- R54: bytes of the argument block of the executing thread's launch, where the tile's constant cache holds all their words;
it is keyed by the number of the 8-byte word. -/
def constRead (s : State) (va : Word) (n : Nat) : Option (List Byte) :=
  let x := s.tile s.cur.t
  let l := match s.th.launch, s.part x.pid with
    | some no, some p => p.launchNo no
    | _, _ => none
  match l with
  | none => none
  | some l =>
    let ws := if n = 0 ∨ inArgs l va n = false then [] else wordsOf va.toNat n
    if !ws.isEmpty && ws.all fun w => (afind x.ccache w).isSome then
      some (((wordsBytes (ws.map fun w => (aget x.ccache w (0, 0)).1)).drop (va.toNat % 8)).take n)
    else none
/-- R54: a word of a running launch's argument block enters a tile's constant cache from its home. -/
def constFill (s : State) (t w : Nat) : State :=
  let x := s.tile t
  let va := w64 (8 * w)
  let runs := match s.part x.pid with | some p => p.launches.any fun e => inArgs e.2 va 8 | none => false
  if runs then
    match resolve s t false va aRead 8 with
    | .ok (.tile h off) => (match readHome s h off 8 aRead with
      | .ok (s, l) => keepConst s t w (leWord l) 0
      | .error _ => s)
    | _ => s
  else s

/-- Table 11.2, LD and GET: mig tells whether the instruction migrates. -/
def loadOp (s : State) (mig : Bool) (ty : Ty) (d : G) (va : Word) : Except Stop State :=
  let n := tyBits ty / 8
  if s.onTuber then
    match tubHome s va tubR n with
    | .error e => .error e
    | .ok _ => .ok (beginOp s ⟨0, 0, va, 0, 0, 0, n, 0, [], destOf ty d, 0⟩)
  else
    match homeFor s va aRead n with
    | .error e => .error e
    | .ok (.edge o) =>
      let (s, id) := sendGet s (.edge o) va n
      .ok (addPend s (destOf ty d) [(id, [])] [(va, n)]).retire
    | .ok (.tile h off) =>
      match constRead s va n with
      | some l => .ok (s.modTh fun th => loadDest th ty d l).retire
      | none =>
      if h = s.cur.t ∨ inSys off = true then
        match sysGate s h off, readAt s h va n with
        | .error e, _ => .error e
        | _, .error e => .error e
        | _, .ok (s, l) => .ok (s.modTh fun th => loadDest th ty d l).retire
      else if mig = false ∨ pinnedTo s s.cur.t s.cur.c h = true then
        let (s, id) := sendGet s (.tile h off) va n
        .ok (addPend s (destOf ty d) [(id, [])] [(va, n)]).retire
      else .error (.migrate h 0 0)

/-- Table 11.2, ST and PUT. -/
def storeOp (s : State) (mig : Bool) (va : Word) (l : List Byte) : Except Stop State :=
  if s.onTuber then
    match tubHome s va tubW l.length with
    | .error e => .error e
    | .ok _ => .ok (beginOp s ⟨0, 1, va, 0, 0, 0, l.length, 0, l.map (·.toNat), .none, 0⟩)
  else
    match homeFor s va aWrite l.length, relGate s with
    | .error e, _ => .error e
    | _, .error e => .error e
    | .ok (.edge o), _ => .ok (sendPut s (.edge o) va l none).retire
    | .ok (.tile h off), _ =>
      if h = s.cur.t ∨ inSys off = true then
        match sysGate s h off, writeAt s h va l with
        | .error e, _ => .error e
        | _, .error e => .error e
        | _, .ok s => .ok (retireStore s h off)
      else if mig = false ∨ pinnedTo s s.cur.t s.cur.c h = true then .ok (sendPut s (.tile h off) va l none).retire
      else .error (.migrate h 0 0)

/-- R230: a counter address: an 8-byte aligned vault-space address inside the partition. -/
def vaultAddr (s : State) (t : Tile) (align : Nat) (va : Word) : Bool :=
  let x := s.tile t
  decide (va.toNat % align = 0) && decide (fld va 57 7 = 0) && decide (fld va 44 7 < x.pw) && decide (fld va 51 6 < x.phh) &&
    decide (fld va 40 4 = 0)
/-- The tile that an address inside the partition names. -/
def tileOf (s : State) (t : Tile) (va : Word) : Tile := (s.tile t).at (fld va 44 7) (fld va 51 6)

/-- R95: the increment leaves for the counter's home on VC4; it serves the counter's waiters there (R117). -/
def sendIncr (s : State) (src t : Nat) (r : Option Req) (cnt : Word) (n : Nat) : State :=
  s.send src (tileOf s t cnt) 4 (.incr r cnt n true)
/-- R50: the increment of a PREF, which is none of those that serve the counter's waiters (06 R117; log 79). -/
def sendPrefIncr (s : State) (t : Nat) (r : Req) (cnt : Word) (n : Nat) : State :=
  s.send t (tileOf s t cnt) 4 (.incr (some r) cnt n false)

end Sys2Proof.Machine
end

