-- ==== Sys2Proof/Machine/Atomics.lean ====
section
/-! DEFINITION. Sys2Proof/Machine/Atomics.lean: atomics, major 0x24 (11 R235 to R238), and the combining buffer's entries
(05 R96). -/

namespace Sys2Proof.Machine

/-- R235: the checks on the address of an atomic of n bytes: alignment, vault or pane space. -/
def atomHome (s : State) (va : Word) (n : Nat) : Except Stop (Tile × Nat) :=
  match homeFor s va aWrite 1, guardE (decide (va.toNat % n = 0)) .address va with
  | .error e, _ => .error e
  | _, .error e => .error e
  | .ok (.tile h off), _ => if off / 2 ^ 40 = 3 then .error (.trap { cause := .address, addr := va }) else .ok (h, off)
  | .ok (.edge _), _ => .error (.trap { cause := .address, addr := va })

/-- Table 11.5: an operation on an n-bit word; floats by R237. -/
def atomFn (op : AtomOp) (ty : Ty) (m d : Nat) : Nat :=
  let n := tyBits ty
  match op with
  | .add => (m + d) % 2 ^ n
  | .fadd => (faddV (tyFmt ty) .rne (fdec (tyFmt ty) m) (fdec (tyFmt ty) d)).1
  | .min => if valTy ty (w64 m) ≤ valTy ty (w64 d) then m else d
  | .max => if valTy ty (w64 m) ≤ valTy ty (w64 d) then d else m
  | .and => m &&& d
  | .or => m ||| d
  | .xor => m ^^^ d

/-- R96: a contribution of the executing context. -/
def contrib (s : State) : Nat × BitVec 32 × Word × BitVec 96 := (s.cur.c, s.th.tid, s.th.pc, s.cur.iw)
/-- R96: the list with its newest entry for an address changed; none when there is none or it does not merge. -/
def mergeComb (op : AtomOp) (ty : Ty) (va v : Word) (w : Nat × BitVec 32 × Word × BitVec 96) : List CombEnt → Option (List CombEnt × Nat)
  | [] => none
  | e :: r =>
    match mergeComb op ty va v w r with
    | some (r, i) => some (e :: r, i)
    | none =>
      if r.any (fun f => f.addr == va) then none
      else if e.addr = va ∧ e.op = op ∧ e.ty = ty ∧ op ≠ .fadd then
        let who := if e.who.any (fun x => x.1 == w.1 && x.2.1 == w.2.1) then e.who else e.who ++ [w]
        some ({ e with val := w64 (atomFn op ty e.val.toNat v.toNat), who := who } :: r, e.id)
      else none

/-- R227, step 4: the translation and the checks of R34 of a vault-space access at a local home. -/
def localCheck (s : State) (h : Tile) (off : Nat) (k : Acc) (va : Word) : Except Stop Unit :=
  if h = s.cur.t ∧ off / 2 ^ 40 = 0 then
    match xlate s h (off % 2 ^ 40) k with
    | .error c => .error (.trap { cause := c, addr := va, touched := walkTouch s h (off % 2 ^ 40) })
    | .ok _ => .ok ()
  else .ok ()
/-- R227: the checks of an atomic at issue: its address, and its page where the home is local. -/
def atomCheck (s : State) (va : Word) (n : Nat) : Except Stop (Tile × Nat) :=
  match atomHome s va n with
  | .error e => .error e
  | .ok (h, off) => match localCheck s h off aWrite va with
    | .error e => .error e
    | .ok _ => .ok (h, off)
/-- R236: a fire-and-forget atomic enters the combining buffer and retires. -/
def atomOp (s : State) (op : AtomOp) (ty : Ty) (d : G) (va : Word) : Except Stop State :=
  match atomCheck s va (tyBits ty / 8), relGate s with
  | .error e, _ => .error e
  | _, .error e => .error e
  | .ok _, _ =>
    let t := s.cur.t
    let v := w64 ((rdG s.th d).toNat % 2 ^ tyBits ty)
    match mergeComb op ty va v (contrib s) (s.tile t).comb with
    | some (l, i) =>
      let s1 := s.modTile t fun x => { x with comb := l }
      .ok (if s.me.outs.any fun o => o.id == i then s1 else addOut s1 i va (tyBits ty / 8)).retire
    | none =>
      let s1 := match (s.tile t).comb with
        | e :: _ => if 32 ≤ (s.tile t).comb.length then flushWhere s t (fun f => f.id == e.id) else s
        | [] => s
      let e : CombEnt := { id := s.reqNo, addr := va, op := op, ty := ty, val := v, who := [contrib s], born := (s.tile t).lcyc }
      let s1 := s1.nextReq.modTile t fun x => { x with comb := x.comb ++ [e] }
      .ok (addOut s1 s.reqNo va (tyBits ty / 8)).retire

/-- R96, R122: one entry applied at its home; an AADD is an increment (R117). -/
def applyComb (s : State) (h : Tile) (e : CombEnt) : Except Trap State :=
  let off := fld e.addr 0 44
  match rmwHome s h off (tyBits e.ty / 8) (fun m => some (atomFn e.op e.ty m e.val.toNat)) with
  | .error tr => .error { tr with addr := e.addr }
  | .ok (s, _) => .ok (if e.op = .add then servedAt s h off else s)

/-- Table 11.2 for an operation performed at its word's home: at issue, after migration, or by handler message. -/
inductive Placed where
  | here (off : Nat)
  | message (h : Tile)
  deriving DecidableEq, Repr
def placeAt (s : State) (h : Tile) (off : Nat) : Except Stop Placed :=
  if h = s.cur.t then .ok (.here off)
  else if pinnedTo s s.cur.t s.cur.c h then .ok (.message h)
  else .error (.migrate h 0 0)
/-- A handler message of the executing thread. -/
def sendMsg (s : State) (h : Tile) (va : Word) (op : MsgOp) : State := s.nextReq.send s.cur.t h 3 (.msg (mkReq s) va op)

/-- R238: a returning atomic. -/
def xatomOp (s : State) (ty : Ty) (d : G) (va : Word) (op : MsgOp) : Except Stop State :=
  match atomHome s va (tyBits ty / 8), relGate s with
  | .error e, _ => .error e
  | _, .error e => .error e
  | .ok (h, off), _ =>
    match placeAt s h off with
    | .error e => .error e
    | .ok (.message h) => .ok (addPend (sendMsg s h va op) (.g d.val ty) [(s.reqNo, [])] [(va, tyBits ty / 8)]).retire
    | .ok (.here off) =>
      match homeOp s s.cur.t off op with
      | .error tr => .error (.trap { tr with addr := va })
      | .ok (s, .val v) => .ok (s.modTh fun th => wrG th d v).retire
      | .ok (s, _) => .ok s.retire

def execAadd (ty : Ty) (d : G) (m : MemX) (s : State) := finish s (atomOp s .add ty d (eaX s.th m))
def execAfadd (ty : Ty) (d : G) (m : MemX) (s : State) := finish s (atomOp s .fadd ty d (eaX s.th m))
def execAmin (ty : Ty) (d : G) (m : MemX) (s : State) := finish s (atomOp s .min ty d (eaX s.th m))
def execAmax (ty : Ty) (d : G) (m : MemX) (s : State) := finish s (atomOp s .max ty d (eaX s.th m))
def execAand (ty : Ty) (d : G) (m : MemX) (s : State) := finish s (atomOp s .and ty d (eaX s.th m))
def execAor (ty : Ty) (d : G) (m : MemX) (s : State) := finish s (atomOp s .or ty d (eaX s.th m))
def execAxor (ty : Ty) (d : G) (m : MemX) (s : State) := finish s (atomOp s .xor ty d (eaX s.th m))
def execXadd (ty : Ty) (d : G) (m : MemB) (b : G) (s : State) := finish s (xatomOp s ty d (eaB s.th m) (.xadd ty (rdG s.th b)))
def execXchg (ty : Ty) (d : G) (m : MemB) (b : G) (s : State) := finish s (xatomOp s ty d (eaB s.th m) (.xchg ty (rdG s.th b)))
def execCas (ty : Ty) (d : G) (m : MemB) (b : G) (s : State) :=
  finish s (xatomOp s ty d (eaB s.th m) (.cas ty (rdG s.th d) (rdG s.th b)))

end Sys2Proof.Machine
end

