-- ==== Sys2Proof/Machine/Sync.lean ====
section
/-! DEFINITION. Sys2Proof/Machine/Sync.lean: sync words, bindings, fences and counters, major 0x28 (11 R239 to R242, 06 R106
to R117). -/

namespace Sys2Proof.Machine

-- Coverage: ranges, regions and job footprints.
/-- The distribution rectangle of a COPY parameter block (Table 7.2). -/
def rectOf (prm : List Word) : Rect :=
  let w := lget prm 1 0
  ⟨fld w 0 7, fld w 8 6, fld w 16 8, fld w 24 8⟩
/-- Whether two rectangles share a tile. -/
def rectsMeet (a b : Rect) : Bool := meets a.x a.w b.x b.w && meets a.y a.h b.y b.h
/-- R133: whether two regions name a common byte; r and q are the rectangles of those with RECT. -/
def regionsMeet (r : Rect) (g : Region) (q : Rect) (k : Region) : Bool :=
  let tile (k : Region) (r : Rect) : Bool := !bit k.base 57 && r.has (fld k.base 44 7) (fld k.base 51 6)
  match g.rect, k.rect with
  | false, false => meets g.base.toNat g.len k.base.toNat k.len
  | true, false => tile k r && meets g.base.toNat g.len (fld k.base 0 44) k.len
  | false, true => tile g q && meets (fld g.base 0 44) g.len k.base.toNat k.len
  | true, true => rectsMeet r q && meets g.base.toNat g.len k.base.toNat k.len
/-- Whether an access of n bytes at an address touches one of some ranges. -/
def touches (l : List (Word × Word)) (a : Word) (n : Nat) : Bool := l.any fun g => meets g.1.toNat g.2.toNat a.toNat n
/-- R113: whether a job's write footprint overlaps one of some ranges. -/
def jobWrites (l : List (Word × Word)) (j : Job) : Bool :=
  let r := rectOf j.prm
  j.wr.any fun g => l.any fun e => regionsMeet r g r ⟨e.1, e.2.toNat, false⟩

/-- The requests of a context still due that a test of address and size picks: outstanding writes and pending reads. -/
def dueOuts (x : Ctx) (f : Word → Nat → Bool) : List Nat := (x.outs.filter fun o => f o.addr o.len).map (·.id)
def duePend (x : Ctx) (f : Word → Nat → Bool) : List Nat :=
  (x.pend.filter fun p => p.addrs.any fun a => f a.1 a.2).flatMap fun p => p.subs.map (·.1)
/-- The executing thread's combining entries that a test picks leave for their homes (R97). -/
def flushMine (s : State) (f : Word → Nat → Bool) : State :=
  flushWhere s s.cur.t fun e => contributes s.th.tid e && f e.addr (tyBits e.ty / 8)
/-- The instruction issues again later, keeping what it has done. -/
def waitRetry (s : State) : State := s.modMe fun c => { c with st := .waiting, wait := .retry }

-- Sync words and counters.
/-- R106, R239: the address of a sync word or counter. -/
def syncAddr (s : State) (va : Word) (wr : Bool) : Except Stop (Tile × Nat) :=
  match homeFor s va (if wr then aSyncW else aSyncR) 1, guardE (decide (va.toNat % 8 = 0)) .address va with
  | .error e, _ => .error e
  | _, .error e => .error e
  | .ok (.tile h off), _ => if off / 2 ^ 40 ≠ 0 then .error (.trap { cause := .address, addr := va }) else .ok (h, off)
  | .ok (.edge _), _ => .error (.trap { cause := .address, addr := va })

/-- An answer written to a destination (R226, R239). -/
def applyRes (d : Dest) (r : SRes) (th : Thread) : Thread :=
  match d, r with
  | .g n _, .val v => wrGn th n v
  | .pred p, .flag b => wrP th (Fin.ofNat 8 p) b
  | .gp n p, .tried (some v) => wrP (wrGn th n v) (Fin.ofNat 8 p) true
  | .gp _ p, .tried none => wrP th (Fin.ofNat 8 p) false
  | _, _ => th

/-- R108: the executing thread waits in the list of a word of its own tile: a pinned one keeps its context, with its
destination pending or, for CWAIT, in the waiting state; another leaves its pod with the record. -/
def waitHere (s : State) (off : Nat) (va : Word) (k : WKind) (tgt : Word) (d : Nat) : State :=
  let t := s.cur.t
  let th := s.th
  let pin := pinned s t s.cur.c
  let e : DefEnt :=
    { kind := k, tgt := tgt, waddr := va, charge := chargeTile s t th, slot := th.slot, tid := th.tid, pin := pin, ctx := s.cur.c
      ctxTile := t, reqId := s.reqNo, dreg := d }
  if pin then
    let s1 := appendWaiter s t off e none
    if k = .cwait then s1.modMe fun c => { c with st := .waiting, wait := .reply s.reqNo }
    else (addPend s1 (.g d .u64) [(s.reqNo, [])] [(va, 8)]).retire
  else
    let x := s.tile t
    let p := podLive { th with ox := BitVec.ofNat 7 x.lx, oy := BitVec.ofNat 6 x.ly, ret := false, rel := false, parked := false }
    freeCtx (leaveOuts (appendWaiter s t off e (some p)) t s.cur.c) t s.cur.c

/-- A sync or counter operation, placed by Table 11.2. -/
def syncOp (s : State) (va : Word) (wr : Bool) (op : MsgOp) (dest : Dest) : Except Stop State :=
  match syncAddr s va wr with
  | .error e => .error e
  | .ok (h, off) =>
    match placeAt s h off with
    | .error e => .error e
    | .ok (.message h) =>
      let s1 := sendMsg s h va op
      .ok (match op with
        | .cwait _ => s1.modMe fun c => { c with st := .waiting, wait := .reply s.reqNo }
        | .sete => (addOut s1 s.reqNo va 8).retire
        | _ => (addPend s1 dest [(s.reqNo, [])] [(va, 8)]).retire)
    | .ok (.here off) =>
      match homeOp s s.cur.t off op with
      | .error tr => .error (.trap { tr with addr := va })
      | .ok (s, .waits k tgt) => .ok (waitHere s off va k tgt (match dest with | .g r _ => r | _ => 0))
      | .ok (s, r) => .ok (s.modTh (applyRes dest r)).retire
/-- R115: an operation that a FENCE.rel may hold back. -/
def gated (s : State) (r : Except Stop State) : Except Stop State :=
  match r, relGate s with
  | .error (.trap tr), _ => .error (.trap tr)
  | _, .error e => .error e
  | r, _ => r

def execTake (d : G) (m : MemB) (s : State) := finish s (syncOp s (eaB s.th m) true (.take d.val) (.g d.val .u64))
def execTryt (d : G) (pn : P) (m : MemB) (s : State) := finish s (syncOp s (eaB s.th m) true .tryt (.gp d.val pn.val))
def execPeek (d : G) (m : MemB) (s : State) := finish s (syncOp s (eaB s.th m) false (.peek d.val) (.g d.val .u64))
def execSete (m : MemB) (s : State) := finish s (gated s (syncOp s (eaB s.th m) true .sete .none))
def execFeq (pn : P) (m : MemB) (s : State) := finish s (syncOp s (eaB s.th m) false .feq (.pred pn.val))
/-- R242. -/
def execCwait (m : MemB) (b : G) (s : State) := finish s (syncOp s (eaB s.th m) false (.cwait (rdG s.th b)) .none)
def execCtest (pn : P) (m : MemB) (b : G) (s : State) :=
  finish s (syncOp s (eaB s.th m) false (.ctest (rdG s.th b)) (.pred pn.val))

/-- R111, R240: a region of 1 to 2^40 bytes of vault space at one home of the partition. -/
def regionOk (s : State) (base len : Word) : Bool :=
  decide (1 ≤ len.toNat) && decide (len.toNat ≤ 2 ^ 40) && vaultAddr s s.cur.t 1 base && decide (fld base 0 40 + len.toNat ≤ 2 ^ 40)
def bindOp (s : State) (va base len : Word) (op : MsgOp) (pn : P) : Except Stop State :=
  match syncAddr s va false, guardE (regionOk s base len) .address base with
  | .error e, _ => .error e
  | _, .error e => .error e
  | .ok _, _ => gated s (syncOp s va false op (.pred pn.val))
def execBind (pn : P) (m : MemB) (base : G) (len : G) (s : State) :=
  finish s (bindOp s (eaB s.th m) (rdG s.th base) (rdG s.th len) (.bindR (rdG s.th base) (rdG s.th len)) pn)
def execUnbind (pn : P) (m : MemB) (base : G) (len : G) (s : State) :=
  finish s (bindOp s (eaB s.th m) (rdG s.th base) (rdG s.th len) (.unbindR (rdG s.th base) (rdG s.th len)) pn)

/-- R112: the regions bound to a word of a tile. -/
def bindingsOf (s : State) (t : Tile) (off : Nat) : List (Word × Word) :=
  ((s.tile t).binds.filter fun b => b.1 == (s.tile t).here (off % 2 ^ 40)).map (·.2)
/-- R113: whether accesses or jobs of the executing thread that a snapshot covers are still due. -/
def snapDue (s : State) (l : List (Word × Word)) : Bool :=
  let x := s.me
  !(dueOuts x (touches l)).isEmpty || !(duePend x (touches l)).isEmpty ||
    (s.tile s.cur.t).jobs.any fun j => j.tid == x.th.tid && jobWrites l j
/-- R113: GIVE: the snapshot, the covered flush and waits, then Table 6.1 at the word's home. -/
def giveOp (s : State) (va v : Word) (pn : P) : Except Stop State :=
  match syncAddr s va true with
  | .error e => .error e
  | .ok (h, off) =>
    match localCheck s h off aSyncW va, s.me.snap, placeAt s h off with
    | .error e, _, _ => .error e
    | _, none, .error e => .error e
    | _, none, .ok (.message h) =>
      .ok ((s.nextReq.send s.cur.t h 3 (.bquery (mkReq s) va)).modMe fun c => { c with st := .waiting, wait := .snapshot s.reqNo })
    | _, sn, _ =>
      let l := match sn with | some l => l | none => bindingsOf s s.cur.t off
      let s1 := (flushMine s (touches l)).modMe fun c => { c with snap := some l }
      if relHeld s1 || snapDue s1 l then .ok (waitRetry s1)
      else if h = s.cur.t then
        match homeOp s1 h off (.give v) with
        | .error tr => .error (.trap { tr with addr := va })
        | .ok (s2, r) => .ok (s2.modTh (applyRes (.pred pn.val) r)).retire
      else .ok (addPend (sendMsg s1 h va (.give v)) (.pred pn.val) [(s.reqNo, [])] [(va, 8)]).retire
def execGive (pn : P) (m : MemB) (b : G) (s : State) := finish s (giveOp s (eaB s.th m) (rdG s.th b) pn)

-- Fences.
/-- R115: whether a fence of a scope level covers an access at an address. -/
def fenceCovers (s : State) (n : Nat) (a : Word) (_len : Nat) : Bool :=
  if bit a 57 then decide (n = 15) else inScope s s.cur.t n (tileOf s s.cur.t a)
/-- Table 6.4, FENCE.acq. As every kind it flushes the combining entries that it covers (05 R97), but waits for none of them. -/
def execFenceAcq (sc : Fin 16) (s : State) : Host.Outcome State Fault Refusal :=
  let f := fenceCovers s sc.val
  let s := flushMine s f
  if (duePend s.me f).isEmpty then .next s.retire else .next (waitRetry s)
/-- The accesses covered by a test that later writes must wait for (R115, R119). -/
def holdLater (s : State) (f : Word → Nat → Bool) : State :=
  let s := flushMine s f
  s.modMe fun c => { c with relIds := c.relIds ++ dueOuts c f ++ duePend c f }
/-- Table 6.4, FENCE.rel. -/
def execFenceRel (sc : Fin 16) (s : State) : Host.Outcome State Fault Refusal :=
  .next (holdLater s (fenceCovers s sc.val)).retire
/-- Table 6.4, FENCE.full. -/
def execFenceFull (sc : Fin 16) (s : State) : Host.Outcome State Fault Refusal :=
  let f := fenceCovers s sc.val
  let s := flushMine s f
  if (dueOuts s.me f).isEmpty && (duePend s.me f).isEmpty then .next s.retire else .next (waitRetry s)

end Sys2Proof.Machine
end

