-- ==== Sys2Proof/Machine/Barrier.lean ====
section
/-! DEFINITION. Sys2Proof/Machine/Barrier.lean: hardware barriers, major 0x29 (11 R243 to R246, 06 R119), and the
completion and timeout of their phases. -/

namespace Sys2Proof.Machine

/-- The rectangle of a barrier descriptor, and its unit (Table 11.7). -/
def barRect (d : Word) : Rect := ⟨fld d 8 7, fld d 0 6, fld d 24 7 + 1, fld d 16 6 + 1⟩
def barUnit (d : Word) : Nat := fld d 32 1
/-- R243. -/
def barOk (x : TileSt) (d : Word) : Bool :=
  let r := barRect d
  fld d 33 31 == 0 && !bit d 31 && fld d 22 2 == 0 && !bit d 15 && fld d 6 2 == 0 && decide (r.x + r.w ≤ x.pw) &&
    decide (r.y + r.h ≤ x.phh) && r.has x.lx x.ly
/-- R245, Table 11.8. -/
def barToken (x : TileSt) (u : Nat) : Word := w64 (x.lx * 2 ^ 40 + u * 2 ^ 39 + x.ly * 2 ^ 32 + (x.bar u).ph.toNat)
/-- R119: an access to a home inside the rectangle. -/
def barCovers (r : Rect) (a : Word) (_len : Nat) : Bool := !bit a 57 && r.has (fld a 44 7) (fld a 51 6)

/-- R244: an arrival, after which the token stands in D; k goes on from there. -/
def arrive (s : State) (rel : Bool) (d : G) (desc : Word) (k : State → Word → State) : Except Stop State :=
  let t := s.cur.t
  let x := s.tile t
  let u := barUnit desc
  if !barOk x desc then .error (.trap { cause := .barrier })
  else match (x.bar u).desc with
    | some e => if e = desc then .error (.wait .retry) else .error (.trap { cause := .barrier })
    | none =>
      match relGate s with
      | .error e => .error e
      | .ok _ =>
        let f := barCovers (barRect desc)
        let s1 := if rel then flushMine s f else s
        if rel && !((dueOuts s1.me f).isEmpty && (duePend s1.me f).isEmpty) then .ok (waitRetry s1)
        else
          let tok := barToken x u
          .ok (k ((s1.modTile t fun x => x.setBar u { x.bar u with desc := some desc }).modTh fun th => wrG th d tok) tok)

/-- R245: a wait on a token begins, or ends at once. -/
def barWait (s : State) (tok : Word) (timeout : Word) (pn : P) : State :=
  let x := s.tile s.cur.t
  let u := fld tok 39 1
  let ph : BitVec 32 := BitVec.ofNat 32 tok.toNat
  if (x.bar u).ph ≠ ph then (s.modTh fun th => wrP th pn true).retire
  else s.modMe fun c => { c with st := .waiting, wait := .barrier u ph timeout.toNat x.lcyc pn.val }

def execBarr (rel : Bool) (d : G) (pn : P) (a : G) (b : G) (s : State) : Host.Outcome State Fault Refusal :=
  finish s (arrive s rel d (rdG s.th a) fun s1 tok => barWait s1 tok (rdG s.th b) pn)
def execBara (rel : Bool) (d : G) (a : G) (s : State) : Host.Outcome State Fault Refusal :=
  finish s (arrive s rel d (rdG s.th a) fun s1 _ => s1.retire)
/-- R245: the checks on a token. -/
def execBarw (pn : P) (a : G) (b : G) (s : State) : Host.Outcome State Fault Refusal :=
  let x := s.tile s.cur.t
  let tok := rdG s.th a
  finish s (if fld tok 47 17 ≠ 0 ∨ bit tok 38 = true ∨ fld tok 40 7 ≠ x.lx ∨ fld tok 32 6 ≠ x.ly
    then .error (.trap { cause := .barrier })
    else .ok (barWait s tok (rdG s.th b) pn))

/-- A barrier wait of a context ends with its predicate. -/
def barEnd (s : State) (t c p : Nat) (v : Bool) : State :=
  retireNext (s.modCtx t c fun x => { x with th := wrP x.th (Fin.ofNat 8 p) v }) t c
/-- R245: the waits of a tile whose phase has passed complete. -/
def barRelease (s : State) (t u : Nat) : State :=
  let ph := ((s.tile t).bar u).ph
  (s.tile t).ctxs.foldl (fun s e => match e.2.st, e.2.wait with
    | .waiting, .barrier v q _ _ p => if v = u ∧ q ≠ ph then barEnd s t e.1 p true else s
    | _, _ => s) s

/-- R244: a phase completes when every tile of the rectangle has latched its descriptor. -/
def execBarrierPhaseComplete (t : Nat) (u : Nat) (s : State) : Host.Outcome State Fault Refusal :=
  let x := s.tile t
  let u := u % 2
  match (x.bar u).desc with
  | none => .next s
  | some d =>
    let r := barRect d
    let l := (List.range r.h).flatMap fun j => (List.range r.w).map fun i => x.at (r.x + i) (r.y + j)
    if l.all fun v => ((s.tile v).bar u).desc == some d then
      let s := l.foldl (fun s v => s.modTile v fun y => y.setBar u { ph := (y.bar u).ph + 1, desc := none }) s
      .next (l.foldl (fun s v => barRelease s v u) s)
    else .next s

/-- R245: a wait times out. -/
def execBarrierTimeout (t : Nat) (c : Nat) (s : State) : Host.Outcome State Fault Refusal :=
  match (s.ctx t c).st, (s.ctx t c).wait with
  | .waiting, .barrier _ _ timeout start p =>
    if timeout ≠ 0 ∧ start + timeout ≤ (s.tile t).lcyc then .next (barEnd s t c p false) else .next s
  | _, _ => .next s

end Sys2Proof.Machine
end

