-- ==== Sys2Proof/Machine/Cache.lean ====
section
/-! DEFINITION. Sys2Proof/Machine/Cache.lean: cache, prefetch and line locks, major 0x2C (11 R247, R248, 03 R49 to R51). -/

namespace Sys2Proof.Machine

/-- R247: the range of an instruction, as the vault-space offset of its first 128-byte line and the number of its lines. A range
that is not wholly vault space of the issuing tile, or longer than 2^30, is ADDRESS. -/
def rangeOf (s : State) (ea len : Word) : Except Stop (Nat × Nat) :=
  let x := s.tile s.cur.t
  let o := fld ea 0 40
  if fld ea 57 7 ≠ 0 ∨ x.pw ≤ fld ea 44 7 ∨ x.phh ≤ fld ea 51 6 ∨ tileOf s s.cur.t ea ≠ s.cur.t ∨ fld ea 40 4 ≠ 0 ∨
      2 ^ 30 < len.toNat ∨ 2 ^ 40 < o + len.toNat then .error (.trap { cause := .address, addr := ea })
  else .ok (o / 128 * 128, if len = 0 then 0 else (o + len.toNat - 1) / 128 - o / 128 + 1)
/-- R51, R248: the offsets of n lines in ascending order. The order is that of vault-space offsets, not of physical addresses (DESIGN
CHOICE, log 73). -/
def lineOffs (first n : Nat) : List Nat := (List.range n).map fun i => first + 128 * i

/-- The leaf of a vault-space offset at a tile, from the TLB or by a walk. -/
def leafAt (s : State) (t off : Nat) : Option (State × Word) :=
  if bit (s.tile t).vtb 0 = false then none
  else match (s.tile t).tlb.find? (fun e => decide (e.base ≤ off) && decide (off < e.base + e.size)) with
  | some e => some (s, e.leaf)
  | none =>
    match walk s t off with
    | .error _ => none
    | .ok leaf =>
      let sz := pageBytes (fld leaf 48 4)
      some ((wakeAll s (walkTouch s t off)).modTile t fun y => { y with tlb := ((⟨off / sz * sz, sz, leaf⟩ : TlbEnt) :: y.tlb).take 1088 }, leaf)

/-- R247: what is done to each line of a range, by its physical line number; pages without a translation, or that a test on
their leaf refuses, are skipped. -/
def eachLine (t : Tile) (ok : State → Word → Bool) (f : State → Nat → State) (s : State) : List Nat → State
  | [] => s
  | off :: r =>
    match leafAt s t off with
    | none => eachLine t ok f (wakeAll s (walkTouch s t off)) r
    | some (s1, leaf) =>
      if ok s1 leaf then eachLine t ok f (f s1 ((leafXl leaf off).pa / 128)) r else eachLine t ok f s r

/-- R51: a lock ends, and its charge returns. -/
def unlockLine (s : State) (t line : Nat) : State := s.modTile t fun x => { x with locks := adel x.locks line }
/-- R51: the lines that a launch may still lock on a tile. -/
def lockRoom (s : State) (t : Tile) (li : Option Nat) : Bool :=
  let x := s.tile t
  match li, s.part x.pid with
  | some l, some p =>
    match p.launchNo l with
    | some la => decide ((x.locks.filter fun e => e.2.li == some l).length < la.lockq)
    | none => false
  | _, _ => false
/-- R50, R51: a line is fetched: its arrays wake, and the vault's check meets the errors of its words. -/
def fillLine (t : Tile) (s : State) (line : Nat) : State :=
  let s := wakeArrays s t 0 (128 * line) 128 true
  if (afind (s.tile t).dirty line).isSome then s else meetErrors s (s.latent.filter (lineWords t line))
/-- The locked lines of a line's set. -/
def lockedWays (x : TileSt) (line : Nat) : List LineLock := (x.locks.filter fun e => decide (e.1 % 1024 = line % 1024)).map (·.2)
/-- R51: one line: already locked, locked if room, in a way that no locked line of its set holds (a free value says which, log 78),
or refused. The way's group leaves retention (R52). -/
def lockLine (t : Tile) (li : Option Nat) (s : State) (line : Nat) : State :=
  let x := s.tile t
  if (afind x.locks line).isSome then s
  else if (lockedWays x line).length < 9 ∧ lockRoom s t li = true then
    let s := makeRoom (fillLine t s line) t line
    let ways := (List.range 12).filter fun w => !(lockedWays (s.tile t) line).any fun l => l.way == w
    let way := lget ways ((Config.freeWord s.fresh).toNat % ways.length) 0
    (exitArr s.nextFresh t (.l2 (Fin.ofNat 4 (way / 3)))).modTile t fun x => { x with locks := aput x.locks line ⟨li, way⟩ }
  else s

/-- R248: PREF and LOCKL skip pages that fail R34 as a read; INVAL those without W = 1. -/
def readable (t : Tile) (s : State) (leaf : Word) : Bool := (leafCheck (s.tile t) leaf aRead).isNone
def writable (_ : State) (leaf : Word) : Bool := bit leaf 53
def anyPage (_ : State) (_ : Word) : Bool := true

/-- R248: a present line is discarded; one that held stores changes its bytes as a write does (R76). -/
def invalLine (t : Tile) (s : State) (line : Nat) : State :=
  let s := unlockLine s t line
  if (afind (s.tile t).dirty line).isSome then genWrite (discardLine s t line) t (line * 128) 128 else s

/-- R50, R248: PREF. The fills change nothing that a program can see. -/
def prefOp (s : State) (ea len : Word) (cnt : Option Word) (inc : Nat) : Except Stop State :=
  match rangeOf s ea len with
  | .error e => .error e
  | .ok (first, n) =>
    let s1 := eachLine s.cur.t (readable s.cur.t) (fillLine s.cur.t) s (lineOffs first n)
    match cnt with
    | none => .ok s1.retire
    | some c =>
      if !vaultAddr s s.cur.t 8 c then .error (.trap { cause := .address, addr := c })
      else if len = 0 then .ok (sendPrefIncr s1.nextReq s.cur.t (mkReq s) c inc).retire
      else .ok (s1.modTile s.cur.t fun x =>
        { x with prefs := x.prefs ++ [⟨c, inc, s.th.tid, s.cur.c, s.th.pc, s.cur.iw⟩] }).retire
def execPref (m : MemB) (b : G) (d : G) (inc : BitVec 4) (s : State) : Host.Outcome State Fault Refusal :=
  finish s (prefOp s (eaB s.th m) (rdG s.th b) (if d = 0 then none else some (rdG s.th d)) (inc.toNat + 1))

-- The instructions that complete after their last line (R248).
/-- What one line of a range has done to it, and whether it is locked afterwards. A page without a translation, or that the
instruction's test on its leaf refuses, is skipped. -/
def doLine (s : State) (t : Tile) (li : Option Nat) (op : LineFn) (off : Nat) : State × Bool :=
  match leafAt s t off with
  | none => (wakeAll s (walkTouch s t off), false)
  | some (s, leaf) =>
    let line := (leafXl leaf off).pa / 128
    match op with
    | .lock _ _ =>
      if readable t s leaf then
        let s := lockLine t li s line
        (s, (afind (s.tile t).locks line).isSome)
      else (s, false)
    | .unlock => (unlockLine s t line, false)
    | .wback => (writeBack s t line, false)
    | .wbinv => (unlockLine (writeBack s t line) t line, false)
    | .inval => (if writable s leaf then invalLine t s line else s, false)
/-- R248: the last line is done: LOCKL returns its count, and its predicate where every line is locked; the instruction retires. -/
def endLines (s : State) (t c : Nat) (op : LineFn) (hit total : Nat) : State :=
  let s := match op with
    | .lock d pn => s.modCtx t c fun x => { x with th := wrP (wrGn x.th d (w64 hit)) (Fin.ofNat 8 pn) (decide (hit = total)) }
    | _ => s
  retireNext s t c
/-- R248: one more line of a waiting instruction; other agents act between the lines. -/
def lineStep (s : State) (t c : Nat) : State :=
  let x := s.ctx t c
  match x.st, x.wait with
  | .waiting, .lines op next left hit total =>
    if left = 0 then endLines s t c op hit total
    else
      let (s, locked) := doLine s t x.th.launch op next
      let hit := if locked then hit + 1 else hit
      if left = 1 then endLines s t c op hit total
      else s.modCtx t c fun y => { y with wait := .lines op (next + 128) (left - 1) hit total }
  | _, _ => s
/-- An instruction of the family issues: it waits with the lines of its range to do (R248); a range of no line completes at once. -/
def lineOp (s : State) (m : MemB) (b : G) (op : LineFn) : Except Stop State :=
  match rangeOf s (eaB s.th m) (rdG s.th b) with
  | .error e => .error e
  | .ok (first, n) =>
    if n = 0 then .ok (endLines s s.cur.t s.cur.c op 0 0)
    else .ok (s.modMe fun c => { c with st := .waiting, wait := .lines op first n 0 n })
/-- R51. -/
def execLockl (d : G) (pn : P) (m : MemB) (b : G) (s : State) : Host.Outcome State Fault Refusal :=
  finish s (lineOp s m b (.lock d.val pn.val))
def execUnlockl (m : MemB) (b : G) (s : State) : Host.Outcome State Fault Refusal := finish s (lineOp s m b .unlock)
def execWback (m : MemB) (b : G) (s : State) : Host.Outcome State Fault Refusal := finish s (lineOp s m b .wback)
def execWbinv (m : MemB) (b : G) (s : State) : Host.Outcome State Fault Refusal := finish s (lineOp s m b .wbinv)
def execInval (m : MemB) (b : G) (s : State) : Host.Outcome State Fault Refusal := finish s (lineOp s m b .inval)

/-- R50: the fill of a PREF's last line has completed. -/
def execPrefFillComplete (t : Nat) (i : Nat) (s : State) : Host.Outcome State Fault Refusal :=
  match (s.tile t).prefs[i]? with
  | none => .next s
  | some p =>
    let s := s.modTile t fun x => { x with prefs := ldel x.prefs i }
    let r : Req := { t := t, c := p.c, id := s.reqNo, tid := p.tid, pc := p.pc, iw := p.iw, priv := false, slot := 0, charge := t }
    .next (sendPrefIncr s.nextReq t r p.cnt p.inc)

end Sys2Proof.Machine
end

