-- ==== Sys2Proof/Machine/VectorMem.lean ====
section
/-! DEFINITION. Sys2Proof/Machine/VectorMem.lean: vector memory, major 0x21 (11 R232 to R234). -/

namespace Sys2Proof.Machine

/-- The active lanes of a mask, ascending. -/
def active (k : BitVec 16) : List Nat := (List.range 16).filter fun i => k.getLsbD i

/-- R227, step 2: the homes of the active lanes, in lane order. -/
def laneResolve (s : State) (k : Acc) : List (Nat × Word) → Except Stop (List (Nat × Word × Home))
  | [] => .ok []
  | (i, a) :: r =>
    match resolve s s.cur.t (priv s) a k 4 with
    | .error e => .error (.trap e)
    | .ok h => match laneResolve s k r with
      | .error e => .error e
      | .ok l => .ok ((i, a, h) :: l)
/-- R227, steps 2 and 3, R233: the homes of the active lanes, then the alignment of each address to 4 bytes. -/
def laneHomes (s : State) (k : Acc) (l : List (Nat × Word)) : Except Stop (List (Nat × Word × Home)) :=
  match laneResolve s k l with
  | .error e => .error e
  | .ok m => match l.find? fun e => decide (e.2.toNat % 4 ≠ 0) with
    | some e => .error (.trap { cause := .address, addr := e.2 })
    | none => .ok m

/-- The home tile of a lane, or none for the edge. -/
def laneTile : Home → Option Tile | .tile h _ => some h | .edge _ => none
/-- R104, R28: the waits of the lanes in another tile's system space. -/
def laneGate (s : State) : List (Nat × Word × Home) → Except Stop Unit
  | [] => .ok ()
  | (_, _, .tile h off) :: r => (match sysGate s h off with | .error e => .error e | .ok _ => laneGate s r)
  | _ :: r => laneGate s r
/-- R28: a lane that is performed at issue: local, or in system space. -/
def laneNow (s : State) (e : Nat × Word × Home) : Bool :=
  match e.2.2 with | .tile h off => h == s.cur.t || inSys off | .edge _ => false

/-- A lane of a v register replaced. -/
def setLane (v : VReg) (i : Nat) (x : BitVec 32) : VReg := v.set (Fin.ofNat 16 i) x
/-- Lanes read at their home one by one, into a register. -/
def readLanes (s : State) (v : VReg) : List (Nat × Word × Home) → Except Stop (State × VReg)
  | [] => .ok (s, v)
  | (i, a, h) :: r =>
    match readAt s ((laneTile h).getD s.cur.t) a 4 with
    | .error e => .error e
    | .ok (s, l) => readLanes s (setLane v i (BitVec.ofNat 32 (leNat l))) r
/-- Lanes written at their home one by one; a failing lane leaves no state. -/
def writeLanes (s : State) (v : VReg) : List (Nat × Word × Home) → Except Stop State
  | [] => .ok s
  | (i, a, h) :: r =>
    match writeAt s ((laneTile h).getD s.cur.t) a (leBytes 4 (lane v i).toNat) with
    | .error e => .error e
    | .ok s => writeLanes s v r

/-- R76, R120: the lanes of one granule are one access, which advances a window's generation once. -/
def genOnce (before after : State) (t : Tile) : State :=
  if (before.tile t).wins = (after.tile t).wins then after
  else after.modTile t fun x => { x with wins := x.wins.map fun (e : Nat × Win) =>
    let g := ((before.tile t).win e.1).gen
    if e.2.gen = g then e else (e.1, { e.2 with gen := g + 1 }) }
/-- R120: the lanes of a block, granule by granule, ascending. -/
def granules (l : List (Nat × Word × Home)) : List (List (Nat × Word × Home)) :=
  ((l.map fun e => e.2.1.toNat / 16).eraseDups).map fun g => l.filter fun e => e.2.1.toNat / 16 == g
/-- The tile that holds a granule's lanes: another one for the system space of a tile. -/
def granuleTile (s : State) : List (Nat × Word × Home) → Tile
  | (_, _, .tile h _) :: _ => h
  | _ => s.cur.t
/-- R120: the bytes that the lanes of a granule store, lanes with adjoining addresses together. -/
def laneRuns (v : VReg) : List (Nat × Word × Home) → List (Word × List Byte)
  | [] => []
  | (i, a, _) :: r =>
    let l := leBytes 4 (lane v i).toNat
    match laneRuns v r with
    | (b, m) :: q => if b = a + 4 then (a, l ++ m) :: q else (a, l) :: (b, m) :: q
    | [] => [(a, l)]
/-- The runs of a granule written at their home; a failing one leaves no state. -/
def writeRuns (s : State) (h : Tile) : List (Word × List Byte) → Except Stop State
  | [] => .ok s
  | (a, l) :: r =>
    match writeAt s h a l with
    | .error e => .error e
    | .ok s => writeRuns s h r
/-- R120, R233: the granules of a stored block, each one access. -/
def writeGranules (s : State) (v : VReg) : List (List (Nat × Word × Home)) → Except Stop State
  | [] => .ok s
  | g :: r =>
    match writeRuns s (granuleTile s g) (laneRuns v g) with
    | .error e => .error e
    | .ok s1 => writeGranules (genOnce s s1 (granuleTile s g)) v r

/-- Requests for lanes, grouped: one GET for each group. -/
def getLanes (s : State) : List (List (Nat × Word × Home)) → State × List (Nat × List Nat) × List (Word × Nat)
  | [] => (s, [], [])
  | g :: r =>
    match g with
    | [] => getLanes s r
    | (_, _, h) :: _ =>
      let q := mkReq s
      let ps := g.map fun e => (e.2.1, 4)
      let b : Body := match h with | .tile _ _ => .get q ps | .edge _ => .edge q ps none none
      let (s, subs, addrs) := getLanes (s.nextReq.send s.cur.t (siteOf s h) 3 b) r
      (s, (q.id, g.map (·.1)) :: subs, ps ++ addrs)
/-- One PUT for each group. -/
def putLanes (s : State) (v : VReg) : List (List (Nat × Word × Home)) → State
  | [] => s
  | g :: r =>
    match g with
    | [] => putLanes s v r
    | (_, a, h) :: _ =>
      let q := mkReq s
      let ps := (laneRuns v g).map fun e => (e.1, e.2.length)
      let l := (laneRuns v g).flatMap (·.2)
      let b : Body := match h with | .tile _ _ => .put q ps l | .edge _ => .edge q ps (some l) none
      putLanes (addOut (s.nextReq.send s.cur.t (siteOf s h) 3 b) q.id a (16 - a.toNat % 16)) v r

/-- R234: one PUT or edge request for each lane, in ascending lane order; they belong to one store, whose fault is that of its
lowest faulting lane. -/
def putSingles (s : State) (v : VReg) (grp : Nat) : List (Nat × Word × Home) → State
  | [] => s
  | (i, a, h) :: r =>
    let q := mkReq s
    let l := leBytes 4 (lane v i).toNat
    let b : Body := match h with | .tile _ _ => .put q [(a, 4)] l | .edge _ => .edge q [(a, 4)] (some l) none
    putSingles (addLane (s.nextReq.send s.cur.t (siteOf s h) 3 b) q.id a grp i) v grp r

/-- A load's lanes: those performed at once into the register, the rest pending (R226). -/
def vloadFinish (s : State) (d : V) (nw : List (Nat × Word × Home)) (groups : List (List (Nat × Word × Home))) : Except Stop State :=
  match laneGate s nw, readLanes s (rdV s.th d) nw with
  | .error e, _ => .error e
  | _, .error e => .error e
  | _, .ok (s, v) =>
    let s := s.modTh fun th => wrV th d v
    let (s, subs, addrs) := getLanes s groups
    .ok (if subs.isEmpty then s else addPend s (.vec d.val) subs addrs).retire

/-- R233: VLD and VST: one block whose active lanes have one home. -/
def blockHome (l : List (Nat × Word × Home)) : Except Stop Unit :=
  match l with
  | [] => .ok ()
  | (_, a, h) :: r => guardE (r.all fun e => laneTile e.2.2 == laneTile h) .address a
def vldOp (s : State) (k : K) (d : V) (ea : Word) : Except Stop State :=
  match laneHomes s aRead ((active (rdK s.th k)).map fun i => (i, ea + w64 (4 * i))) with
  | .error e => .error e
  | .ok l =>
    match blockHome l with
    | .error e => .error e
    | .ok _ =>
      match l with
      | [] => vloadFinish s d [] []
      | (_, _, h) :: _ =>
        if l.all (laneNow s) then vloadFinish s d l []
        else match laneTile h with
          | some u => if pinnedTo s s.cur.t s.cur.c u then vloadFinish s d [] (granules l) else .error (.migrate u 0 0)
          | none => vloadFinish s d [] (granules l)
def vstOp (s : State) (k : K) (d : V) (ea : Word) : Except Stop State :=
  match laneHomes s aWrite ((active (rdK s.th k)).map fun i => (i, ea + w64 (4 * i))) with
  | .error e => .error e
  | .ok l =>
    match blockHome l, relGate s with
    | .error e, _ => .error e
    | _, .error e => .error e
    | .ok _, _ =>
      match l with
      | [] => .ok s.retire
      | (_, _, h) :: _ =>
        if l.all (laneNow s) then
          match laneGate s l, writeGranules s (rdV s.th d) (granules l) with
          | .error e, _ => .error e
          | _, .error e => .error e
          | _, .ok s => .ok s.retire
        else match laneTile h with
          | some u => if pinnedTo s s.cur.t s.cur.c u then .ok (putLanes s (rdV s.th d) (granules l)).retire
            else .error (.migrate u 0 0)
          | none => .ok (putLanes s (rdV s.th d) (granules l)).retire

/-- R234, step 2: the one remote home of every active lane, where the thread may go there. -/
def lanesMigrate (s : State) (l : List (Nat × Word × Home)) : Option Tile :=
  match l with
  | (i, a, h) :: r =>
    match laneTile h with
    | some u =>
      if r.all (fun e => laneTile e.2.2 == some u) && !laneNow s (i, a, h) && !(r.any (laneNow s)) &&
        !pinnedTo s s.cur.t s.cur.c u then some u else none
    | none => none
  | [] => none
/-- R234 for a load: local lanes at issue, one GET for each remote or edge lane. -/
def gatherOp (s : State) (d : V) (addrs : List (Nat × Word)) : Except Stop State :=
  match laneHomes s aRead addrs with
  | .error e => .error e
  | .ok l =>
    match lanesMigrate s l with
    | some u => .error (.migrate u 0 0)
    | none => vloadFinish s d (l.filter (laneNow s)) ((l.filter fun e => !laneNow s e).map fun e => [e])
/-- R234 for a store. -/
def scatterOp (s : State) (d : V) (addrs : List (Nat × Word)) : Except Stop State :=
  match laneHomes s aWrite addrs, relGate s with
  | .error e, _ => .error e
  | _, .error e => .error e
  | .ok l, _ =>
    match lanesMigrate s l with
    | some u => .error (.migrate u 0 0)
    | none =>
      match laneGate s (l.filter (laneNow s)), writeLanes s (rdV s.th d) (l.filter (laneNow s)) with
      | .error e, _ => .error e
      | _, .error e => .error e
      | _, .ok s' => .ok (putSingles s' (rdV s.th d) s'.reqNo (l.filter fun e => !laneNow s e)).retire

/-- Table 11.4: lane addresses with a stride, and with offsets from a register pair. -/
def strideAddrs (th : Thread) (k : K) (sc : BitVec 2) (m : MemB) (b : G) : List (Nat × Word) :=
  (active (rdK th k)).map fun i => (i, eaB th m + (w64 i * rdG th b <<< sc.toNat))
def offsetAddrs (th : Thread) (k : K) (sc : BitVec 2) (m : MemB) (b : V) : List (Nat × Word) :=
  let lo := rdV th b
  let hi := rdV th (Fin.ofNat 8 (b.val + 1))
  (active (rdK th k)).map fun i =>
    (i, rdG th m.base + (w64 ((lane hi i).toNat * 2 ^ 32 + (lane lo i).toNat) <<< sc.toNat) + simm m.disp)

def execVld (_ty : Ty) (k : K) (d : V) (m : MemX) (s : State) : Host.Outcome State Fault Refusal :=
  finish s (vldOp s k d (eaX s.th m))
def execVst (_ty : Ty) (k : K) (d : V) (m : MemX) (s : State) : Host.Outcome State Fault Refusal :=
  finish s (vstOp s k d (eaX s.th m))
def execVlds (_ty : Ty) (k : K) (sc : BitVec 2) (d : V) (m : MemB) (b : G) (s : State) : Host.Outcome State Fault Refusal :=
  finish s (gatherOp s d (strideAddrs s.th k sc m b))
def execVsts (_ty : Ty) (k : K) (sc : BitVec 2) (d : V) (m : MemB) (b : G) (s : State) : Host.Outcome State Fault Refusal :=
  finish s (scatterOp s d (strideAddrs s.th k sc m b))
def execVgath (_ty : Ty) (k : K) (sc : BitVec 2) (d : V) (m : MemB) (b : V) (s : State) : Host.Outcome State Fault Refusal :=
  finish s (gatherOp s d (offsetAddrs s.th k sc m b))
def execVscat (_ty : Ty) (k : K) (sc : BitVec 2) (d : V) (m : MemB) (b : V) (s : State) : Host.Outcome State Fault Refusal :=
  finish s (scatterOp s d (offsetAddrs s.th k sc m b))

end Sys2Proof.Machine
end

