-- ==== Sys2Proof/Machine/Packets.lean ====
section
/-! DEFINITION. Sys2Proof/Machine/Packets.lean: packets that arrive and requests that a handler serves (05 R84, R94), and the
replies and acknowledgements of a thread's requests (R94, R95, 11 R226, R234, R236). -/

namespace Sys2Proof.Machine

/-- The address of a pending request's access, for the packet of a fault found on its way back. -/
def reqAddr (s : State) (r : Req) : Word :=
  match (s.ctx r.t r.c).pend.findSome? fun p => (p.subs.zip p.addrs).findSome? fun e => if e.1.1 = r.id then some e.2.1 else none with
  | some a => a
  | none => 0
/-- R58: whether a packet carries words of data beside its header. -/
def hasPayload : Body → Bool
  | .pod _ _ _ _ | .parkDeposit _ _ _ _ | .put _ _ _ | .putc _ _ _ _ _ | .flush _ | .data _ _ | .edge _ _ (some _) _ | .portWord _ _ |
    .elem _ _ _ _ (some _) | .elemRe _ _ none | .coll _ _ _ _ _ | .mred _ _ _ _ _ _ _ (some _) | .spawnx _ _ | .ship _ | .wake _ (some _) | .wakeRet _ _ => true
  | .msg _ _ op => (match op with | .xadd _ _ | .xchg _ _ | .cas _ _ _ | .give _ => true | _ => false)
  | _ => false
/-- R58: the pieces of a write whose words a crossbar has poisoned on their way, which are stored poisoned; k is the place of the first
piece in the payload. -/
def Packet.poisonPieces (p : Packet) (f : State → Word → Nat → State) (s : State) : Nat → List (Word × Nat) → State
  | _, [] => s
  | k, (a, n) :: r =>
    let hit (s : State) (i : Nat) : State :=
      let lo := max k (32 * i)
      let hi := min (k + n) (32 * i + 32)
      if lo < hi then f s (a + w64 (lo - k)) (hi - lo) else s
    p.poisonPieces f (p.bad.foldl hit s) (k + n) r
/-- R58: the contributions of a collective, of which those are poisoned that have a word in a poisoned flit; k words stand before. -/
def collPoison (bad : List Nat) : Nat → List CollSt → List CollSt
  | _, [] => []
  | k, c :: r =>
    { c with bad := c.bad || bad.any fun i => decide (4 * i < k + c.src.length) && decide (k < 4 * i + 4) } :: collPoison bad (k + c.src.length) r
/-- R58: data that a crossbar has poisoned reach a consumer that keeps no poison as a fault in their place. The cells of an MRED are
poisoned cell by cell, a flit to each (log 97). -/
def asPoison (s : State) (p : Packet) : Packet :=
  if p.poisoned then
    match p.body with
    | .data r _ => { p with body := .bad r (parityTrap (reqAddr s r)) false }
    | .coll g n k up l => { p with body := .coll g n k up (collPoison p.bad 0 l) }
    | .mred u n tag rank k row0 nr (some l) =>
      { p with body := .mred u n tag rank k row0 nr (some (l.zipIdx.map fun e => if p.bad.contains e.2 then (a64Pois, 0) else e.1)) }
    | _ => p
  else p
/-- The arrival of packet n, where the order of its channel lets it arrive (R84) and the event is that of its kind. -/
def withPkt (s : State) (n : Nat) (f : State → Packet → Option State) : Host.Outcome State Fault Refusal :=
  match deliverable s n with
  | some p => match f (s.dropPkt n) (asPoison s p) with
    | some s' => .next s'
    | none => .next s
  | none => .next s
/-- R94: the handler serves the head of its queue, where the event is that of its kind. -/
def withHead (s : State) (t : Nat) (f : State → Packet → Option State) : Host.Outcome State Fault Refusal :=
  match (s.tile t).hq with
  | [] => .next s
  | p :: r => match f (s.modTile t fun x => { x with hq := r }) p with
    | some s' => .next s'
    | none => .next s

/-- Whether a context still holds the thread of a request. -/
def stillThere (s : State) (r : Req) : Bool := (s.ctx r.t r.c).st != .free && (s.ctx r.t r.c).th.tid == r.tid

/-- What comes next for a context whose pending destinations or outstanding writes have shrunk: a relocation waits for the
former (R365), a pod for both (R83). -/
def settle (s : State) (t c : Nat) : State :=
  let x := s.ctx t c
  match x.relocating with
  | some dst => if (x.st = .frozen ∨ x.st = .inService) ∧ x.pend.isEmpty = true then relocNow s t c dst else sendPod s t c
  | none => sendPod s t c

/-- R94: a fault carried back in a reply freezes the context, or leaves only its packet while a RELOCATE waits (R365). -/
def deferFault (s : State) (t c : Nat) (tr : Trap) (pc : Word) (iw : BitVec 96) : State :=
  if (s.ctx t c).relocating.isSome then settle (asyncPacket s t c tr pc iw (s.ctx t c).th.tid { defer := true }) t c
  else freeze s t c tr pc iw { defer := true }

/-- R228, R232, R239: the bytes of a reply written to a destination; ls are the lanes that this reply fills. -/
def putDest (d : Dest) (ls : List Nat) (l : List Byte) (th : Thread) : Thread :=
  match d with
  | .g r ty => wrGn th r (extTy ty (leNat l))
  | .pair r => wrGn (wrGn th r (leWord (l.take 8))) (r + 1) (leWord (l.drop 8))
  | .vec r =>
    let x : V := Fin.ofNat 8 r
    let w : BitVec 32 := BitVec.ofNat 32 (leNat (l.take 4))
    match ls with
    | [] => th
    | i :: is => putDest (.vec r) is (l.drop 4) (wrV th x (setLane (rdV th x) i w))
  | .pred p => wrP th (Fin.ofNat 8 p) (leNat l != 0)
  | .gp r p =>
    let ok := leNat (l.drop 8) != 0
    wrP (if ok then wrGn th r (leWord (l.take 8)) else th) (Fin.ofNat 8 p) ok
  | .none => th
termination_by structural ls

/-- R226: request id of a pending destination is answered: data for its lanes, or a trap. The destination, if it is complete. -/
def answer (id : Nat) (r : Except Trap (List Byte)) : List Pend → Thread → List Pend × Thread × Option Pend
  | [], th => ([], th, none)
  | p :: ps, th =>
    match p.subs.find? (fun e => e.1 == id) with
    | none => let (l, th, o) := answer id r ps th; (p :: l, th, o)
    | some (_, ls) =>
      let th := match r with | .ok b => putDest p.dest ls b th | .error _ => th
      let lane := ls.headD 0
      let bad := match r with
        | .ok _ => p.bad
        | .error tr => match p.bad with | some (k, t) => if lane < k then some (lane, tr) else some (k, t) | none => some (lane, tr)
      let q := { p with subs := p.subs.filter fun e => e.1 != id, bad := bad }
      if q.subs.isEmpty then (ps, th, some q) else (q :: ps, th, none)

/-- R274: a JOIN's reply: the counter reached zero, or the thread ends. -/
def joinDone (s : State) (t c : Nat) (l : List Byte) : State :=
  if leNat l ≠ 0 then retireNext s t c else exitAfter s t c
/-- Whether the word of a waiting context is a JOIN. -/
def isJoin (x : Ctx) : Bool := match decodeWord x.iw with | .instr _ (.join _) => true | _ => false

/-- A reply or a fault for a request of a thread: its pending destination, or the wait it ends. -/
def replyTo (s : State) (r : Req) (v : Except Trap (List Byte)) : State :=
  if !stillThere s r then s
  else
    let x := s.ctx r.t r.c
    if x.st = .waiting ∧ x.wait = .reply r.id then
      match v with
      | .error tr => deferFault s r.t r.c tr x.th.pc x.iw
      | .ok l => if isJoin x then joinDone s r.t r.c l else retireNext s r.t r.c
    else
      let (ps, th, fin) := answer r.id v x.pend x.th
      let s := s.setCtx r.t r.c { x with pend := ps, th := th }
      match fin with
      | some p => match p.bad with
        | some (_, tr) => deferFault s r.t r.c tr p.pc p.iw
        | none => settle s r.t r.c
      | none => s

/-- R234: the fault of a scattered store whose last request is acknowledged: that of its lowest faulting lane. -/
def lowestLane : List (Nat × Nat × Trap) → Option (Nat × Trap)
  | [] => none
  | (_, i, tr) :: r => match lowestLane r with
    | some (j, u) => if i ≤ j then some (i, tr) else some (j, u)
    | none => some (i, tr)
/-- The outstanding writes that pass a test, wherever their threads stand. -/
def outsWhere (s : State) (f : Out → Bool) : List Out :=
  (s.tiles.flatMap fun e => e.2.ctxs.flatMap fun y => y.2.outs.filter f) ++ (s.left.map (·.out)).filter f
/-- R236: the cause that an acknowledgement carries: the context that still holds the thread freezes, else a packet leaves. -/
def ackFault (s : State) (r : Req) (tr : Trap) : State :=
  if stillThere s r then deferFault s r.t r.c tr r.pc r.iw else asyncPacket s r.t r.c tr r.pc r.iw r.tid { async := true }
/-- R234: an acknowledged lane of a scattered store; with the last the fault of the lowest faulting lane is told. -/
def laneAck (s : State) (r : Req) (grp lane : Nat) (tr : Option Trap) : State :=
  let s := match tr with
    | some e => let s := learnPoison s e; { s with badLanes := s.badLanes ++ [(grp, lane, e.told e.addr)] }
    | none => s
  if (outsWhere s fun o => match o.lane with | some (g, _) => g == grp | none => false).isEmpty = false then s
  else
    match lowestLane (s.badLanes.filter fun e => e.1 == grp) with
    | some (_, e) => ackFault { s with badLanes := s.badLanes.filter fun e => e.1 != grp } r e
    | none => if stillThere s r then settle s r.t r.c else s
/-- R236: an acknowledgement that finds the thread out of its context: the write is no longer outstanding wherever the thread
stands. -/
def ackLeft (s : State) (r : Req) : State :=
  let s := { s with left := s.left.filter fun o => !(o.out.id == r.id && o.tid == r.tid) }
  let has (y : Ctx) : Bool := y.th.tid == r.tid && y.outs.any fun o => o.id == r.id
  match s.tiles.findSome? fun e => (e.2.ctxs.find? fun y => has y.2).map fun y => (e.1, y.1) with
  | some (t, c) => settle (s.modCtx t c fun x => { x with outs := x.outs.filter fun o => o.id != r.id }) t c
  | none => s
/-- R95: an outstanding write is acknowledged, with or without a cause. -/
def ackTo (s : State) (r : Req) (tr : Option Trap) : State :=
  let lane := (outsWhere s fun o => o.id == r.id).head?.bind (·.lane)
  let here := stillThere s r
  let s := if here then s.modCtx r.t r.c fun x => { x with outs := x.outs.filter fun o => o.id != r.id } else ackLeft s r
  match lane, tr with
  | some (g, i), tr => laneAck s r g i tr
  | none, some e => ackFault s r e
  | none, none => if here then settle s r.t r.c else s

/-- R94. -/
def execGetReply (n : Nat) (s : State) : Host.Outcome State Fault Refusal :=
  withPkt s n fun s p => match p.body with
    | .data r l => if p.src < 20000 then some (replyTo s r (.ok l)) else none
    | .bad r tr false => if p.src < 20000 then some (replyTo s r (.error tr)) else none
    | _ => none
/-- R143: a failing increment of a completion is only reported. The syndrome word is that of a poisoned word, else the status code. -/
def jobTold (s : State) (j : JobRef) (tr : Trap) : State :=
  asyncPacket s j.t j.c (if tr.cause = .poison then tr else { tr with syn := j.code }) j.pc j.iw j.tid { async := true, qjob := j.fromQueue }
/-- R95. -/
def execPutAck (n : Nat) (s : State) : Host.Outcome State Fault Refusal :=
  withPkt s n fun s p => match p.body with
    | .ack r => if p.src < 20000 then some (ackTo s r none) else none
    | .bad r tr true => if p.src < 20000 then some (ackTo s r (some tr)) else none
    | .incrBad j tr => some (jobTold s j tr)
    | _ => none
/-- R98: the reply or acknowledgement of an edge request. -/
def execEdgeReply (n : Nat) (s : State) : Host.Outcome State Fault Refusal :=
  withPkt s n fun s p => if p.src < 20000 then none else match p.body with
    | .data r l => some (replyTo s r (.ok l))
    | .ack r => some (ackTo s r none)
    | .bad r tr false => some (replyTo s r (.error tr))
    | .bad r tr true => some (ackTo s r (some tr))
    | _ => none

/-- R236: what one acknowledged entry means for a contributor. -/
def ackContrib (s : State) (t : Tile) (e : CombEnt) (tr : Option Trap) (w : Nat × BitVec 32 × Word × BitVec 96) : State :=
  let r : Req := { t := t, c := w.1, id := e.id, tid := w.2.1, pc := w.2.2.1, iw := w.2.2.2, priv := false, slot := 0, charge := t }
  ackTo s r tr
/-- R236: acknowledged entries of the combining buffer. -/
def execAtomicAck (n : Nat) (s : State) : Host.Outcome State Fault Refusal :=
  withPkt s n fun s p => match p.body with
    | .atomicAck l => some (l.foldl (fun s (e, tr) => e.who.foldl (fun s w => ackContrib s p.dst e tr w) s) s)
    | _ => none

end Sys2Proof.Machine
end

