-- ==== Sys2Proof/Machine/Ports.lean ====
section
/-! DEFINITION. Sys2Proof/Machine/Ports.lean: ports as operands (08 R162, R163, 10 R198), and the shape of the integer
families: operands read, result written, instruction retired (10 R197). -/

namespace Sys2Proof.Machine

def oppDir : Dir → Dir | .n => .s | .s => .n | .e => .w | .w => .e

/-- The tile that a neighbour pointer names (R40); none with NONE = 1. -/
def neighbour (x : TileSt) (d : Dir) : Option Tile :=
  let p := x.np d
  if bit p 63 then none else some (x.at (fld p 32 7) (fld p 40 6))

/-- The ports that some operands name. -/
def portsOf (l : List GP) : List Dir := l.filterMap fun | .port d => some d | .g _ => none
/-- The operand that B names, if a register or port. -/
def srcGps : Src → List GP | .reg x => [x] | .imm _ _ => []

/-- R162, R198: every port named must be held by the context; every word to be read must stand in its queue, and a port
destination needs a credit. -/
def checkPorts (s : State) (d : List GP) (srcs : List GP) : Except Stop Unit :=
  let x := s.tile s.cur.t
  let rd := portsOf srcs
  let wr := portsOf d
  if (rd ++ wr).any fun p => (x.port (Dir.num p)).owner != some s.cur.c then .error (.trap { cause := .port })
  else if rd.any fun p => decide ((x.port (Dir.num p)).q.length < rd.count p) then .error (.wait .retry)
  else if rd.any fun p => ((x.port (Dir.num p)).bad.take (rd.count p)).any id then .error (.trap (parityTrap 0))
  else if wr.any fun p => decide ((x.port (Dir.num p)).credits = 0) then .error (.wait .retry)
  else .ok ()

/-- R163: a word leaves the port's queue and its credit returns. -/
def readPort (s : State) (t : Tile) (d : Dir) : State × Word :=
  let p := (s.tile t).port (Dir.num d)
  let s := s.modTile t fun x => x.setPort (Dir.num d) { p with q := p.q.drop 1, bad := p.bad.drop 1 }
  let s := match neighbour (s.tile t) d with
    | some u => s.send t u 5 (.portCredit (oppDir d))
    | none => s
  (s, lget p.q 0 0)
/-- R163: a word is sent against a credit. -/
def writePort (s : State) (t : Tile) (d : Dir) (v : Word) : State :=
  let p := (s.tile t).port (Dir.num d)
  let s := s.modTile t fun x => x.setPort (Dir.num d) { p with credits := p.credits - 1 }
  match neighbour (s.tile t) d with
  | some u => s.send t u 5 (.portWord (oppDir d) v)
  | none => s

/-- The value of an operand; a port gives up one word (R198). -/
def readGP (s : State) : GP → State × Word
  | .g r => (s, rdG s.th r)
  | .port d => readPort s s.cur.t d
/-- The 64-bit value of operand B (R173). -/
def readSrc (s : State) : Src → State × Word
  | .reg x => readGP s x
  | .imm zx v => (s, immExt zx v)
/-- A result written to a register or sent through a port. -/
def writeGP (s : State) (d : GP) (v : Word) : State :=
  match d with
  | .g r => s.modTh fun th => wrG th r v
  | .port p => writePort s s.cur.t p v

/-- R197: an instruction with no source. -/
def op0 (s : State) (d : GP) (v : Word) : Host.Outcome State Fault Refusal :=
  finish s <| match checkPorts s [d] [] with
    | .error e => .error e
    | .ok _ => .ok (writeGP s d v).retire
/-- R197: an instruction with one source: the result from the thread and A's value. -/
def op1 (s : State) (d a : GP) (f : Thread → Word → Word) : Host.Outcome State Fault Refusal :=
  finish s <| match checkPorts s [d] [a] with
    | .error e => .error e
    | .ok _ => let (s1, x) := readGP s a; .ok (writeGP s1 d (f s.th x)).retire
/-- R197, R198: an instruction with two sources, A's port word read first. -/
def op2 (s : State) (d a : GP) (b : Src) (f : Thread → Word → Word → Word) : Host.Outcome State Fault Refusal :=
  finish s <| match checkPorts s [d] (a :: srcGps b) with
    | .error e => .error e
    | .ok _ => let (s1, x) := readGP s a; let (s2, y) := readSrc s1 b; .ok (writeGP s2 d (f s.th x y)).retire
/-- An instruction that changes the thread alone and retires. -/
def opTh (s : State) (f : Thread → Thread) : Host.Outcome State Fault Refusal := .next (s.modTh f).retire

end Sys2Proof.Machine
end

