-- ==== Sys2Proof/Machine/Deque.lean ====
section
/-! DEFINITION. Sys2Proof/Machine/Deque.lean: the deque of continuation records (08 R154), pushes and pops, spawning and
joining, major 0x30 (13 R271 to R275), SPAWNX records (08 R156) and balancing (R157). -/

namespace Sys2Proof.Machine

def spillSlot (n : Nat) : Nat := spillBase + 32 * (n % 65536)
/-- R154. -/
def depth (x : TileSt) : Nat := x.deque.length + x.spCount
/-- A record at the newest end of the spill ring. -/
def spillPush (s : State) (t : Tile) (r : Rec) : State :=
  let x := s.tile t
  (physPut s t (spillSlot (x.spHead + x.spCount)) (recBytes r)).modTile t fun y =>
    { y with spCount := y.spCount + 1, spJobs := y.spJobs ++ [r.tjob] }
/-- The record at a place of the spill ring, 0 the oldest. -/
def spillGet (s : State) (t : Tile) (i : Nat) : Rec :=
  let x := s.tile t
  { bytesRec (physGet s t (spillSlot (x.spHead + i)) 32) with tjob := lget x.spJobs i none }
/-- R55: n places of the spill ring are read. -/
def spillWake (s : State) (t : Tile) (i n : Nat) : State :=
  (List.range n).foldl (fun s k => physWake s t (spillSlot ((s.tile t).spHead + i + k)) 32) s
/-- R165: a thread or record more counts for a TUBER job. -/
def jobThreadNew (s : State) (tj : Option (Nat × Nat)) : State :=
  match tj with
  | none => s
  | some (jt, no) => s.modTile jt fun x => { x with jobs := x.jobs.map fun j => if j.order = no then { j with live := j.live + 1 } else j }
/-- R154: a push at the newest end; false when the deque is full. -/
def pushRec (s : State) (t : Tile) (r : Rec) : State × Bool :=
  let x := s.tile t
  if 65792 ≤ depth x then (s, false)
  else
    match x.deque with
    | o :: l =>
      if 256 ≤ x.deque.length then ((spillPush s t o).modTile t fun y => { y with deque := l ++ [r] }, true)
      else (s.modTile t fun y => { y with deque := x.deque ++ [r] }, true)
    | [] => (s.modTile t fun y => { y with deque := [r] }, true)
/-- R154: an empty SRAM part takes up to 128 of the ring's newest entries. -/
def refillSram (s : State) (t : Tile) : State :=
  let x := s.tile t
  if x.deque.isEmpty ∧ 0 < x.spCount then
    let k := min 128 x.spCount
    let n := x.spCount - k
    (spillWake s t n k).modTile t fun y => { y with deque := (List.range k).map fun i => spillGet s t (n + i), spCount := n, spJobs := y.spJobs.take n }
  else s
/-- R154: the newest entry. -/
def popRec (s : State) (t : Tile) : Option (Rec × State) :=
  let s := refillSram s t
  match (s.tile t).deque.getLast? with
  | some r => some (r, s.modTile t fun y => { y with deque := y.deque.dropLast })
  | none => none
/-- The oldest entry. -/
def takeOldest (s : State) (t : Tile) : Option (Rec × State) :=
  let x := s.tile t
  if 0 < x.spCount then
    some (spillGet s t 0, (spillWake s t 0 1).modTile t fun y =>
      { y with spHead := (y.spHead + 1) % 65536, spCount := y.spCount - 1, spJobs := y.spJobs.drop 1 })
  else match x.deque with
    | r :: l => some (r, s.modTile t fun y => { y with deque := l })
    | [] => none
/-- R157: an entry back at the oldest end, also when the deque has filled meanwhile: the spill ring's count then passes 65,536 and the
slot of its newest entry is overwritten (DESIGN CHOICE, log 104). -/
def putOldest (s : State) (t : Tile) (r : Rec) : State :=
  let x := s.tile t
  if x.spCount = 0 ∧ x.deque.length < 256 then s.modTile t fun y => { y with deque := r :: y.deque }
  else
    let h := (x.spHead + 65535) % 65536
    (physPut s t (spillSlot h) (recBytes r)).modTile t fun y =>
      { y with spHead := h, spCount := y.spCount + 1, spJobs := r.tjob :: y.spJobs }
/-- The first n entries from the oldest end. -/
def takeOldestN (t : Tile) : Nat → State → State × List Rec
  | 0, s => (s, [])
  | n + 1, s =>
    match takeOldest s t with
    | none => (s, [])
    | some (r, s) => let (s, l) := takeOldestN t n s; (s, r :: l)
/-- R157: entries pushed at the newest end until one is refused: those that stay out. -/
def pushAll (t : Tile) : List Rec → State → State × List Rec
  | [], s => (s, [])
  | r :: l, s =>
    match pushRec s t r with
    | (s, true) => pushAll t l s
    | (s, false) => (s, r :: l)

-- Spawning.
/-- R271: JCA is 0, or an 8-byte aligned address in vault or pane space inside the partition. -/
def jcaOk (s : State) (a : Word) : Bool :=
  let x := s.tile s.cur.t
  a == 0 || (decide (a.toNat % 8 = 0) && fld a 57 7 == 0 && decide (fld a 44 7 < x.pw) && decide (fld a 51 6 < x.phh) &&
    (fld a 40 4 == 0 || (fld a 40 4 == 2 && decide (fld a 0 40 < 0x40000))))
/-- R271: the record of a launch that operands and thread give. -/
def makeRec (th : Thread) (li : Nat) (cpc arg jca : Word) : Rec :=
  { lch := li % 64, cpc := BitVec.ofNat 58 cpc.toNat, fp := th.g[14], jca := jca, arg1 := BitVec.ofNat 32 (fld arg 32 32)
    arg0 := BitVec.ofNat 32 (fld arg 0 32), tjob := th.tjob }
/-- R272, R215: the thread's combining entries leave; whether nothing is pending or outstanding. -/
def spawnWaits (s : State) : State × Bool :=
  let s := flushCtx s s.cur.t s.cur.c
  (s, drained s s.cur.t s.cur.c)
/-- R272: a record pushed on this tile's deque, the outcome in pN. -/
def pushHere (s : State) (r : Rec) (pn : P) : State :=
  let (s, ok) := pushRec s s.cur.t r
  let s := if ok then jobThreadNew s r.tjob else s
  (s.modTh fun th => wrP th pn ok).retire
def spawnOp (s : State) (pn : P) (cpc arg jca : Word) : Except Stop State :=
  if !jcaOk s jca then .error (.trap { cause := .address, addr := jca })
  else
    let (s1, ok) := spawnWaits s
    if !ok then .ok (waitRetry s1)
    else match s.th.launch with
      | none => .ok (s1.modTh fun th => wrP th pn false).retire
      | some li => .ok (pushHere s1 (makeRec s.th li cpc arg jca) pn)
/-- R167: the code that a word offset names. -/
def labelPc (pc : Word) (off : BitVec 32) : Word := pc + 12 + 12 * simm off
def execSpawn (pn : P) (off : BitVec 32) (a : G) (b : G) (s : State) : Host.Outcome State Fault Refusal :=
  finish s (spawnOp s pn (labelPc s.th.pc off) (rdG s.th a) (rdG s.th b))
def execSpawnIndirect (pn : P) (d : G) (a : G) (b : G) (s : State) : Host.Outcome State Fault Refusal :=
  finish s (spawnOp s pn (rdG s.th d) (rdG s.th a) (rdG s.th b))
/-- R273, R374: the record goes to the deque of the home of an address. -/
def spawnxOp (s : State) (pn : P) (cpc arg jca tgt : Word) : Except Stop State :=
  if !jcaOk s jca then .error (.trap { cause := .address, addr := jca })
  else
    let (s1, ok) := spawnWaits s
    if !ok then .ok (waitRetry s1)
    else match s.th.launch with
      | none => .ok (s1.modTh fun th => wrP th pn false).retire
      | some li =>
        match resolve s s.cur.t (priv s) tgt aRead 1 with
        | .error e => .error (.trap e)
        | .ok (.edge _) => .error (.trap { cause := .address, addr := tgt })
        | .ok (.tile h _) =>
          let r := makeRec s.th li cpc arg jca
          let h := redirect s (s.tile s.cur.t).pid s.th.launch h
          if h = s.cur.t then .ok (pushHere s1 r pn)
          else .ok ((s1.nextReq.send s.cur.t h 3 (.spawnx (mkReq s1) r)).modMe fun c =>
            { c with st := .waiting, wait := .reply s1.reqNo })
def execSpawnx (pn : P) (off : BitVec 32) (a : G) (b : G) (d : G) (s : State) : Host.Outcome State Fault Refusal :=
  finish s (spawnxOp s pn (labelPc s.th.pc off) (rdG s.th a) (rdG s.th b) (rdG s.th d))

/-- R274. -/
def joinOp (s : State) (ea : Word) : Except Stop State :=
  match s.me.gang with
  | .leading _ | .following _ _ _ => .error (.trap { cause := .gang })
  | _ =>
    let t := s.cur.t
    let c := s.cur.c
    if s.me.joined = some s.th.pc then .ok (exitAfter s t c)
    else if ea = 0 then
      let (s1, ok) := spawnWaits s
      .ok (if ok && !streamDrains s1 t c then exitThread s1 t c else waitRetry s1)
    else match atomHome s ea 8 with
      | .error e => .error e
      | .ok (h, off) =>
        let (s1, ok) := spawnWaits s
        if !ok then .ok (waitRetry s1)
        else match placeAt s1 h off with
          | .error e => .error e
          | .ok (.message h) => .ok ((sendMsg s1 h ea .join).modMe fun c => { c with st := .waiting, wait := .reply s1.reqNo })
          | .ok (.here off) =>
            match homeOp s1 t off .join with
            | .error tr => .error (.trap { tr with addr := ea })
            | .ok (s2, .flag true) => .ok s2.retire
            | .ok (s2, _) => .ok (exitAfter s2 t c)
def execJoin (m : MemB) (s : State) : Host.Outcome State Fault Refusal := finish s (joinOp s (eaB s.th m))
/-- R275. -/
def execYield (s : State) : Host.Outcome State Fault Refusal := .next (s.modMe fun c => { c with yieldSkip := true }).retire

/-- R156: a record served at the home of its address; one that is pushed counts for the spawner's TUBER job (R165). -/
def execSpawnxRecord (t : Nat) (s : State) : Host.Outcome State Fault Refusal :=
  withHead s t fun s p => match p.body with
    | .spawnx r q =>
      if p.poisoned then some (s.send t r.t 4 (.bad r (parityTrap 0) false))
      else
        let (s, ok) := pushRec s t q
        let s := if ok then jobThreadNew s q.tjob else s
        some (s.send t r.t 4 (.spawnxRe r ok))
    | _ => none
/-- R273: the outcome in the predicate that the waiting SPAWNX names. -/
def spawnxPred (x : Ctx) : P := match decodeWord x.iw with | .instr _ (.spawnx pn _ _ _ _) => pn | _ => 0
/-- R273. -/
def spawnxDone (s : State) (r : Req) (ok : Bool) : State :=
  let x := s.ctx r.t r.c
  if stillThere s r ∧ x.st = .waiting ∧ x.wait = .reply r.id then
    retireNext (s.setCtx r.t r.c { x with th := wrP x.th (spawnxPred x) ok }) r.t r.c
  else s
def execSpawnxReply (n : Nat) (s : State) : Host.Outcome State Fault Refusal :=
  withPkt s n fun s p => match p.body with
    | .spawnxRe r ok => some (spawnxDone s r ok)
    | _ => none

-- Balancing (R157).
/-- The launches with entries in a tile's deque. -/
def dequeLaunches (s : State) (t : Tile) : List Nat :=
  let x := s.tile t
  (x.deque.map (·.lch) ++ (List.range x.spCount).map fun i => (spillGet s t i).lch).eraseDups
/-- The most restrictive domain of the launches with entries; 2 with none. -/
def balDomain (s : State) (t : Tile) : Nat :=
  match s.part (s.tile t).pid with
  | some p => (dequeLaunches s t).foldl (fun d l => match afind p.launches l with | some la => min d la.dom | none => d) 2
  | none => 0
/-- Whether a neighbour lies in a domain. -/
def inDomain (t u : Tile) (d : Nat) : Bool := if d = 1 then blockOf t == blockOf u else d == 2
/-- R374: whether records of a tile may be shipped to a neighbour: none of a victim launch to a held tile. -/
def mayShip (s : State) (t u : Tile) : Bool :=
  (dequeLaunches s t).all fun l => (holder s (s.tile t).pid (runNo s (s.tile t).pid l) u).isNone
/-- The neighbours in order, with their reported depths, that a shipment may go to. -/
def shipTargets (s : State) (t : Tile) : List (Tile × Nat) :=
  let x := s.tile t
  let d := balDomain s t
  ([Dir.n, Dir.e, Dir.s, Dir.w]).filterMap fun i =>
    match neighbour x i, afind x.depths (Dir.num i) with
    | some u, some k => if inDomain t u d && mayShip s t u then some (u, k) else none
    | _, _ => none
/-- The least depth, ties to the first. -/
def leastDepth : List (Tile × Nat) → Option (Tile × Nat)
  | [] => none
  | e :: r => match leastDepth r with
    | some f => if e.2 ≤ f.2 then some e else some f
    | none => some e
/-- R157, steps 1 and 2, after the depth has been sent to every neighbour. -/
def balance (s : State) (t : Tile) : State :=
  let x := s.tile t
  let s := ([Dir.n, Dir.e, Dir.s, Dir.w]).foldl (fun s d => match neighbour x d with
    | some u => s.send t u 4 (.depth (depth x))
    | none => s) s
  let s := s.modTile t fun y => { y with balAt := y.lcyc }
  match leastDepth (shipTargets s t) with
  | some (u, dmin) =>
    if 2 * dmin < depth x then
      let (s, l) := takeOldestN t (min ((depth x - dmin) / 2) 16) s
      if l.isEmpty then s else (s.modTile t fun y => { y with shipping := y.shipping ++ [(u, l)] }).send t u 3 (.ship l)
    else s
  | none => s
def execBalancePeriod (t : Nat) (s : State) : Host.Outcome State Fault Refusal :=
  let x := s.tile t
  if x.balAt + x.balInt ≤ x.lcyc then .next (balance s t) else .next s
/-- The direction in which a neighbour lies. -/
def dirsTo (x : TileSt) (u : Tile) : List Dir := ([Dir.n, Dir.e, Dir.s, Dir.w]).filter fun d => neighbour x d == some u
def execDepthReport (n : Nat) (s : State) : Host.Outcome State Fault Refusal :=
  withPkt s n fun s p => match p.body with
    | .depth d => some (s.modTile p.dst fun x =>
        { x with depths := (dirsTo x p.src).foldl (fun l i => aput l (Dir.num i) d) x.depths })
    | _ => none
/-- R157, step 3. Of a poisoned shipment the records before the first poisoned one are taken, a record to a flit (log 97). -/
def execBalanceShipment (t : Nat) (s : State) : Host.Outcome State Fault Refusal :=
  withHead s t fun s p => match p.body with
    | .ship l =>
      let good := ((l.zipIdx.takeWhile fun e => !p.bad.contains e.2).map (·.1))
      let (s, rest) := pushAll t good s
      some (s.send t p.src 4 (.shipRe (good.length - rest.length)))
    | _ => none
/-- The oldest shipment to a neighbour that has not been answered, and the others. -/
def takeShipment (u : Tile) : List (Tile × List Rec) → List Rec × List (Tile × List Rec)
  | [] => ([], [])
  | e :: r => if e.1 = u then (e.2, r) else let (l, k) := takeShipment u r; (l, e :: k)
/-- R157, step 4: refused entries go back at the oldest end, in their order. -/
def execShipmentReply (n : Nat) (s : State) : Host.Outcome State Fault Refusal :=
  withPkt s n fun s p => match p.body with
    | .shipRe k =>
      let (l, rest) := takeShipment p.src (s.tile p.dst).shipping
      let s := s.modTile p.dst fun x => { x with shipping := rest }
      some ((l.drop k).foldr (fun r s => putOldest s p.dst r) s)
    | _ => none

end Sys2Proof.Machine
end

