-- ==== Sys2Proof/Machine/Handler.lean ====
section
/-! DEFINITION. Sys2Proof/Machine/Handler.lean: what the handler of a home does for requests (05 R94 to R97, 11 R225), the
deferred lists' records, wakes and returns (06 R107 to R110), counters' increments (R117), binding snapshots (R113). -/

namespace Sys2Proof.Machine

/-- R94: pieces read at their home; the fault of the piece that fails. -/
def getPieces (s : State) (t : Tile) : List (Word × Nat) → Except Trap (State × List Byte)
  | [] => .ok (s, [])
  | (a, n) :: r =>
    match readHome s t (fld a 0 44) n aRead with
    | .error e => .error { e with addr := a }
    | .ok (s, b) =>
      match getPieces s t r with
      | .error e => .error e
      | .ok (s, c) => .ok (s, b ++ c)
/-- R95: pieces written at their home, none if one fails (R121). -/
def putPieces (s : State) (t : Tile) : List (Word × Nat) → List Byte → Except Trap State
  | [], _ => .ok s
  | (a, n) :: r, l =>
    match writeHome s t (fld a 0 44) (l.take n) aWrite with
    | .error e => .error { e with addr := a }
    | .ok s => putPieces s t r (l.drop n)
/-- R76, R120: pieces of one granule are one write access. -/
def putRequestAt (s : State) (t : Tile) (ps : List (Word × Nat)) (l : List Byte) : Except Trap State :=
  match putPieces s t ps l with
  | .error e => .error e
  | .ok s1 =>
    match ps with
    | (a, _) :: r => .ok (if r.all fun e => e.1.toNat / 16 == a.toNat / 16 then genOnce s s1 t else s1)
    | [] => .ok s1

/-- A write request at its home; the data that a crossbar has poisoned on their way are stored poisoned (R58). -/
def putBadAt (s : State) (t : Tile) (ps : List (Word × Nat)) (l : List Byte) (p : Packet) : Except Trap State :=
  match putRequestAt s t ps l with
  | .error e => .error e
  | .ok s => .ok (p.poisonPieces (fun s a n => poisonHome s t (fld a 0 44) n) s 0 ps)
/-- A reply of the handler on VC4. -/
def reply (s : State) (t : Tile) (r : Req) (b : Body) : State := s.send t r.t 4 b

/-- R94. -/
def execGetRequest (t : Nat) (s : State) : Host.Outcome State Fault Refusal :=
  withHead s t fun s p => match p.body with
    | .get r ps => some (match getPieces s t ps with
      | .ok (s, l) => reply s t r (.data r l)
      | .error tr => reply (learnPoison s tr) t r (.bad r (tr.told tr.addr) false))
    | _ => none
/-- R95. -/
def execPutRequest (t : Nat) (s : State) : Host.Outcome State Fault Refusal :=
  withHead s t fun s p => match p.body with
    | .put r ps l => some (match putBadAt s t ps l p with
      | .ok s => reply s t r (.ack r)
      | .error tr => reply (learnPoison s tr) t r (.bad r (tr.told tr.addr) true))
    | _ => none
/-- R95: the write, its acknowledgement, then the increment. -/
def execPutcRequest (t : Nat) (s : State) : Host.Outcome State Fault Refusal :=
  withHead s t fun s p => match p.body with
    | .putc r ps l cnt n => some (match putBadAt s t ps l p with
      | .ok s => sendIncr (reply s t r (.ack r)) t t (some r) cnt n
      | .error tr => reply (learnPoison s tr) t r (.bad r (tr.told tr.addr) true))
    | _ => none

/-- The bytes of an answer. -/
def resBytes : SRes → List Byte
  | .val v => wBytes v
  | .flag b => [BitVec.ofNat 8 (b2n b)]
  | .tried (some v) => wBytes v ++ [1]
  | .tried none => wBytes 0 ++ [0]
  | _ => []
/-- Whether the operation of a message is acknowledged as a write, with no answer. -/
def ackOnly : MsgOp → Bool | .sete => true | _ => false
/-- The g register that a waiting operation names (Table 6.2). -/
def opDreg : MsgOp → Nat | .take d | .peek d => d | _ => 0
/-- R225, R108: a handler message performed at its home; a pinned waiter leaves only its record. -/
def messageAt (s : State) (t : Tile) (r : Req) (a : Word) (op : MsgOp) : State :=
  match homeOp s t (fld a 0 44) op with
  | .error tr => reply (learnPoison s tr) t r (.bad r (tr.told a) (ackOnly op))
  | .ok (s, .waits k tgt) =>
    appendWaiter s t (fld a 0 40)
      { kind := k, tgt := tgt, waddr := a, charge := r.charge, slot := r.slot, tid := r.tid, pin := true, ctx := r.c, ctxTile := r.t
        reqId := r.id, dreg := opDreg op } none
  | .ok (s, v) => reply s t r (if ackOnly op then .ack r else .data r (resBytes v))
def execHandlerMessage (t : Nat) (s : State) : Host.Outcome State Fault Refusal :=
  withHead s t fun s p => match p.body with
    | .msg r a op => some (if p.poisoned then reply s t r (.bad r (parityTrap a) (ackOnly op)) else messageAt s t r a op)
    | _ => none

/-- R113: a binding query, answered with the word's snapshot (R112); the checks of the GIVE's page are the GIVE's. -/
def execBindingQuery (t : Nat) (s : State) : Host.Outcome State Fault Refusal :=
  withHead s t fun s p => match p.body with
    | .bquery r a => some (reply s t r (.bsnap r ((bindingsOf s t (fld a 0 44)).map fun e => (e.1, e.2.toNat))))
    | _ => none
/-- R113: the snapshot has come; the GIVE issues again with it. -/
def execBindingSnapshot (n : Nat) (s : State) : Host.Outcome State Fault Refusal :=
  withPkt s n fun s p => match p.body with
    | .bsnap r l =>
      let x := s.ctx r.t r.c
      some (if stillThere s r ∧ x.wait = .snapshot r.id then
        s.setCtx r.t r.c { x with wait := .retry, snap := some (l.map fun e => (e.1, w64 e.2)) } else s)
    | _ => none

/-- R97: an entry older than DRAIN_INT leaves the combining buffer. R97 gives the latest moment only; here no entry leaves by itself
before it (DESIGN CHOICE, log 100). -/
def execCombiningFlush (t : Nat) (e : Nat) (s : State) : Host.Outcome State Fault Refusal :=
  match (s.tile t).comb[e]? with
  | none => .next s
  | some f =>
    if f.born + (s.tile t).drainInt ≤ (s.tile t).lcyc then .next (flushWhere s t fun g => g.id == f.id) else .next s
/-- R96: entries applied in order, each with its result; a poisoned one, an entry to a flit (log 97), is not. -/
def applyAll (h : Tile) (bad : List Nat) : List (CombEnt × Nat) → State → State × List (CombEnt × Option Trap)
  | [], s => (s, [])
  | (e, i) :: r, s =>
    if bad.contains i then let (s, l) := applyAll h bad r s; (s, (e, some (parityTrap e.addr)) :: l)
    else match applyComb s h e with
    | .ok s => let (s, l) := applyAll h bad r s; (s, (e, none) :: l)
    | .error tr => let (s, l) := applyAll h bad r (learnPoison s tr); (s, (e, some (tr.told tr.addr)) :: l)
/-- R96: the home applies flushed entries and acknowledges them. -/
def execAtomicFlush (t : Nat) (s : State) : Host.Outcome State Fault Refusal :=
  withHead s t fun s p => match p.body with
    | .flush l =>
      let (s, res) := applyAll t p.bad l.zipIdx s
      some (s.send t p.src 4 (.atomicAck res))
    | _ => none

/-- R95, R117: an increment at a counter's home; one that fails is answered to its issuer. -/
def execCounterIncrement (n : Nat) (s : State) : Host.Outcome State Fault Refusal :=
  withPkt s n fun s p => match p.body with
    | .incr r a k serves => some (match (if serves then incrHome s p.dst (fld a 0 44) k else addHome s p.dst (fld a 0 44) k) with
      | .ok s => s
      | .error tr => match r with
        | some q => reply (learnPoison s tr) p.dst q (.bad q (tr.told a) true)
        | none => learnPoison s tr)
    | .incrFor j a k => some (match incrHome s p.dst (fld a 0 44) k with
      | .ok s => s
      | .error tr => (learnPoison s tr).send p.dst j.t 4 (.incrBad j (tr.told a)))
    | _ => none

/-- R108: a wait record, and an unpinned waiter's pod, written into the slot at the charge tile. -/
def execWaitRecordDeposit (n : Nat) (s : State) : Host.Outcome State Fault Refusal :=
  withPkt s n fun s p => match p.body with
    | .waitDeposit e th =>
      some (putRecord s p.dst e (th.map fun h => h.reaches s p.src p.dst))
    | _ => none
/-- R108: a link update of a record of this tile. -/
def execLinkUpdate (n : Nat) (s : State) : Host.Outcome State Fault Refusal :=
  withPkt s n fun s p => match p.body with
    | .link slot off v => some (putLink s p.dst slot off v.toNat)
    | _ => none

/-- The word of a waiter's slot is still the record of an entry. -/
def recordHere (s : State) (t : Tile) (e : DefEnt) : Option ParkSt :=
  match afind (s.tile t).park e.slot with
  | some k => match k.waiting with
    | some w => if w.tid = e.tid ∧ w.reqId = e.reqId ∧ w.waddr = e.waddr ∧ w.pin = e.pin then some k else none
    | none => none
  | none => none
/-- R109: the value into the register gDREG of the pod that stands in a slot, its PC past the waiting instruction, its KIND 00. -/
def wakeSlot (s : State) (t : Tile) (e : DefEnt) (v : Option Word) : State :=
  let a := parkSlot e.slot
  let h := leWord (physGet s t a 8)
  let s := match v with
    | some w => if e.dreg = 0 then s else physPut s t (a + 24 + 8 * e.dreg) (wBytes w)
    | none => s
  physPut s t a (wBytes (w64 (fld h 60 4 * 2 ^ 60 + (fld h 0 58 + 12) % 2 ^ 58)))
/-- R109, R110: a wake at the charge tile; bad tells that a crossbar has poisoned its value (03 R58). -/
def wakeAt (s : State) (t : Tile) (e : DefEnt) (v : Option Word) (bad : Bool) : State :=
  match recordHere s t e with
  | some k =>
    if e.pin && bad then
      let r : Req := { t := e.ctxTile, c := e.ctx, id := e.reqId, tid := e.tid, pc := 0, iw := 0, priv := false, slot := e.slot, charge := t }
      let s := clearRecord s t e.slot
      if e.ctxTile = t then replyTo s r (.error (parityTrap e.waddr)) else s.send t e.ctxTile 4 (.bad r (parityTrap e.waddr) false)
    else if e.pin then
      let r : Req := { t := e.ctxTile, c := e.ctx, id := e.reqId, tid := e.tid, pc := 0, iw := 0, priv := false, slot := e.slot, charge := t }
      let s := clearRecord s t e.slot
      if e.ctxTile = t then replyTo s r (.ok (match v with | some w => wBytes w | none => []))
      else s.send t e.ctxTile 4 (.data r (match v with | some w => wBytes w | none => []))
    else
      let side := if bad then { k.side with bad := some .poison } else k.side
      let s := wakeSlot (clearRecord (physWake s t (parkSlot e.slot) 1024) t e.slot) t e v
      let (th, why) := slotPod s t e.slot side
      let dst := redirect s (s.tile t).pid th.launch (parkDst s t e.slot)
      let s := moveParkDst s t e.slot dst
      let s := s.modTile t fun x => { x with park := aput x.park e.slot { k with waiting := none, side := side } }
      s.send t dst 0 (.pod (th.leaves s t dst) 0 (some (t, e.slot)) why)
  | none =>
    match v, e.kind with
    | some w, .take => s.send t (tileOf s t e.waddr) 4 (.wakeRet e.waddr w)
    | _, _ => s
/-- Whether the deposit of a waiter's record is still on its way to a tile. -/
def depositComing (s : State) (t : Tile) (e : DefEnt) : Bool :=
  s.inNet fun q => q.dst == t && (match q.body with | .waitDeposit f _ => f == e | _ => false)
/-- R109: a wake that overtakes its record's deposit (VC4 before VC2) is served once the record stands (log 80). -/
def execWake (n : Nat) (s : State) : Host.Outcome State Fault Refusal :=
  withPkt s n fun s p => match p.body with
    | .wake e v => if depositComing s p.dst e then none else some (wakeAt s p.dst e v p.poisoned)
    | _ => none
/-- R110: a TAKE value that came back is served as a GIVE at that moment. -/
def execWakeReturn (n : Nat) (s : State) : Host.Outcome State Fault Refusal :=
  withPkt s n fun s p => match p.body with
    | .wakeRet a v => some (match homeOp s p.dst (fld a 0 44) (.give v) with
      | .ok (s, _) => if p.poisoned then poisonHome s p.dst (fld a 0 44) 8 else s
      | .error _ => s)
    | _ => none

end Sys2Proof.Machine
end

