-- ==== Sys2Proof/Machine/Migrate.lean ====
section
/-! DEFINITION. Sys2Proof/Machine/Migrate.lean: pods at their home and at their origin (05 R80 to R92): installation, the
arrival ring, refusal, the hold timer, the park ring, charges. -/

namespace Sys2Proof.Machine

/-- Whether a user context is free. -/
def isFree (x : TileSt) (c : Nat) : Bool := match afind x.ctxs c with | some y => y.st == .free | none => true
/-- R405: the population that has been installed on an empty tile and has threads left for contexts of their own. -/
def placing (x : TileSt) : Option (Pop × Nat) := x.pops.zipIdx.find? fun e => e.1.placed && decide (e.1.made < min e.1.quota 30)
/-- R405: whether a context is kept for such a thread. -/
def kept (x : TileSt) (c : Nat) : Bool :=
  match placing x with
  | some (p, _) => decide (p.made ≤ c) && decide (c < p.quota)
  | none => false
/-- The lowest free user context (log 11) that is not kept for a population. -/
def freeUser (x : TileSt) : Option Nat := (List.range 30).find? fun c => isFree x c && !kept x c

/-- R82, R58: a pod installed in a context; an edited one that breaks the format, or one that a crossbar has poisoned, is installed
frozen. -/
def installPod (s : State) (t c : Nat) (th : Thread) (bad : Option Cause) : State :=
  let x := s.tile t
  let s := takeOuts (s.setCtx t c (Ctx.ofThread (installTh x th) x.lcyc)) t c
  match bad with
  | some .poison => freeze s t c (parityTrap 0) th.pc 0
  | some k => freeze s t c { cause := k } th.pc 0
  | none => s

/-- R86: the charge of an accepted pod moves to the home that has room. -/
def moveCharge (s : State) (t : Tile) (th : Thread) : State × Thread :=
  let x := s.tile t
  if chargeTile s t th = t then (s, th)
  else match takeCharge x with
    | some (n, x') =>
      (releaseCharge (s.setTile t x') t th, { th with cx := BitVec.ofNat 7 x.lx, cy := BitVec.ofNat 6 x.ly, slot := n })
    | none => (s, th)

-- The arrival ring (R85, R88).
def arrSlot (n : Nat) : Nat := arrBase + 1024 * (n % 4096)
/-- A pod into the ring's tail. -/
def ringPut (s : State) (t : Tile) (th : Thread) (kind : BitVec 2) (bad : Option Cause) : State :=
  let x := s.tile t
  let a := arrSlot (x.arrHead + x.arrSides.length)
  (physPut (physPut s t a (podBytes th kind)) t (a + 1016) (wBytes (1#64 <<< 63))).modTile t fun y =>
    { y with arrSides := y.arrSides ++ [{ sideOf th with bad := bad }] }
/-- The pod at a place of the ring, with the cause with which it will be installed frozen; none where its slot word was edited to hold
none. -/
def ringPod (s : State) (t : Tile) (i : Nat) (sd : Side) : Option (Thread × Option Cause) :=
  let x := s.tile t
  let b := physGet s t (arrSlot (x.arrHead + i)) 672
  let w := leWord (physGet s t (arrSlot (x.arrHead + i) + 1016) 8)
  if bit w 63 then some (podThread b sd, if podBad x b || slotReserved w then some .podFormat else sd.bad) else none
/-- The pod at the head of the ring; its slot is free. -/
def ringTake (s : State) (t : Tile) : Option (Option (Thread × Option Cause) × State) :=
  match (s.tile t).arrSides with
  | [] => none
  | sd :: r =>
    let s := physWake s t (arrSlot (s.tile t).arrHead) 672
    some (ringPod s t 0 sd, (physPut s t (arrSlot (s.tile t).arrHead + 1016) (wBytes 0)).modTile t fun y =>
      { y with arrSides := r, arrHead := (y.arrHead + 1) % 4096 })
/-- R82: a pod of another partition number is discarded and reported to firmware; its charge ends. -/
def discardPod (s : State) (t : Tile) (th : Thread) : State :=
  releaseCharge (sendPacket s t (fwSite (fieldOf t)) (packetWords s t 0 { cause := .partition } th.pc 0 th.tid {} false)) t th
/-- R82: whether a pod's PID is that of its home. -/
def podHere (s : State) (t : Tile) (th : Thread) : Bool := th.pid.toNat == (s.tile t).pid
/-- R85: free user contexts are filled from the ring before the home takes another thread; each freed slot sends a notice. -/
def fillRing (t : Tile) : Nat → State → State
  | 0, s => s
  | n + 1, s =>
    match freeUser (s.tile t) with
    | none => s
    | some c => match ringTake s t with
      | none => s
      | some (some (th, bad), s) => fillRing t n (sendNotice (if podHere s t th then installPod s t c th bad else discardPod s t th) t)
      | some (none, s) => fillRing t n (sendNotice s t)

/-- R85: ACCEPT to the origin's context or park-ring slot. -/
def sendAccept (s : State) (t : Tile) (src : Nat) (tid : BitVec 32) : Option (Nat × Nat) → State
  | none => s.send t src 1 (.accept tid)
  | some (_, n) => s.send t src 1 (.acceptSlot n)
/-- R85: REFUSE, and the origin on the notice list. -/
def sendRefuse (s : State) (t : Tile) (src : Nat) (tid : BitVec 32) (fromSlot : Option (Nat × Nat)) : State :=
  let s := s.modTile t fun x => { x with notices := if x.notices.contains src then x.notices else x.notices ++ [src] }
  match fromSlot with
  | none => s.send t src 1 (.refuse tid)
  | some (_, n) => s.send t src 1 (.refuseSlot n)

/-- R82, R85: a pod at its home, with the cause with which it is to be installed frozen. -/
def podAt (s : State) (t src : Nat) (th : Thread) (kind : BitVec 2) (fromSlot : Option (Nat × Nat)) (bad : Option Cause) : State :=
  if podHere s t th = false then discardPod (sendAccept s t src th.tid fromSlot) t th
  else
    let th := th.reaches s src t
    let s := fillRing t 30 s
    match freeUser (s.tile t) with
    | some c =>
      let s := sendAccept s t src th.tid fromSlot
      let (s, th) := moveCharge s t th
      installPod s t c th bad
    | none =>
      if (s.tile t).arrSides.length < 4096 then
        let s := sendAccept s t src th.tid fromSlot
        let (s, th) := moveCharge s t th
        ringPut s t th kind bad
      else sendRefuse s t src th.tid fromSlot
def execPodArrival (n : Nat) (s : State) : Host.Outcome State Fault Refusal :=
  withPkt s n fun s p => match p.body with
    | .pod th kind fromSlot bad => some (podAt s p.dst p.src th kind fromSlot (if p.poisoned then some .poison else bad))
    | _ => none

/-- The held context whose pod is on its way and carries a thread. -/
def heldCtx (s : State) (t : Tile) (tid : BitVec 32) : Option Nat :=
  ((s.tile t).ctxs.find? fun e => e.2.st == .held && e.2.th.tid == tid).map (·.1)
/-- 17 R373, 15 R320: a pod that the tile has sent from no context is no longer the tile's. -/
def dropMoving (s : State) (t : Tile) (tid : BitVec 32) : State :=
  s.modTile t fun x => { x with moving := x.moving.filter fun e => e.1.tid != tid }
/-- R89: the origin's context is free; a park-ring slot is free again (R87). -/
def execAccept (n : Nat) (s : State) : Host.Outcome State Fault Refusal :=
  withPkt s n fun s p => match p.body with
    | .accept tid => some (match heldCtx s p.dst tid with
      | some c => freeCtx s p.dst c
      | none => dropMoving s p.dst tid)
    | .acceptSlot k => some (freeSlot s p.dst k)
    | _ => none
/-- R87: the thread is held, refused; a STOP meanwhile takes effect (R365). -/
def refusedAt (s : State) (t c : Nat) : State :=
  let now := (s.tile t).lcyc
  let s := s.modCtx t c fun x =>
    { x with st := .refused
             mig := x.mig.map fun m => { m with firstRefused := some (m.firstRefused.getD now), refusals := m.refusals + 1 } }
  if (s.ctx t c).stopReq then freeze s t c { cause := .supStop } (s.ctx t c).th.pc 0 else s
/-- A refused pod is sent again, to where R374 sends it now. -/
def resend (s : State) (t c : Nat) : State :=
  let x := s.ctx t c
  match x.st, x.mig with
  | .refused, some m =>
    let dst := redirect s (s.tile t).pid x.th.launch m.dst
    (s.setCtx t c { x with st := .held, mig := some { m with dst := dst } }).send t dst 0 (.pod ((podFor s t x m dst).leaves s t dst) m.kind none none)
  | _, _ => s
/-- A parked pod is sent, or sent again, to where R374 sends it now. -/
def sendParked (s : State) (t slot : Nat) : State :=
  match afind (s.tile t).park slot with
  | some q =>
    let s := physWake s t (parkSlot slot) 1024
    let (th, why) := slotPod s t slot q.side
    let kind := BitVec.ofNat 2 (fld (leWord (physGet s t (parkSlot slot) 8)) 58 2)
    let dst := redirect s (s.tile t).pid q.side.launch (parkDst s t slot)
    if parkValid s t slot then
      ((moveParkDst s t slot dst).modTile t fun x => { x with park := aput x.park slot { q with refused := false } }).send t dst 0
        (.pod (th.leaves s t dst) kind (some (t, slot)) why)
    else s
  | none => s
/-- Entries in the order of a number, the least first. -/
def insertBy (e : Nat × Nat) : List (Nat × Nat) → List (Nat × Nat)
  | [] => [e]
  | f :: r => if e.1 ≤ f.1 then e :: f :: r else f :: insertBy e r
def orderBy (l : List (Nat × Nat)) : List Nat := (l.foldr insertBy []).map (·.2)
/-- R87: a notice: every pod that its home refused is sent again, oldest first. Pods first refused at the same LCYC go in the order
of their contexts, and a pod of a park slot counts its age from when its slot was first filled (DESIGN CHOICE, log 99). -/
def noticeAt (s : State) (t home : Nat) : State :=
  let x := s.tile t
  let held := x.ctxs.filterMap fun e => match e.2.st, e.2.mig with
    | .refused, some m => if m.dst = home then some (m.firstRefused.getD 0, e.1) else none
    | _, _ => none
  let parked := x.park.filterMap fun e => if e.2.refused && e.2.hasPod && parkDst s t e.1 == home then some (e.2.seq, e.1) else none
  let s := (orderBy held).foldl (fun s c => resend s t c) s
  (orderBy parked).foldl (fun s k => sendParked s t k) s
def execContextFreeNotice (n : Nat) (s : State) : Host.Outcome State Fault Refusal :=
  withPkt s n fun s p => match p.body with
    | .freeNotice => some (noticeAt s p.dst p.src)
    | _ => none

/-- R87: a pod into the park ring of its charge tile, which sends it on. -/
def parkAt (s : State) (t : Tile) (th : Thread) (kind : BitVec 2) (dst : Tile) (bad : Option Cause) : State :=
  let th := { th with parked := true }
  let a := parkSlot th.slot
  let s := putParkDst (physPut s t a (podBytes th kind)) t th.slot dst
  let q : ParkSt := { side := { sideOf th with bad := bad }, waiting := none, hasPod := true, refused := false, seq := s.reqNo }
  sendParked (s.nextReq.modTile t fun y => { y with park := aput y.park th.slot q }) t th.slot
/-- R87: a refused thread leaves its context for the park ring. -/
def parkCtx (s : State) (t c : Nat) : State :=
  let x := s.ctx t c
  match x.mig with
  | some m =>
    let th := podFor s t x m m.dst
    let ct := chargeTile s t x.th
    let s := freeCtx s t c
    if ct = t then parkAt s t th m.kind m.dst none else s.send t ct 2 (.parkDeposit (th.leaves s t ct) m.kind m.dst none)
  | none => s
/-- 17 R373, 15 R320: a refused pod that has no context to be held in parks at once (log 63). -/
def refusedMove (s : State) (t : Tile) (tid : BitVec 32) : State :=
  match (s.tile t).moving.find? fun e => e.1.tid == tid with
  | some (th, dst, bad) =>
    let ct := chargeTile s t th
    let kind : BitVec 2 := if th.rel then 3 else 0
    let s := dropMoving s t tid
    if ct = t then parkAt s t th kind dst bad else s.send t ct 2 (.parkDeposit (th.leaves s t ct) kind dst bad)
  | none => s
def execRefuse (n : Nat) (s : State) : Host.Outcome State Fault Refusal :=
  withPkt s n fun s p => match p.body with
    | .refuse tid => some (match heldCtx s p.dst tid with
      | some c => refusedAt s p.dst c
      | none => refusedMove s p.dst tid)
    | .refuseSlot k => some (s.modTile p.dst fun x => match afind x.park k with
      | some q => { x with park := aput x.park k { q with refused := true } }
      | none => x)
    | _ => none

/-- R87, R89: HOLD_LIMIT has passed since the first refusal. -/
def execPark (t : Nat) (c : Nat) (s : State) : Host.Outcome State Fault Refusal :=
  let x := s.ctx t c
  match x.st, x.mig with
  | .refused, some m =>
    match m.firstRefused with
    | some n => if n + (s.tile t).holdLimit ≤ (s.tile t).lcyc then .next (parkCtx s t c) else .next s
    | none => .next s
  | _, _ => .next s
def execParkDeposit (n : Nat) (s : State) : Host.Outcome State Fault Refusal :=
  withPkt s n fun s p => match p.body with
    | .parkDeposit th kind dst bad => some (parkAt s p.dst (th.reaches s p.src p.dst) kind dst (if p.poisoned then some .poison else bad))
    | _ => none
/-- R86. -/
def execChargeRelease (n : Nat) (s : State) : Host.Outcome State Fault Refusal :=
  withPkt s n fun s p => match p.body with
    | .chargeRelease k => some (s.modTile p.dst fun x => { x with slots := sdel x.slots k })
    | _ => none
/-- R92. -/
def execPinSpanExpiry (t : Nat) (c : Nat) (s : State) : Host.Outcome State Fault Refusal :=
  let th := (s.ctx t c).th
  if th.apin && th.pspan == 0 then .next (s.modCtx t c fun x => { x with th := { x.th with apin := false } }) else .next s

end Sys2Proof.Machine
end

