-- ==== Sys2Proof/Machine/Panes.lean ====
section
/-! DEFINITION. Sys2Proof/Machine/Panes.lean: panes and streams, major 0x34 (13 R279 to R285, 03 R44 to R48), the grant of
waiting claims and the stream copy unit. -/

namespace Sys2Proof.Machine

def Pane.slot (p : Pane) (i : Nat) : Slot := aget p.slots i .empty
def Pane.setSlot (p : Pane) (i : Nat) (v : Slot) : Pane :=
  { p with slots := if v = .empty then adel p.slots i else aput p.slots i v }
/-- Slot size in bytes (R44). -/
def Pane.bytes (p : Pane) : Nat := 256 * 2 ^ p.ssz
/-- The pane-space offset of a slot. -/
def Pane.at (p : Pane) (i : Nat) : Nat := 256 * p.base + i * p.bytes
def Pane.count (p : Pane) (v : Slot) : Nat := p.slots.countP fun e => e.2 == v
def Pane.ptr (p : Pane) (prod : Bool) : Nat := if prod then p.pptr else p.cptr
def Pane.cur (p : Pane) (prod : Bool) : Nat := if prod then p.pcur else p.ccur
def Pane.setPtr (p : Pane) (prod : Bool) (n : Nat) : Pane := if prod then { p with pptr := n } else { p with cptr := n }
def Pane.setCur (p : Pane) (prod : Bool) (n : Nat) : Pane := if prod then { p with pcur := n } else { p with ccur := n }
/-- The states a claim needs and leaves, and the state an advance leaves (Table 3.3). -/
def needs (prod : Bool) : Slot := if prod then .empty else .ready
def takes (prod : Bool) : Slot := if prod then .filling else .draining
def leaves (prod : Bool) : Slot := if prod then .ready else .empty
/-- The n slots from the pointer of a side, in ring order. -/
def Pane.run (p : Pane) (prod : Bool) (n : Nat) : List Nat := (List.range n).map fun i => (p.ptr prod + i) % p.nslot
/-- R45: whether a claim's slots are all in the required state. -/
def Pane.canClaim (p : Pane) (prod : Bool) (n : Nat) : Bool := (p.run prod n).all fun i => p.slot i == needs prod
/-- R45: the claim takes its slots and moves the pointer. -/
def Pane.claim (p : Pane) (prod : Bool) (n : Nat) : Pane :=
  ((p.run prod n).foldl (fun q i => q.setSlot i (takes prod)) p).setPtr prod ((p.ptr prod + n) % p.nslot)
/-- The n oldest claimed slots of a side: they stand behind the pointer. -/
def Pane.oldest (p : Pane) (prod : Bool) (n : Nat) : List Nat :=
  (List.range n).map fun i => (p.ptr prod + p.nslot - p.count (takes prod) + i) % p.nslot
/-- Table 3.3: an advance. -/
def Pane.advance (p : Pane) (prod : Bool) (n : Nat) : Pane :=
  (p.oldest prod n).foldl (fun q i => q.setSlot i (leaves prod)) p
/-- Whether an earlier claim of a side still waits. -/
def Pane.queued (p : Pane) (prod : Bool) : Bool := p.claims.any fun q => q.prod == prod

/-- Table 3.2. -/
def paneWord (p : Pane) : Word :=
  w64 (p.mode.toNat * 2 ^ 62 + b2n p.serr * 2 ^ 61 + b2n p.send * 2 ^ 60 + p.cptr * 2 ^ 40 + p.pptr * 2 ^ 29 + p.nslot * 2 ^ 18 +
    p.ssz * 2 ^ 15 + p.base)
/-- R283: the global address of a slot at a tile. -/
def slotAddr (x : TileSt) (p : Pane) (i : Nat) : Word := x.here (2 * 2 ^ 40 + p.at i)

/-- R44, R280: the pane that a configuration word names. -/
def paneOf (v : Word) : Pane :=
  { Pane.off with mode := BitVec.ofNat 2 (fld v 62 2), nslot := fld v 18 11, ssz := fld v 15 3, base := fld v 0 10 }
def paneOk (x : TileSt) (h : Nat) (v : Word) : Bool :=
  let p := paneOf v
  fld v 29 33 == 0 && fld v 10 5 == 0 && p.mode != 3 && p.ssz != 7 && decide (p.nslot ≤ 1024) && (p.nslot != 0 || p.mode == 0) &&
    decide (256 * p.base % p.bytes = 0) && decide (256 * p.base + p.nslot * p.bytes ≤ 0x40000) &&
    x.panes.all fun e => e.1 == h || e.2.mode == 0 || p.nslot == 0 ||
      !meets (256 * p.base) (p.nslot * p.bytes) (256 * e.2.base) (e.2.nslot * e.2.bytes)
/-- R280. -/
def execPcfg (h : H) (a : G) (s : State) : Host.Outcome State Fault Refusal :=
  let x := s.tile s.cur.t
  let v := rdG s.th a
  let p := x.pane h.val
  finish s <| if !paneOk x h.val v then .error (.trap { cause := .pane })
    else if 0 < p.count .filling ∨ 0 < p.count .draining ∨ p.claims.isEmpty = false ∨ p.stream.isSome = true then
      .error (.trap { cause := .paneBusy })
    else .ok ((exitArr s s.cur.t (.pane h)).modTile s.cur.t fun x => x.setPane h.val (paneOf v)).retire
/-- R285. -/
def execPstat (c : Bool) (d : G) (h : H) (s : State) : Host.Outcome State Fault Refusal :=
  let p := (s.tile s.cur.t).pane h.val
  .next (s.modTh fun th => wrG th d (if c then w64 (p.pcur * 256 + p.ccur) else paneWord p)).retire

-- Claims. What follows a claim: 0 the slot's address into a g register, 1 VPOP, 2 VPUSH.
/-- R48: a consumer claim that needs the slot of the element that failed. -/
def needsFailed (p : Pane) (n : Nat) : Bool := p.serr && (p.run false n).any fun i => p.slot i == .filling
/-- R284: one unit moved at a slot's cursor; the cursor passes on, with the advance after the last unit. -/
def moveUnit (s : State) (t c h : Nat) (prod : Bool) (p : Pane) (reg : Nat) : Except Trap State :=
  let i := (p.ptr prod + p.nslot - 1) % p.nslot
  let a := p.at i + 64 * p.cur prod
  let r : V := Fin.ofNat 8 reg
  let p' := if p.cur prod + 1 = 4 * 2 ^ p.ssz then (p.advance prod 1).setCur prod 0 else p.setCur prod (p.cur prod + 1)
  let s' := s.modTile t fun x => x.setPane h p'
  if prod then
    .ok (paneWrite s' t a (vBytes (rdV (s.ctx t c).th r)))
  else match poisonTrap s (pKey t a) 64 with
    | some tr => .error { tr with addr := slotAddr (s.tile t) p i + w64 (64 * p.cur prod) }
    | none => .ok ((wakeArrays s' t 1 a 64 false).modCtx t c fun x => { x with th := wrV x.th r (bytesV (cgets s.mem (pKey t a) 64)) })
/-- R45, R283, R284: a claim goes ahead, must wait, or meets a fault. -/
inductive Grant where
  | go (s : State)
  | wait
  | trap (tr : Trap)

def tryClaim (s : State) (t c h : Nat) (prod : Bool) (n what reg : Nat) : Grant :=
  let p := (s.tile t).pane h
  if what = 0 then
    if p.cur prod ≠ 0 then .trap { cause := .paneState }
    else if !prod && needsFailed p n then .trap { cause := .stream }
    else if p.canClaim prod n then
      let a := slotAddr (s.tile t) p (p.ptr prod)
      .go ((s.modTile t fun x => x.setPane h (p.claim prod n)).modCtx t c fun y => { y with th := wrGn y.th reg a })
    else .wait
  else
    let move (p : Pane) : Grant := match moveUnit s t c h prod p reg with | .ok s => .go s | .error tr => .trap tr
    if p.cur prod ≠ 0 then move p
    else if 0 < p.count (takes prod) then .trap { cause := .paneState }
    else if !prod && needsFailed p 1 then .trap { cause := .stream }
    else if p.canClaim prod 1 then move (p.claim prod 1)
    else .wait
/-- A claim as its instruction issues. -/
def claimOp (s : State) (h : H) (prod : Bool) (n what reg : Nat) : Except Stop State :=
  let t := s.cur.t
  let c := s.cur.c
  let p := (s.tile t).pane h.val
  let waits : State := (s.modTile t fun x => x.setPane h.val { p with claims := p.claims ++ [⟨c, prod, n⟩] }).modMe fun y =>
    { y with st := .waiting, wait := .claim h.val prod n what reg }
  if p.mode = 0 ∨ n = 0 ∨ p.nslot < n then .error (.trap { cause := .pane })
  else if prod = true ∧ p.mode = 2 then .error (.trap { cause := .paneState })
  else match tryClaim s t c h.val prod n what reg with
    | .trap tr => .error (.trap tr)
    | .go s1 => if p.queued prod then .ok waits else .ok s1.retire
    | .wait => .ok waits
def execPwait (d : G) (h : H) (n : BitVec 32) (s : State) : Host.Outcome State Fault Refusal :=
  finish s (claimOp s h false n.toNat 0 d.val)
def execPfill (d : G) (h : H) (n : BitVec 32) (s : State) : Host.Outcome State Fault Refusal :=
  finish s (claimOp s h true n.toNat 0 d.val)
def execVpop (_ty : Ty) (d : V) (h : H) (s : State) : Host.Outcome State Fault Refusal :=
  finish s (claimOp s h false 1 1 d.val)
/-- VPUSH writes pane space, and so waits for a FENCE.rel (R115). -/
def execVpush (_ty : Ty) (h : H) (a : V) (s : State) : Host.Outcome State Fault Refusal :=
  finish s (match relGate s with | .error e => .error e | .ok _ => claimOp s h true 1 2 a.val)

/-- R283: an advance. -/
def padvOp (s : State) (h : H) (prod : Bool) (n : Nat) : Except Stop State :=
  let p := (s.tile s.cur.t).pane h.val
  if p.mode = 0 ∨ n = 0 ∨ p.nslot < n then .error (.trap { cause := .pane })
  else if (prod = true ∧ p.mode = 2) ∨ p.cur prod ≠ 0 ∨ p.count (takes prod) < n then .error (.trap { cause := .paneState })
  else .ok (s.modTile s.cur.t fun x => x.setPane h.val (p.advance prod n)).retire
def execPadvP (h : H) (n : BitVec 32) (s : State) : Host.Outcome State Fault Refusal := finish s (padvOp s h true n.toNat)
def execPadvC (h : H) (n : BitVec 32) (s : State) : Host.Outcome State Fault Refusal := finish s (padvOp s h false n.toNat)

/-- R45: the claims of one side that wait, in the order they were issued; an engine's is its engine's to serve. -/
def grantSide (t h : Nat) (prod : Bool) : Nat → State → State
  | 0, s => s
  | k + 1, s =>
    let p := (s.tile t).pane h
    match p.claims.find? (fun q => q.prod == prod) with
    | none => s
    | some q =>
      let drop (s : State) : State := s.modTile t fun x =>
        x.setPane h { x.pane h with claims := (x.pane h).claims.filter fun e => e.c != q.c }
      match (s.ctx t q.c).wait with
      | .claim _ _ n what reg =>
        match tryClaim s t q.c h prod n what reg with
        | .wait => s
        | .go s1 => grantSide t h prod k (retireNext (drop s1) t q.c)
        | .trap tr => grantSide t h prod k (freeze (drop s) t q.c tr (s.ctx t q.c).th.pc (s.ctx t q.c).iw)
      | _ => if 64 ≤ q.c then s else grantSide t h prod k (drop s)
def execPaneClaimGrant (t : Nat) (h : H) (s : State) : Host.Outcome State Fault Refusal :=
  let n := ((s.tile t).pane h.val).claims.length
  .next (grantSide t h.val true n (grantSide t h.val false n s))

-- Streams.
/-- R281, Table 13.4: the stream that a descriptor's words name; none when a field breaks the table. -/
def streamOf (c : Nat) (th : Thread) (iw : BitVec 96) (d : List Word) : Option Stream :=
  let w (i : Nat) : Word := lget d i 0
  let ndm := fld (w 1) 4 2
  let counts := [fld (w 2) 0 32, fld (w 2) 32 32, fld (w 3) 0 32, fld (w 3) 32 32]
  let strides := [w 4, w 5, w 6, w 7]
  let above := (List.range 4).filter fun i => decide (ndm < i)
  if fld (w 1) 6 58 ≠ 0 ∨ bit (w 1) 3 = true ∨ 4 < fld (w 1) 0 3 then none
  else if counts.any (· == 0) || above.any (fun i => lget counts i 1 != 1 || lget strides i 0 != 0) then none
  else some { c := c, tid := th.tid, pc := th.pc, iw := iw, base := w 0, esz := 2 ^ fld (w 1) 0 3, counts := counts, strides := strides, next := 0 }
/-- R47: the address of element n of a pattern, dimension 0 innermost. -/
def patternAddr (base : Word) : List Nat → List Word → Nat → Word
  | c :: cs, d :: ds, n => patternAddr (base + w64 (n % c) * d) cs ds (n / c)
  | _, _, _ => base
def Stream.total (st : Stream) : Nat := st.counts.foldl (· * ·) 1
/-- R47: an element lies in this tile's vault or view space, within one granule. -/
def elemOk (s : State) (t : Tile) (st : Stream) (a : Word) : Bool :=
  decide (a.toNat % 16 + st.esz ≤ 16) && match resolve s t false a aRead st.esz with
    | .ok (.tile h off) => h == t && decide (off / 2 ^ 40 ≤ 1)
    | _ => false
/-- R47: the first and the last element of every dimension. -/
def streamEnds (st : Stream) : List Word :=
  st.base :: (List.range 4).map fun i => st.base + w64 (lget st.counts i 1 - 1) * lget st.strides i 0
/-- R281. -/
def sopenOp (s : State) (h : H) (ea : Word) : Except Stop State :=
  let t := s.cur.t
  let p := (s.tile t).pane h.val
  match homeFor s ea aRead 64 with
  | .error e => .error e
  | .ok (.edge _) => .error (.trap { cause := .address, addr := ea })
  | .ok (.tile u _) =>
    if u ≠ t ∨ ea.toNat % 8 ≠ 0 then .error (.trap { cause := .address, addr := ea })
    else if p.mode ≠ 2 then .error (.trap { cause := .pane })
    else if p.stream.isSome ∨ p.slots.isEmpty = false then .error (.trap { cause := .paneBusy })
    else match readAt s t ea 64 with
      | .error e => .error e
      | .ok (s1, l) =>
        match streamOf s.cur.c s.th s.cur.iw (bytesWords 8 l) with
        | none => .error (.trap { cause := .pane })
        | some st =>
          match (streamEnds st).find? fun a => !elemOk s t st a with
          | some a => .error (.trap { cause := .address, addr := a })
          | none => .ok (s1.modTile t fun x => x.setPane h.val
              { p with serr := false, send := false, cptr := 0, pptr := 0, ccur := 0, pcur := 0, stream := some st }).retire
def execSopen (h : H) (m : MemB) (s : State) : Host.Outcome State Fault Refusal := finish s (sopenOp s h (eaB s.th m))
/-- R282. -/
def execSclose (h : H) (s : State) : Host.Outcome State Fault Refusal :=
  let t := s.cur.t
  let p := (s.tile t).pane h.val
  finish s <| if p.mode = 0 then .error (.trap { cause := .pane })
    else if !(streamsOf s t s.cur.c).contains h.val then .error (.trap { cause := .stream })
    else if 0 < p.count .draining then .error (.wait .retry)
    else .ok (endStream s t h.val).retire

/-- R48: the copy unit stops at an element, whose slot stays filling: SERR, an asynchronous packet; the consumer claims that wait are
served in turn, and one that needs the slot raises STREAM. -/
def streamStop (s : State) (t h : Nat) (st : Stream) (tr : Trap) : State :=
  let s := (learnPoison s tr).modTile t fun x => x.setPane h { x.pane h with serr := true }
  let s := asyncPacket s t st.c tr st.pc st.iw st.tid { async := true }
  grantSide t h false ((s.tile t).pane h).claims.length s
/-- R47: elements read into a slot from a byte of it; zeros after the last element. The fault of the element that fails. -/
def fillSlot (s : State) (t a : Nat) (st : Stream) : Nat → Except (State × Trap) State
  | 0 => .ok s
  | k + 1 =>
    match fillSlot s t a st k with
    | .error e => .error e
    | .ok s =>
      let n := st.next + k
      let put (s : State) (l : List Byte) : State := paneWrite s t (a + k * st.esz) l
      if st.total ≤ n then .ok (put s (List.replicate st.esz 0))
      else
        let ea := patternAddr st.base st.counts st.strides n
        if !elemOk s t st ea then .error (s, { cause := .address, addr := ea })
        else match readHome s t (fld ea 0 44) st.esz aRead with
          | .error tr => .error (s, { tr with addr := ea })
          | .ok (s, l) => .ok (put s l)
/-- R47: the copy unit claims the empty slot at PPTR, fills it and makes it ready; the three are one event of the model (log 96). -/
def execCopyUnitFill (t : Nat) (h : H) (s : State) : Host.Outcome State Fault Refusal :=
  let p := (s.tile t).pane h.val
  match p.stream with
  | none => .next s
  | some st =>
    if p.serr ∨ p.send ∨ p.slot p.pptr ≠ .empty then .next s
    else
      let k := p.bytes / st.esz
      let s1 := s.modTile t fun x => x.setPane h.val (p.claim true 1)
      match fillSlot s1 t (p.at p.pptr) st k with
      | .error (s2, tr) => .next (streamStop s2 t h.val st tr)
      | .ok s2 =>
        .next (s2.modTile t fun x => x.setPane h.val
          { (x.pane h.val).advance true 1 with
            stream := some { st with next := st.next + k }, send := decide (st.total ≤ st.next + k) })

end Sys2Proof.Machine
end

