-- ==== Sys2Proof/Machine/Jobs.lean ====
section
/-! DEFINITION. Sys2Proof/Machine/Jobs.lean: job cards and command blocks, major 0x38 (13 R286, R287, 07 R130 to R132, 15 R322,
R342), the job window (R133, R134, R124), the copy, gather and collective engines (R135 to R141), completion (R142). -/

namespace Sys2Proof.Machine

/-- The i-th 32-bit half of words from a place of a block. -/
def half (w : List Word) (k i : Nat) : Nat := fld (lget w (k + i / 2) 0) (32 * (i % 2)) 32
/-- The bytes of a region of a tile's space: 256 KiB of panes (02 R27), 2^40 of the others. -/
def regionSize (r : Nat) : Nat := if r = 2 then 0x40000 else 2 ^ 40
/-- R130: the home and alignment of a block of n bytes, which lies in one region whole. -/
def blockCheck (s : State) (t : Tile) (pv : Bool) (va : Word) (n align : Nat) : Except Trap Unit :=
  match resolve s t pv va aRead n with
  | .error e => .error e
  | .ok (.edge _) => .error { cause := .address, addr := va }
  | .ok (.tile h off) =>
    if h ≠ t ∨ va.toNat % align ≠ 0 ∨ regionSize (off / 2 ^ 40) < off % 2 ^ 40 + n ∨ (off / 2 ^ 40 = 3 ∧ sysListed (off % 2 ^ 40) n = false) then
      .error { cause := .address, addr := va }
    else .ok ()
/-- The bytes of a block at its tile, each page translated and checked by itself (02 R30, R34). -/
def blockBytes (s : State) (t : Tile) (va : Word) (n : Nat) : Except Trap (List Byte) :=
  if inSys (fld va 0 44) then (match sysRead s t (fld va 0 40) n with | .ok (_, l) => .ok l | .error e => .error e)
  else match readSpan s t (fld va 0 44) n aRead with
    | .ok (_, l) => .ok l
    | .error e => .error { e with addr := va }
/-- R184: the words of a block, plain or pool-packed; a unit that is no parameter-block word gives the cause c. Of a unit only TAG and
bits 79 to 64 are checked, as the rule lists them: its OPC may be anything (DESIGN CHOICE, log 109). -/
def blockWords (s : State) (t : Tile) (pv : Bool) (va : Word) (n : Nat) (pool : Bool) (c : Cause) : Except Trap (List Word) :=
  let size := if pool then 12 * n else 8 * n
  match blockCheck s t pv va size (if pool then 4 else 8) with
  | .error e => .error e
  | .ok _ =>
    match blockBytes s t va size with
    | .error e => .error e
    | .ok l =>
      if !pool then .ok (bytesWords n l)
      else
        let units := (List.range n).map fun j => (l.drop (12 * j)).take 12
        if units.all fun u => leNat (u.drop 10 |>.take 1) == 2 && leNat ((u.drop 8).take 2) == 0 then .ok (units.map fun u => leWord (u.take 8))
        else .error { cause := c, addr := va }

-- Parameter blocks.
/-- The product of four counts. -/
def product (l : List Nat) : Nat := l.foldl (· * ·) 1
def counts4 (w : List Word) (k : Nat) : List Nat := (List.range 4).map (half w k)
def words4 (w : List Word) (k : Nat) : List Word := (List.range 4).map fun i => lget w (k + i) 0
/-- Counts of dimensions above the last are 1 and their strides 0; no count is 0. -/
def dimsOk (last : Nat) (cs : List Nat) (ss : List Word) : Bool :=
  (List.range 4).all fun i => lget cs i 0 != 0 && (decide (i ≤ last) || (lget cs i 0 == 1 && lget ss i 0 == 0))
/-- R135, Table 7.2. -/
def copyOk (x : TileSt) (w : List Word) : Bool :=
  let h := lget w 0 0
  let den := bit h 8
  let r := rectOf w
  fld h 11 21 == 0 && !bit h 3 && decide (fld h 0 3 ≤ 4) && decide (fld h 9 2 ≤ fld h 6 2) &&
    dimsOk (fld h 4 2) (counts4 w 4) (words4 w 6) && dimsOk (fld h 6 2) (counts4 w 10) (words4 w 12) &&
    product (counts4 w 4) == product (counts4 w 10) && decide (product (counts4 w 4) ≤ 2 ^ 40) &&
    (if den then
      decide (1 ≤ fld h 32 32) && fld (lget w 1 0) 32 32 == 0 && fld (lget w 1 0) 14 2 == 0 && !bit (lget w 1 0) 7 &&
        decide (1 ≤ r.w) && decide (r.w ≤ 128) && decide (1 ≤ r.h) && decide (r.h ≤ 64) && decide (r.x + r.w ≤ x.pw) &&
        decide (r.y + r.h ≤ x.phh) && fld (lget w 3 0) 44 20 == 0
    else lget w 1 0 == 0)
/-- R137, Table 7.3. -/
def gatherOk (w : List Word) : Bool :=
  fld (lget w 0 0) 5 59 == 0 && decide (fld (lget w 0 0) 0 3 ≤ 4) && fld (lget w 1 0) 32 32 == 0 && fld (lget w 1 0) 0 32 != 0
/-- R139, Table 7.5. SRC and DST outside the job's regions pass here; the access that meets them ends the job with FOOTPRINT (DESIGN
CHOICE, log 102). -/
def collOk (s : State) (t : Tile) (pv : Bool) (w : List Word) : Bool :=
  let h := lget w 0 0
  let ty := fld h 8 3
  let red := fld h 4 4
  let at' (a : Word) : Bool := match resolve s t pv a aRead 1 with | .ok (.tile u _) => u == t | _ => false
  fld h 45 19 == 0 && fld h 22 10 == 0 && fld h 11 5 == 0 && decide (ty ≤ 5) && decide (red ≤ 5) && decide (fld h 0 4 ≤ 3) &&
    fld (lget w 1 0) 24 40 == 0 && fld (lget w 1 0) 0 24 != 0 && !(decide (3 ≤ red) && (ty == 2 || ty == 5)) &&
    (fld h 32 13 == 0 || fld h 0 4 == 3) && at' (lget w 2 0) && at' (lget w 3 0)
/-- R322, Table 15.4. -/
def tuberOk (s : State) (t : Tile) (w : List Word) : Bool :=
  let e := lget w 0 0
  fld (lget w 1 0) 16 48 == 0 && fld (lget w 1 0) 0 16 != 0 && decide (e.toNat % 4 = 0) &&
    match resolve s t false e aRead 1 with
    | .ok (.tile u off) => u == t && decide (off / 2 ^ 40 = 0)
    | _ => false
def prmWords (kind : Nat) : Nat := match kind with | 0 => 16 | 1 => 5 | 2 => 4 | _ => 7
def prmOk (s : State) (t kind : Nat) (pv : Bool) (w : List Word) : Bool :=
  match kind with | 0 => copyOk (s.tile t) w | 1 => gatherOk w | 2 => collOk s t pv w | _ => tuberOk s t w

-- Cards.
/-- R131: the checks on one region. -/
def regionCheck (s : State) (t : Tile) (pv : Bool) (kind : Nat) (den : Bool) (wr : Bool) (g : Region) : Except Trap Unit :=
  let card : Except Trap Unit := .error { cause := .card, addr := g.base }
  let k := if wr then aWrite else aRead
  if g.len = 0 then card
  else if g.rect ∧ (kind ≠ 0 ∨ den = false ∨ fld g.base 44 13 ≠ 0) then card
  else match resolve s t pv g.base k 1, resolve s t pv (g.base + w64 (g.len - 1)) k 1 with
    | .error e, _ => .error e
    | _, .error e => .error e
    | .ok (.edge _), .ok (.edge _) => if kind = 0 ∧ g.rect = false then .ok () else card
    | .ok (.tile u _), .ok (.tile v _) => if u = v then .ok () else card
    | _, _ => card
def regionsCheck (s : State) (t : Tile) (pv : Bool) (kind : Nat) (den wr : Bool) : List Region → Except Trap Unit
  | [] => .ok ()
  | g :: r => match regionCheck s t pv kind den wr g with
    | .error e => .error e
    | .ok _ => regionsCheck s t pv kind den wr r
/-- R131: CNT and STA. -/
def wordOk (s : State) (t : Tile) (a : Word) : Bool := a == 0 || vaultAddr s t 8 a
def Job.empty : Job :=
  { ent := 0, order := 0, kind := 0, pri := 0, rd := [], wr := [], inc := 0, cnt := 0, sta := 0, prm := [], tid := 0, c := 0, pc := 0
    iw := 0, launch := none, q := none, card := 0, deps := [], edges := [], started := false, next := 0, phase := .idle, buf := []
    idx := 0, finished := false, cause := 0, faddr := 0, live := 0, collNo := none, req := 0, slots := [] }
/-- R130, R131: the job that a card at a tile describes, or the fault of the check that fails. -/
def readCard (s : State) (t : Tile) (pv : Bool) (ea : Word) (pool : Bool) : Except Trap Job :=
  let card : Except Trap Job := .error { cause := .card, addr := ea }
  match blockCheck s t pv ea 128 128, blockBytes s t ea 128 with
  | .error e, _ => .error e
  | _, .error e => .error e
  | .ok _, .ok l =>
    let w := bytesWords 16 l
    let h := lget w 0 0
    let kind := fld h 0 4
    let nr := fld h 6 3
    let nw := fld h 9 3
    let unused (n k j : Nat) : Bool := (List.range 4).any fun i => decide (n ≤ i) && (lget w (k + i) 0 != 0 || half w j i != 0)
    if 3 < kind ∨ 4 < nr ∨ 4 < nw ∨ fld h 12 20 ≠ 0 ∨ unused nr 4 12 ∨ unused nw 8 14 then card
    else if (List.range nr).any fun i => decide (2 ^ 31 ≤ half w 12 i) then card
    else if !wordOk s t (lget w 1 0) || !wordOk s t (lget w 2 0) then card
    else match blockWords s t pv (lget w 3 0) (prmWords kind) pool .card with
      | .error e => .error e
      | .ok p =>
        let rd := (List.range nr).map fun i => (⟨lget w (4 + i) 0, half w 12 i, false⟩ : Region)
        let wr := (List.range nw).map fun i => (⟨lget w (8 + i) 0, half w 14 i % 2 ^ 31, decide (2 ^ 31 ≤ half w 14 i)⟩ : Region)
        let den := bit (lget p 0 0) 8
        if !prmOk s t kind pv p then card
        else match regionsCheck s t pv kind den false rd, regionsCheck s t pv kind den true wr with
          | .error e, _ => .error e
          | _, .error e => .error e
          | .ok _, .ok _ =>
            .ok { Job.empty with kind := kind, pri := fld h 4 2, rd := rd, wr := wr, inc := fld h 32 32, cnt := lget w 1 0, sta := lget w 2 0
                                 prm := p, card := ea }

-- The window.
/-- R133: whether two footprints meet, in either direction of a dependence (R134). -/
def dependsOn (j k : Job) : Bool :=
  let hit (a b : List Region) : Bool := a.any fun g => b.any fun h => regionsMeet (rectOf j.prm) g (rectOf k.prm) h
  hit j.rd k.wr || hit j.wr k.rd || hit j.wr k.wr
/-- R124: whether an access of n bytes touches a job's footprint. -/
def inFootprint (j : Job) (a : Word) (n : Nat) : Bool :=
  (j.rd ++ j.wr).any fun g => regionsMeet (rectOf j.prm) g ⟨0, 0, 0, 0⟩ ⟨a, n, false⟩
/-- R138: the entry of a group table that a COLL job uses, and whether its tile is a member. -/
def groupEntry (x : TileSt) (g : Nat) : Option Word :=
  match afind x.groups g with
  | some e => if bit e 63 && bit e 28 && fld e 56 6 == x.pid then some e else none
  | none => none
def collGrp (j : Job) : Nat := fld (lget j.prm 0 0) 16 6
/-- R132, R134, R139: a job enters the window of a tile that has room, with its edges. -/
def enterWindow (s : State) (t : Tile) (j : Job) : State :=
  let x := s.tile t
  let ent := (lowestFree (x.jobs.map (·.ent)) 0 64).getD 0
  let j := { j with ent := ent, order := x.jobOrder, edges := (x.jobs.filter (dependsOn j)).map (·.order) }
  match j.kind, groupEntry x (collGrp j), s.part x.pid with
  | 2, some _, some p =>
    let k := t * 64 + collGrp j
    let n := aget p.collSeq k 0
    let s := s.setPart { p with collSeq := aput p.collSeq k (n + 1) }
    s.modTile t fun x => { x with jobs := x.jobs ++ [{ j with collNo := some n }], jobOrder := x.jobOrder + 1 }
  | _, _, _ => s.modTile t fun x => { x with jobs := x.jobs ++ [j], jobOrder := x.jobOrder + 1 }
/-- The executing thread's job: who submits it, and what of its own accesses it waits for (R124). -/
def mineJob (s : State) (j : Job) : State × Job :=
  let s := flushMine s (inFootprint j)
  let x := s.me
  (s, { j with tid := x.th.tid, c := s.cur.c, pc := x.th.pc, iw := s.cur.iw, launch := x.th.launch
               deps := dueOuts x (inFootprint j) ++ duePend x (inFootprint j) })
/-- R286. -/
def jobOp (s : State) (pool : Bool) (ea : Word) : Except Stop State :=
  match readCard s s.cur.t (priv s) ea pool, relGate s with
  | .error tr, _ => .error (.trap tr)
  | _, .error e => .error e
  | .ok j, .ok _ =>
    if 64 ≤ (s.tile s.cur.t).jobs.length then .error (.wait .retry)
    else
      let (s, j) := mineJob s j
      .ok (enterWindow s s.cur.t j).retire
def execJob (pool : Bool) (m : MemB) (s : State) : Host.Outcome State Fault Refusal := finish s (jobOp s pool (eaB s.th m))

/-- R342: the fields that an operator uses: x, y, z, the scalar; and the ranges it reads and writes. -/
def ncmdUses (op : Nat) : Bool × Bool × Bool × Bool :=
  match op with
  | 5 => (true, true, false, false) | 6 => (true, true, true, false) | 7 => (true, true, false, true)
  | 8 => (false, false, true, true) | _ => (true, false, true, false)
def ncmdReads (op : Nat) (w : List Word) : List Word :=
  match op with | 5 | 6 => [lget w 1 0, lget w 2 0] | 7 | 9 => [lget w 1 0] | _ => []
def ncmdWrites (op : Nat) (w : List Word) : List Word :=
  match op with | 6 | 8 | 9 => [lget w 3 0] | 7 => [lget w 2 0] | _ => []
/-- R333: a range of n bytes, 4-byte aligned, in vault space at a tile. -/
def bankRange (s : State) (t : Tile) (a : Word) (n align : Nat) : Bool :=
  decide (a.toNat % align = 0) && vaultAddr s t 1 a && tileOf s t a == t && decide (fld a 0 40 + n ≤ 2 ^ 40)
/-- R342: the checks of a command block, and its job. -/
def ncmdJob (s : State) (t : Tile) (w : List Word) : Except Trap Job :=
  let h := lget w 0 0
  let op := fld h 0 4
  let (ux, uy, uz, us) := ncmdUses op
  let n := 4 * fld (lget w 4 0) 0 32
  let idle (u : Bool) (i : Nat) : Bool := u || lget w i 0 == 0
  if op < 5 ∨ 9 < op ∨ fld h 6 58 ≠ 0 ∨ fld (lget w 4 0) 32 32 ≠ 0 ∨ fld (lget w 5 0) 32 32 ≠ 0 then .error { cause := .card }
  else if !(idle ux 1 && idle uy 2 && idle uz 3 && idle us 5) then .error { cause := .card }
  else if n = 0 then .ok { Job.empty with kind := 4, pri := fld h 4 2, prm := w }
  else match (ncmdReads op w ++ ncmdWrites op w).find? fun a => !bankRange s t a n 4 with
    | some a => .error { cause := .address, addr := a }
    | none => .ok { Job.empty with kind := 4, pri := fld h 4 2, prm := w, rd := (ncmdReads op w).map fun a => ⟨a, n, false⟩
                                   wr := (ncmdWrites op w).map fun a => ⟨a, n, false⟩ }
/-- R287. -/
def ncmdOp (s : State) (pool : Bool) (d : G) (ea : Word) : Except Stop State :=
  match blockWords s s.cur.t (priv s) ea 6 pool .card with
  | .error tr => .error (.trap tr)
  | .ok w => match ncmdJob s s.cur.t w with
    | .error tr => .error (.trap tr)
    | .ok j =>
      if 64 ≤ (s.tile s.cur.t).jobs.length then .error (.wait .retry)
      else
        let (s, j) := mineJob s j
        .ok (addPend (enterWindow s.nextReq s.cur.t { j with req := s.reqNo }) (.g d.val .u64) [(s.reqNo, [])] []).retire
def execNcmd (pool : Bool) (d : G) (m : MemB) (s : State) : Host.Outcome State Fault Refusal :=
  finish s (ncmdOp s pool d (eaB s.th m))

-- Running jobs.
/-- A job of a tile by its number. -/
def State.job (s : State) (t order : Nat) : Option Job := (s.tile t).jobs.find? fun j => j.order == order
def State.modJob (s : State) (t order : Nat) (f : Job → Job) : State :=
  s.modTile t fun x => { x with jobs := x.jobs.map fun j => if j.order = order then f j else j }
/-- R134, R124: whether a job may start. -/
def eligible (s : State) (t : Tile) (j : Job) : Bool :=
  !j.started && !j.finished && !((s.tile t).jobs.any fun k => j.edges.contains k.order) && !(j.deps.any (reqDue s))
/-- The eligible job of highest priority, the earliest among equals. -/
def pickJob : List Job → Option Job
  | [] => none
  | j :: r => match pickJob r with
    | some k => if k.pri ≤ j.pri then some j else some k
    | none => some j
/-- 03 R45: a job's engine no longer waits for a pane slot. -/
def unclaim (s : State) (t : Tile) (order : Nat) : State :=
  let mine (q : Claim) : Bool := q.c == 64 + order
  if (s.tile t).panes.any fun e => e.2.claims.any mine then
    s.modTile t fun x => { x with panes := x.panes.map fun (e : Nat × Pane) => (e.1, { e.2 with claims := e.2.claims.filter fun q => !mine q }) }
  else s
/-- R143, R370: a job stops with a cause; the engine's asynchronous packet. The syndrome of a poisoned word stays the word of 03
R417; any other packet has the job's code there (log 86). -/
def jobFail (s : State) (t : Tile) (j : Job) (tr : Trap) : State :=
  let s := unclaim (learnPoison s tr) t j.order
  let code := jobCode tr.cause
  let s := s.modJob t j.order fun k => { k with finished := true, cause := code, faddr := tr.addr, phase := .idle }
  let named := [Cause.poison, .protection, .unmapped, .revoked, .footprint, .address, .group, .mismatch, .cipher, .table, .notVis, .noScan,
    .trap, .illegal, .poolExec, .regParity, .partition, .viewWrite, .abort, .stream]
  let tr := { tr with cause := (if named.contains tr.cause then tr.cause else .abort), syn := if tr.cause = .poison then tr.syn else w64 code }
  asyncPacket s t j.c tr (if j.q.isSome then j.card else j.pc) j.iw j.tid { async := true, qjob := j.q.isSome }

/-- R136, R143: the checks of an engine's access of n bytes before R34: R26, one granule, footprint. An element counts as inside the
footprint only where one region of its direction holds it whole (DESIGN CHOICE, log 108). -/
def engineHome (s : State) (t : Tile) (j : Job) (a : Word) (n : Nat) (wr : Bool) : Except Trap Home :=
  let inR (g : Region) : Bool :=
    if g.rect then !bit a 57 && (rectOf j.prm).has (fld a 44 7) (fld a 51 6) && decide (g.base.toNat ≤ fld a 0 44) &&
      decide (fld a 0 44 + n ≤ g.base.toNat + g.len)
    else inRegion a n g
  match resolve s t (j.c == 30) a (if wr then aWrite else aRead) n with
  | .error e => .error (if isViol e.cause then { e with addr := a } else { cause := .address, addr := a })
  | .ok h =>
    if 16 < a.toNat % 16 + n then .error { cause := .address, addr := a }
    else if (if wr then j.wr else j.rd).any inR then .ok h
    else .error { cause := .footprint, addr := a }
/-- What an engine's read or write of one element does. -/
inductive Moved where
  | data (s : State) (l : List Byte)
  | sent (s : State)
  | stay (s : State)
  | fail (tr : Trap)

-- R141: the slots of VC6 by the key of their credit: an engine's at a home, a router's for a group, a port and a matching number, a root's for its
-- participant. Each unit has one (log 87).
def elemKey (order site : Nat) : Nat := 4 * (order * 65536 + site)
def collKey (grp port no : Nat) : Nat := 4 * (1024 * no + 16 * grp + port) + 1
def mredKey (root : Nat) : Nat := 4 * root + 2
/-- Whether a unit of a tile holds the credit for a slot; the credit is used. -/
def hasCredit (s : State) (t : Tile) (key : Nat) : Bool := (afind (s.tile t).credits key).isNone
def useCredit (s : State) (t : Tile) (key : Nat) : State := s.modTile t fun x => { x with credits := aput x.credits key 1 }
/-- R141: a request to another home, against a credit. -/
def sendElem (s : State) (t : Tile) (site order : Nat) (a : Word) (n : Nat) (wr : Option (List Byte)) : Moved :=
  if hasCredit s t (elemKey order site) then .sent ((useCredit s t (elemKey order site)).send t site 6 (.elem t order a n wr)) else .stay s
/-- The unit at the wafer's edge that serves an edge offset: its channel, or the module link of its peer segment (18 R386). -/
def edgeUnit (p : Part) (o : Nat) : Nat := match afind p.peers (o / 2 ^ 30) with | some (link, _) => 32 + link | none => (edgePlace p.chans o).1
/-- The site of an engine's remote access. -/
def engineSite (s : State) (t : Tile) : Home → Nat
  | .tile h _ => h
  | .edge o => ioSite t (match s.part (s.tile t).pid with | some p => edgeUnit p o | none => 0)

-- Pane slots that an engine reads (03 R45, Table 3.3).
/-- The pane that is on and holds a pane-space byte, with its slot. -/
def paneAt (x : TileSt) (b : Nat) : Option (Nat × Nat) :=
  match x.panes.find? fun e => e.2.mode != 0 && decide (256 * e.2.base ≤ b) && decide (b < 256 * e.2.base + e.2.nslot * e.2.bytes) with
  | some (h, p) => some (h, (b - 256 * p.base) / p.bytes)
  | none => none
/-- Table 3.3: the engine of a job completes the slots of a list: each leaves draining, once it is the pane's oldest. -/
def endSlots (s : State) (t : Tile) : List (Nat × Nat) → Option State
  | [] => some s
  | (h, i) :: r =>
    let p := (s.tile t).pane h
    if p.oldest false 1 = [i] then endSlots (s.modTile t fun x => x.setPane h (p.advance false 1)) t r else none
/-- What an engine's read of a pane slot meets: it goes ahead; it waits, with the pane in whose order its claim stands; or it needs the
slot that a stream's failed element would have filled (03 R48). -/
inductive SlotTurn where
  | go (s : State)
  | wait (h : Option Nat)
  | stream
/-- R45, R48: an engine's read of a slot of a pane that is on: it reads a slot that is draining, claims the slot at CPTR in its turn
when that is ready, having completed the slot it held before, and waits otherwise; its claim stands among those of the consumer
side where the slot is the one that comes after theirs (log 85). -/
def slotFor (s : State) (t : Tile) (j : Job) (b : Nat) : SlotTurn :=
  match paneAt (s.tile t) b with
  | none => .go s
  | some (h, i) =>
    let p := (s.tile t).pane h
    let ahead := (p.claims.filter fun q => !q.prod).takeWhile fun q => q.c != 64 + j.order
    if p.slot i = .draining then .go (unclaim s t j.order)
    else if ahead.isEmpty = true ∧ i = p.cptr then
      if needsFailed p 1 then .stream
      else if p.slot i = .ready ∧ p.ccur = 0 then
        match endSlots s t (j.slots.filter fun e => e.1 == h) with
        | none => .wait (some h)
        | some s => .go (unclaim ((s.modTile t fun x => x.setPane h ((x.pane h).claim false 1)).modJob t j.order fun k =>
            { k with slots := k.slots.filter (fun e => e.1 != h) ++ [(h, i)] }) t j.order)
      else .wait (some h)
    else .wait (if i = (p.cptr + (ahead.map (·.n)).sum) % p.nslot then some h else none)
/-- R45: the claim of an engine that waits takes its place in its pane's order. -/
def queueClaim (s : State) (t : Tile) (j : Job) : Option Nat → State
  | none => s
  | some h =>
    let p := (s.tile t).pane h
    if p.claims.any fun q => q.c == 64 + j.order then s
    else s.modTile t fun x => x.setPane h { p with claims := p.claims ++ [⟨64 + j.order, false, 1⟩] }
/-- What an engine's read gives: bytes, a fault, or a wait for a pane slot. -/
inductive Got where
  | data (s : State) (l : List Byte)
  | fail (tr : Trap)
  | wait (h : Option Nat)
/-- What an engine's access does at a home: system space is its own (02 R28), pane space waits for its slot at the engine's own
tile. -/
def homeRead (s : State) (t h : Tile) (j : Job) (off n : Nat) : Got :=
  let got (r : Except Trap (State × List Byte)) : Got := match r with | .ok (s, l) => .data s l | .error e => .fail e
  if inSys off then got (sysRead s h (off % 2 ^ 40) n)
  else match (if off / 2 ^ 40 % 16 = 2 ∧ t = h then slotFor s t j (off % 2 ^ 40) else .go s) with
    | .go s => got (readHome s h off n aRead)
    | .wait h => .wait h
    | .stream => .fail { cause := .stream }
def homeWrite (s : State) (t h : Tile) (j : Job) (off : Nat) (l : List Byte) : Except Trap State :=
  if inSys off then (match sysWrite s (.ctx t j.c) h (off % 2 ^ 40) l with | .ok s => .ok s | .error c => .error { cause := c })
  else writeHome s h off l aWrite
def engineRead (s : State) (t : Tile) (j : Job) (a : Word) (n : Nat) : Moved :=
  match engineHome s t j a n false with
  | .error e => .fail e
  | .ok h =>
    if h = .tile t (fld a 0 44) then
      match homeRead s t t j (fld a 0 44) n with
      | .data s l => .data s l
      | .fail e => .fail { e with addr := a }
      | .wait h => .stay (queueClaim s t j h)
    else sendElem s t (engineSite s t h) j.order a n none
def engineWrite (s : State) (t : Tile) (j : Job) (a : Word) (l : List Byte) : Moved :=
  match engineHome s t j a l.length true with
  | .error e => .fail e
  | .ok h =>
    if h = .tile t (fld a 0 44) then
      match homeWrite s t t j (fld a 0 44) l with
      | .ok s => .data s []
      | .error e => .fail { e with addr := a }
    else sendElem s t (engineSite s t h) j.order a l.length (some l)

/-- R136: the digits of an element number, dimension 0 innermost. -/
def digits (n : Nat) : List Nat → List Nat
  | [] => []
  | c :: r => n % c :: digits (n / c) r
/-- R136: the destination of element n of a distributed COPY; none where the local offset leaves its tile. -/
def distAddr (w : List Word) (n : Nat) : Option Word :=
  let h := lget w 0 0
  let r := rectOf w
  let js := digits n (counts4 w 10)
  let blk := fld h 32 32
  let ddx := fld h 9 2
  let i := lget js ddx 0
  let nt := r.w * r.h
  let t := i / blk % nt
  let li := blk * (i / (blk * nt)) + i % blk
  let st (d : Nat) : Int := (lget (words4 w 12) d 0).toInt
  let off : Int := ((lget w 3 0).toNat : Int) +
    ((List.range 4).map fun d => if d = ddx then (li : Int) * st d else ((lget js d 0 : Nat) : Int) * st d).sum
  if off < 0 ∨ 2 ^ 44 ≤ off then none else some (gaddrOf (r.x + t % r.w) (r.y + t / r.w) off.toNat)
/-- The number of elements of a copy or gather job, their size, and where element n is read and written; k is the index. -/
def jobTotal (j : Job) : Nat := if j.kind = 0 then product (counts4 j.prm 4) else fld (lget j.prm 1 0) 0 32
def jobSize (j : Job) : Nat := 2 ^ fld (lget j.prm 0 0) 0 3
def jobPlaces (j : Job) (n k : Nat) : Word × Option Word :=
  let w := j.prm
  if j.kind = 0 then
    (patternAddr (lget w 2 0) (counts4 w 4) (words4 w 6) n,
      if bit (lget w 0 0) 8 then distAddr w n else some (patternAddr (lget w 3 0) (counts4 w 10) (words4 w 12) n))
  else
    let tab := lget w 3 0 + w64 (k * jobSize j)
    let lst := lget w 4 0 + w64 (n * jobSize j)
    if bit (lget w 0 0) 3 then (lst, some tab) else (tab, some lst)
/-- R137: the index at a list position. -/
def indexSize (j : Job) : Nat := if bit (lget j.prm 0 0) 4 then 8 else 4
def indexAddr (j : Job) (n : Nat) : Word := lget j.prm 2 0 + w64 (n * indexSize j)

/-- What an element's step leaves in the job. -/
def afterMove (t : Tile) (j : Job) (s0 : State) (m : Moved) (wait : Phase) (f : List Byte → Job → Job) : State :=
  match m with
  | .data s l => s.modJob t j.order (f l)
  | .sent s => s.modJob t j.order fun k => { k with phase := wait }
  | .stay s => s
  | .fail tr => jobFail s0 t j tr
/-- An index, a source element and a destination element that have been moved; an index is kept as its value plus one. -/
def gotIndex (l : List Byte) (j : Job) : Job := { j with idx := leNat l + 1, phase := .idle }
def gotData (l : List Byte) (j : Job) : Job := { j with buf := l, phase := .idle }
def putDone (_ : List Byte) (j : Job) : Job := { j with buf := [], idx := 0, next := j.next + 1, phase := .idle }
/-- R136, R137: one access of a copy or gather engine. A distributed destination whose offset leaves 0 to 2^44 - 1, for which R136 gives
no address, ends the job with ADDRESS and DBASE as the faulting address (DESIGN CHOICE, log 113). -/
def engineStep (s : State) (t : Tile) (j : Job) : State :=
  if j.phase ≠ .idle then s
  else if jobTotal j ≤ j.next then s.modJob t j.order fun k => { k with finished := true }
  else if j.kind = 1 ∧ j.idx = 0 then
    let a := indexAddr j j.next
    if a.toNat % indexSize j ≠ 0 then jobFail s t j { cause := .address, addr := a }
    else afterMove t j s (engineRead s t j a (indexSize j)) .index gotIndex
  else
    let (src, dst) := jobPlaces j j.next (j.idx - 1)
    if j.buf.isEmpty then afterMove t j s (engineRead s t j src (jobSize j)) .read gotData
    else match dst with
      | some a => afterMove t j s (engineWrite s t j a j.buf) .write putDone
      | none => jobFail s t j { cause := .address, addr := lget j.prm 3 0 }

/-- R386: what a peer segment's offset names on the joined partition. -/
def peerAddr (tgt : PeerTarget) (o : Nat) : Word :=
  match tgt with
  | .edge seg => w64 (2 ^ 57 + seg * 2 ^ 30 + o)
  | .vault t => w64 (t % 8192 * 2 ^ 44 + o)
/-- The number of a channel, from its site. -/
def chanOf (site : Nat) : Nat := site - 20000
/-- R141: the reply to an element request, and the credit of its slot. An edge channel's way back is its crescent's ring (01 R17). -/
def elemBack (s : State) (site t order : Nat) (l : List Byte) (tr : Option Trap) : State :=
  if site < 20000 then (s.send site t 6 (.elemRe order l tr)).send site t 6 (.credit (elemKey order site))
  else
    let pid := (s.tile t).pid
    (s.ioBack pid (chanOf site) t 6 (.elemRe order l tr)).ioBack pid (chanOf site) t 6 (.credit (elemKey order (ioSite t (chanOf site))))
def elemBad (s : State) (site t order : Nat) (a : Word) (tr : Trap) : State :=
  elemBack (learnPoison s tr) site t order [] (some (tr.told a))
/-- R141: an element request performed at its home tile. -/
def elemTile (s : State) (h t order : Nat) (a : Word) (k : Nat) (wr : Option (List Byte)) (p : Packet) : State :=
  let j := (s.job t order).getD Job.empty
  match wr with
  | none => (match homeRead s t h j (fld a 0 44) k with
    | .data s l => elemBack s h t order l none
    | .fail tr => elemBad s h t order a tr
    | .wait _ => s)
  | some l => (match homeWrite s t h j (fld a 0 44) l with
    | .ok s => elemBack (p.poisonPieces (fun s a n => poisonHome s h (fld a 0 44) n) s 0 [(a, l.length)]) h t order [] none
    | .error tr => elemBad s h t order a tr)
/-- R141, R386: one performed at its edge channel, or sent on in a frame to the peer that its segment stands for. -/
def elemEdge (s : State) (q : Part) (site t order : Nat) (a : Word) (k : Nat) (wr : Option (List Byte)) (p : Packet) : State :=
  match afind q.peers (fld a 30 27), wr with
  | some (link, tgt), wr =>
    { s.nextReq with
      frameq := s.frameq ++ [(link, .access s.reqNo (peerAddr tgt (fld a 0 30)) k wr)]
      peerReqs := s.peerReqs ++ [⟨link, s.reqNo, site, t, order, elemKey order (ioSite t (chanOf site)), a, k, wr.isSome⟩] }
  | none, none => (match edgeRead s q (fld a 0 57) k with
    | .ok l => elemBack s site t order l none
    | .error tr => elemBad s site t order a tr)
  | none, some l => (match edgeWrite s q (fld a 0 57) l with
    | .ok s => elemBack (p.poisonPieces (fun s a n => poisonEdge s q (fld a 0 57) n) s 0 [(a, l.length)]) site t order [] none
    | .error tr => elemBad s site t order a tr)
/-- R141: a home performs an element request, replies and returns the credit. -/
def execElementRequest (n : Nat) (s : State) : Host.Outcome State Fault Refusal :=
  withPkt s n fun s p => match p.body with
    | .elem t order a k wr =>
      some (if p.dst < 20000 then elemTile s p.dst t order a k wr p
      else match s.part (s.tile t).pid with
        | none => elemBad s p.dst t order a { cause := .address }
        | some q => elemEdge s q p.dst t order a k wr p)
    | _ => none
/-- R386: the peer answers a request: the bytes that a COPY reads there, or the acknowledgement of its write; a refusal ends the
job with ADDRESS (log 88). -/
def peerAnswer (s : State) (link tag : Nat) (data : Option (List Byte)) : State :=
  let mine (r : PeerReq) : Bool := r.link == link && r.tag == tag
  match s.peerReqs.find? mine with
  | none => s
  | some r =>
    let s := { s with peerReqs := s.peerReqs.filter fun r => !mine r }
    match data with
    | some l => elemBack s r.site r.t r.order (if r.wr then [] else (l ++ List.replicate r.n 0).take r.n) none
    | none => elemBad s r.site r.t r.order r.addr { cause := .address }
/-- The address of the element that an engine has asked for. -/
def elemAddr (j : Job) : Word := if j.phase = .index then indexAddr j j.next else (jobPlaces j j.next (j.idx - 1)).1
/-- R141: an element's reply or acknowledgement at its engine; one that a crossbar has poisoned ends the job (R58). -/
def execElementReply (n : Nat) (s : State) : Host.Outcome State Fault Refusal :=
  withPkt s n fun s p => match p.body with
    | .elemRe order l tr =>
      some (match s.job p.dst order with
        | none => s
        | some j =>
          if j.finished then s
          else match (if p.poisoned then some (parityTrap (elemAddr j)) else tr) with
            | some e => jobFail s p.dst j e
            | none => match j.phase with
              | .index => s.modJob p.dst order (gotIndex l)
              | .read => s.modJob p.dst order (gotData l)
              | .write => s.modJob p.dst order (putDone l)
              | _ => s)
    | _ => none
def execVc6Credit (n : Nat) (s : State) : Host.Outcome State Fault Refusal :=
  withPkt s n fun s p => match p.body with
    | .credit key => some (s.modTile p.dst fun x => { x with credits := adel x.credits key })
    | _ => none

-- TUBER jobs and NCMDs at dispatch.
/-- Table 15.5, for one page of a direction. -/
def pageCause (s : State) (t off : Nat) (wr : Bool) : Option Cause :=
  match leafAt s t off with
  | none => match walk s t off with
    | .error c => some c
    | .ok _ => some .unmapped
  | some (_, e) =>
    if (if wr then !bit e 53 else !bit e 52) then some .protection
    else if fld e 58 4 ≠ 0 then some .cipher
    else if !bit e 57 then some .notVis
    else none
/-- R323: the first page of a region, from an offset, that fails; n is the number of 4 KiB steps left. -/
def regionPages (s : State) (t : Tile) (wr : Bool) : Nat → Nat → Option (Cause × Nat)
  | 0, _ => none
  | n + 1, off => match pageCause s t off wr with
    | some c => some (c, off)
    | none => regionPages s t wr n (off + 4096)
/-- Whether a region lies in vault space; its pages are those of its home tile. -/
def vaultRegion (s : State) (t : Tile) (g : Region) : Bool := vaultAddr s t 1 g.base
def dispatchFail (s : State) (t : Tile) (j : Job) : Option Trap :=
  let bad (wr : Bool) (g : Region) : Option Trap :=
    if !vaultRegion s t g then none
    else
      let o := fld g.base 0 40
      match regionPages s (tileOf s t g.base) wr ((o + g.len - 1) / 4096 - o / 4096 + 1) (o / 4096 * 4096) with
      | some (c, off) => some { cause := c, addr := g.base + w64 (max off o - o) }
      | none => none
  match j.rd.findSome? (bad false) with
  | some tr => some tr
  | none => j.wr.findSome? (bad true)
/-- R126: dirty lines of the read footprint are written back, lines of the write footprint also leave L2 with their locks. -/
def dispatchLines (s : State) (t : Tile) (j : Job) : State :=
  let lines (g : Region) : List Nat :=
    let o := fld g.base 0 40
    (List.range ((o + g.len - 1) / 128 - o / 128 + 1)).map fun i => (o / 128 + i) * 128
  let s := (j.rd.filter (vaultRegion s t)).foldl (fun s g => let u := tileOf s t g.base; eachLine u anyPage (fun s l => writeBack s u l) s (lines g)) s
  (j.wr.filter (vaultRegion s t)).foldl
    (fun s g => let u := tileOf s t g.base; eachLine u anyPage (fun s l => unlockLine (writeBack s u l) u l) s (lines g)) s
/-- R287, R332: the reply of an NCMD. -/
def ncmdReply (s : State) (t : Tile) (j : Job) (v : Word) (tr : Option Trap) : State :=
  let r : Req := { t := t, c := j.c, id := j.req, tid := j.tid, pc := j.pc, iw := j.iw, priv := false, slot := 0, charge := t }
  s.send t t 4 (.ncmdRe r v tr)
/-- R323: a TUBER job or an NCMD starts, or is refused at once. -/
def startTuber (s : State) (t : Tile) (j : Job) : State :=
  match dispatchFail s t j with
  | some tr =>
    if j.kind = 4 then ncmdReply (s.modJob t j.order fun k => { k with started := true, next := 1 }) t j 0 (some tr) else jobFail s t j tr
  | none =>
    (dispatchLines s t j).modJob t j.order fun k =>
      { k with started := true, next := 0, live := if j.kind = 4 then 1 else fld (lget j.prm 1 0) 0 16 }

-- Collectives.
/-- Element size of a COLL type, and the elements of a member's source and destination (R139). -/
def collEsz (ty : Nat) : Nat := if ty ≤ 2 then 4 else 8
def collSrcN (op count g : Nat) : Nat := if op = 1 then count * g else count
/-- R139: the source elements read one by one; an access that leaves the tile is ADDRESS, and one may wait for a pane slot. -/
def collRead (t : Tile) (j : Job) (a : Word) (n : Nat) : Nat → State → Except (Trap ⊕ Option Nat) (State × List Word)
  | 0, s => .ok (s, [])
  | k + 1, s =>
    let j := (s.job t j.order).getD j
    match engineHome s t j a n false with
    | .error e => .error (.inl e)
    | .ok (.edge _) => .error (.inl { cause := .address, addr := a })
    | .ok (.tile h off) =>
      if h ≠ t then .error (.inl { cause := .address, addr := a })
      else match homeRead s t t j off n with
        | .wait h => .error (.inr h)
        | .fail e => .error (.inl { e with addr := a })
        | .data s l => match collRead t j (a + w64 n) n k s with
          | .error e => .error e
          | .ok (s, r) => .ok (s, w64 (leNat l) :: r)
/-- R139: the destination elements written one by one; those before a failing one remain (R143). -/
def collWrite (t : Tile) (j : Job) (a : Word) (n : Nat) : List Word → State → State × Option Trap
  | [], s => (s, none)
  | v :: r, s =>
    match engineHome s t j a n true with
    | .error e => (s, some e)
    | .ok (.edge _) => (s, some { cause := .address, addr := a })
    | .ok (.tile h off) =>
      if h ≠ t then (s, some { cause := .address, addr := a })
      else match homeWrite s t t j off (leBytes n v.toNat) with
        | .error e => (s, some { e with addr := a })
        | .ok s => collWrite t j (a + w64 n) n r s
/-- R140: combine of two elements, by type and operation. -/
def collCombine (red ty : Nat) (a b : Word) : Word :=
  let n := if ty ≤ 2 then 32 else 64
  let fl := ty == 2 || ty == 5
  let f := if ty = 2 then f32F else f64F
  let x := a.toNat
  let y := b.toNat
  let num (v : Nat) : Int := if ty = 0 ∨ ty = 3 then sintN n v else ((v % 2 ^ n : Nat) : Int)
  let fmin (mx : Bool) : Nat :=
    if (fdec f x).isNan || (fdec f y).isNan then f.nan
    else if fcmpV true (fdec f x) (fdec f y) ≤ 0 then (if mx then y else x) else if mx then x else y
  w64 (match red with
    | 0 => if fl then (faddV f .rne (fdec f x) (fdec f y)).1 else (x + y) % 2 ^ n
    | 1 => if fl then fmin false else if num x ≤ num y then x else y
    | 2 => if fl then fmin true else if num x ≤ num y then y else x
    | 3 => x &&& y
    | 4 => x ||| y
    | _ => x ^^^ y)
/-- The members' contributions to one collective, in rank order. -/
def collMembers (l : List CollSt) (g : Nat) : List CollSt := (List.range g).filterMap fun r => l.find? fun c => c.rank == r
/-- R139: what a member receives. -/
def collOutput (l : List CollSt) (c : CollSt) : List Word :=
  let comb (i : Nat) : Word := reduceTree (collCombine c.red c.ty) 0 (l.map fun m => lget m.src i 0)
  match c.op with
  | 0 => (List.range c.count).map comb
  | 1 => (List.range c.count).map fun i => comb (c.rank * c.count + i)
  | 2 => l.flatMap (·.src)
  | _ => match l[c.root]? with | some m => m.src | none => []
-- The group's tree (R138, R141).
/-- The tile of a partition that the embedding has put at a physical site. -/
def atSite (s : State) (p : Part) (px py : Nat) : Option Tile := p.tiles.find? fun u => (s.tile u).ex == px && (s.tile u).ey == py
/-- The physical row of an exposed row (01 R13). -/
def siteRow (r : Nat) : Nat := 9 * (r / 8) + r % 8
/-- The mesh neighbour above or below a site; a spare row on which no tile stands is passed (02 R416). -/
def aboveSite (s : State) (p : Part) (px py : Nat) : Option Tile :=
  if py = 0 then none
  else match atSite s p px (py - 1) with
    | some u => some u
    | none => if isSpareRow (py - 1) then atSite s p px (py - 2) else none
def belowSite (s : State) (p : Part) (px py : Nat) : Option Tile :=
  match atSite s p px (py + 1) with
  | some u => some u
  | none => if isSpareRow (py + 1) then atSite s p px (py + 2) else none
/-- Table 7.4: the tile of the partition that a router's port leads to; the folded links are the full wafer's (02 R416). -/
def portTile (s : State) (p : Part) (t k : Nat) : Option Tile :=
  let x := s.tile t
  let fold := fullWafer x
  let row := fold && !isSpareRow x.ey
  match k with
  | 0 => aboveSite s p x.ex x.ey
  | 1 => atSite s p (x.ex + 1) x.ey
  | 2 => belowSite s p x.ex x.ey
  | 3 => if 0 < x.ex then atSite s p (x.ex - 1) x.ey else none
  | 4 => if row && decide (2 ≤ exposedRow x.ey) then atSite s p x.ex (siteRow (exposedRow x.ey - 2)) else none
  | 5 => if fold then atSite s p (x.ex + 2) x.ey else none
  | 6 => if row then atSite s p x.ex (siteRow (exposedRow x.ey + 2)) else none
  | _ => if fold && decide (2 ≤ x.ex) then atSite s p (x.ex - 2) x.ey else none
/-- The group's entry in a tile's router, a member or not. -/
def routerEntry (x : TileSt) (g : Nat) : Option Word :=
  match afind x.groups g with
  | some e => if bit e 63 && fld e 56 6 == x.pid then some e else none
  | none => none
/-- A group's slot at a port of a router for one of its collectives, and the numbers of those in flight there. -/
def collSlot (x : TileSt) (g port no : Nat) : Option CollIn := x.colls.find? fun c => c.grp == g && c.port == port && c.no == no
def collNos (x : TileSt) (g : Nat) : List Nat := ((x.colls.filter fun c => c.grp == g).map (·.no)).eraseDups
/-- A slot is free again: its sender's credit returns on VC6. -/
def freeColl (s : State) (t : Tile) (c : CollIn) : State :=
  let s := s.modTile t fun x => { x with colls := x.colls.filter fun d => !(d.grp == c.grp && d.port == c.port && d.no == c.no) }
  match c.src with
  | some (u, key) => s.send t u 6 (.credit key)
  | none => s
def addColl (s : State) (t : Tile) (c : CollIn) : State := s.modTile t fun x => { x with colls := x.colls ++ [c] }
/-- A packet of the tree that has arrived stands in the slot reserved for it: of the child that sent it, or the result's. -/
def collTake (s : State) (t g : Nat) (up : Bool) : State :=
  let mine (n : Nat) : Bool := match deliverable s n with
    | some q => q.dst == t && (match q.body with | .coll g' _ _ up' _ => g' == g && up' == up | _ => false)
    | none => false
  match (List.range s.net.length).find? mine with
  | none => s
  | some n =>
    match deliverable s n, s.part (s.tile t).pid with
    | some q, some p =>
      match (asPoison s q).body with
      | .coll _ no key _ ents =>
        let s := s.dropPkt n
        if up then
          (match (List.range 8).find? fun k => bit ((routerEntry (s.tile t) g).getD 0) (16 + k) && portTile s p t k == some q.src with
          | some k => addColl s t ⟨g, no, k, ents, some (q.src, key)⟩
          | none => s)
        else addColl s t ⟨g, no, 9, ents, some (q.src, key)⟩
      | _ => s
    | _, _ => s
/-- The slots that a router combines for a group: its DOWN ports' and its own member's. -/
def collPorts (e : Word) : List Nat := ((List.range 8).filter fun k => bit e (16 + k)) ++ if bit e 28 then [8] else []
/-- R141: the combination of a router's slots goes UP against the next router's credit; at the root it is the result, or goes to the
root that it is joined to (18 R386). -/
def collSend (s : State) (p : Part) (t g : Nat) (e : Word) (no : Nat) (l : List CollIn) : State :=
  let ents := l.flatMap (·.ents)
  let clear (s : State) : State := l.foldl (fun s c => freeColl s t c) s
  if fld e 24 4 = 15 then
    match afind p.joins g with
    | some link =>
      if (collSlot (s.tile t) g 11 no).isSome then s
      else (addColl (clear s) t ⟨g, no, 11, ents, none⟩).send t (ioSite t (32 + link)) 6 (.peerOut link (.coll g no ents))
    | none => if (collSlot (s.tile t) g 9 no).isSome then s else addColl (clear s) t ⟨g, no, 9, ents, none⟩
  else match portTile s p t (fld e 24 4) with
    | some u => if hasCredit s t (collKey g 15 no) then
        clear ((useCredit s t (collKey g 15 no)).send t u 6 (.coll g no (collKey g 15 no) true ents)) else s
    | none => s
/-- R386: what has gone to the joined peer and what has come from it are the result of both. -/
def collJoined (s : State) (t g no : Nat) : State :=
  let x := s.tile t
  match collSlot x g 11 no, collSlot x g 10 no, collSlot x g 9 no with
  | some a, some b, none => addColl (freeColl (freeColl s t a) t b) t ⟨g, no, 9, a.ents ++ b.ents, none⟩
  | _, _, _ => s
/-- R141: what a router has of one collective goes on, once it has it of every port. -/
def collUp (t g : Nat) (s : State) (no : Nat) : State :=
  let s := collJoined s t g no
  match routerEntry (s.tile t) g, s.part (s.tile t).pid with
  | some e, some p =>
    let l := (collPorts e).filterMap fun k => collSlot (s.tile t) g k no
    if l.isEmpty = false ∧ l.length = (collPorts e).length then collSend s p t g e no l else s
  | _, _ => s
/-- R141: the router of tile t takes in a contribution of group j that has arrived, and sends on what it has of every port. -/
def execCollContribution (t : Nat) (j : Nat) (s : State) : Host.Outcome State Fault Refusal :=
  let s := collTake s t j true
  .next ((collNos (s.tile t) j).foldl (collUp t j) s)
/-- R141: a collective that ends without its result leaves the slots of every router and the links of its tree (log 49). -/
def collWithdraw (s : State) (p : Part) (g no : Nat) : State :=
  let hit (c : CollIn) : Bool := c.grp == g && c.no == no
  let pkt (q : Packet) : Bool := p.tiles.contains q.dst && (match q.body with | .coll g' n _ _ _ => g' == g && n == no | _ => false)
  let ends : List (Tile × Nat) := (p.tiles.flatMap fun t => ((s.tile t).colls.filter hit).filterMap (·.src)) ++
    (s.net.filter pkt).map fun q => (q.src, match q.body with | .coll _ _ k _ _ => k | _ => 0)
  let s := p.tiles.foldl (fun s t => s.modTile t fun x => { x with colls := x.colls.filter fun c => !hit c }) s
  let s := { s with net := s.net.filter fun q => !pkt q }
  ends.foldl (fun s (u, k) => s.modTile u fun x => { x with credits := adel x.credits k }) s

/-- R139: a COLL job starts: its contribution is read into its router's slot, or it completes with GROUP. A member whose source read
fails contributes nothing, and the others wait until ABORT (DESIGN CHOICE, log 103). -/
def startColl (s : State) (t : Tile) (j : Job) : State :=
  let h := lget j.prm 0 0
  match groupEntry (s.tile t) (collGrp j), j.collNo with
  | some e, some no =>
    let op := fld h 0 4
    let ty := fld h 8 3
    let count := fld (lget j.prm 1 0) 0 24
    let g := fld e 29 14
    let rank := fld e 43 13
    let root := fld h 32 13
    let n := if op = 3 ∧ rank ≠ root then 0 else collSrcN op count g
    match collRead t j (lget j.prm 2 0) (collEsz ty) n s with
    | .error (.inl tr) => jobFail (s.modJob t j.order fun k => { k with started := true }) t j tr
    | .error (.inr h) => queueClaim s t j h
    | .ok (s, l) =>
      let c : CollSt :=
        { grp := collGrp j, no := no, tile := t, rank := rank, gsize := g, op := op, red := fld h 4 4, ty := ty, count := count, root := root
          src := l, bad := false }
      (addColl s t ⟨collGrp j, no, 8, [c], none⟩).modJob t j.order fun k => { k with started := true, phase := .blocked }
  | _, _ => jobFail (s.modJob t j.order fun k => { k with started := true }) t j { cause := .group }

/-- R134: the engines of a tile: a started copy or gather moves on; else the next eligible job of the kind starts. -/
def execJobStart (t : Nat) (kind : Nat) (s : State) : Host.Outcome State Fault Refusal :=
  let x := s.tile t
  let busy := x.jobs.find? fun j => j.kind == kind && j.started && !j.finished
  match (if kind ≤ 1 then busy else none) with
  | some j => .next (engineStep s t j)
  | none =>
    match pickJob (x.jobs.filter fun j => (j.kind == kind || (kind == 3 && j.kind == 4)) && eligible s t j) with
    | none => .next s
    | some j => .next (match j.kind with
      | 0 | 1 => s.modJob t j.order fun k => { k with started := true }
      | 2 => startColl s t j
      | _ => startTuber s t j)

end Sys2Proof.Machine
end

