-- ==== Sys2Proof/Machine/TuberOps.lean ====
section
/-! DEFINITION. Sys2Proof/Machine/TuberOps.lean: the bank operators, major 0x60 (15 R333 to R341). An operator is
checked as it issues; its accesses follow one by one while its context waits, those of its sources before those of its destination. -/

namespace Sys2Proof.Machine

/-- R333: a range of n bytes that an operator names, at a tile, for a context's job; a range of no bytes is not checked. -/
def rangeOk (s : State) (t c : Nat) (a : Word) (n align : Nat) (wr : Bool) : Except Trap Unit :=
  if n = 0 then .ok ()
  else if !bankRange s t a n align then .error { cause := .address, addr := a }
  else if !footprintOk s t c a n wr then .error { cause := .footprint, addr := a }
  else .ok ()
/-- Ranges checked in order: address, bytes, direction; all 4-byte aligned. -/
def rangesOk (s : State) (t c : Nat) : List (Word × Nat × Bool) → Except Trap Unit
  | [] => .ok ()
  | (a, n, wr) :: r => match rangeOk s t c a n 4 wr with
    | .error e => .error e
    | .ok _ => rangesOk s t c r
/-- Elements of n bytes read by a tuber core, one access each. -/
def bankRead (t n : Nat) : Nat → Word → State → Except Trap (State × List Nat)
  | 0, _, s => .ok (s, [])
  | k + 1, a, s => match readHome s t (fld a 0 40) n tubR with
    | .error e => .error { e with addr := a }
    | .ok (s, l) => match bankRead t n k (a + w64 n) s with
      | .error e => .error e
      | .ok (s, r) => .ok (s, leNat l :: r)
/-- One element of n bytes written by a tuber core. -/
def bankPut (s : State) (t n : Nat) (a : Word) (v : Nat) : Except Trap State :=
  match writeHome s t (fld a 0 40) (leBytes n v) tubW with
  | .error e => .error { e with addr := a }
  | .ok s => .ok s

/-- R333: f32 arithmetic of the operators. -/
def bankMul (a b : Nat) : Nat := (fmulV f32F .rne (fdec f32F a) (fdec f32F b)).1
def bankSum (a b : Nat) : Nat := (faddV f32F .rne (fdec f32F a) (fdec f32F b)).1
def bankFma (a b c : Nat) : Nat := (ffmaV f32F .rne (fdec f32F a) (fdec f32F b) (fdec f32F c)).1
/-- R340: elements of a destination that share bytes with another index of a source hold free values. -/
def overlaps (dst src : Word) (n i : Nat) : Bool :=
  let k : Int := ((dst.toNat : Int) - src.toNat) / 4
  decide (k ≠ 0) && decide (0 ≤ (i : Int) + k) && decide ((i : Int) + k < n)
/-- The value that element j of a destination receives. -/
def outEl (s : State) (dst : Word) (srcs : List Word) (n j v : Nat) : State × Nat :=
  if srcs.any fun a => overlaps dst a n j then (s.nextFresh, (Config.freeWord s.fresh).toNat % 2 ^ 32) else (s, v)
/-- An operator of Table 15.9 that moves elements, before its first access: x, y, z and the scalar where it uses them. -/
def rangeProg (op : Nat) (x y z : Word) (scal n : Nat) (d : Dest) : OpProg := ⟨0, op, x, y, z, scal, n, 0, [], d, 0⟩
/-- The ranges of an operator (R333, R342). -/
def opRanges (op : Nat) (x y z : Word) (n : Nat) : List (Word × Nat × Bool) :=
  match op with
  | 5 => [(x, 4 * n, false), (y, 4 * n, false)]
  | 6 => [(x, 4 * n, false), (y, 4 * n, false), (z, 4 * n, true)]
  | 7 => [(x, 4 * n, false), (y, 4 * n, true)]
  | 8 => [(z, 4 * n, true)]
  | _ => [(x, 4 * n, false), (z, 4 * n, true)]

/-- A tuber instruction's outcome: its state with the context waiting (R320), or its fault. -/
def bankDone (s : State) (r : Except Trap State) : Host.Outcome State Fault Refusal :=
  finish s (match r with | .ok s => .ok (bankRetire s) | .error tr => .error (.trap tr))
/-- An operator's outcome: its state with the context waiting, or its fault. -/
def opDone (s : State) (r : Except Trap State) : Host.Outcome State Fault Refusal :=
  finish s (match r with | .ok s => .ok s | .error tr => .error (.trap tr))
/-- R329: an operator goes on from its progress, or begins; one that makes no access is done at once. -/
def startOp (s : State) (p : OpProg) (none_ : Thread → Thread) : State :=
  match s.me.tub.prog with
  | some q => if q.op = p.op ∧ q.pc = s.th.pc then beginOp s q else beginOp s p
  | none => if p.n = 0 then bankRetire (s.modTh none_) else beginOp s p
/-- R333: a range operator as an instruction; count in gC. -/
def rangeOp (s : State) (op : Nat) (x y z : Word) (scal : Nat) (c : G) (d : Option G) : Except Trap State :=
  let n := (rdG s.th c).toNat
  if 2 ^ 32 ≤ n then .error { cause := .address, addr := rdG s.th c }
  else match rangesOk s s.cur.t s.cur.c (opRanges op x y z n) with
    | .error e => .error e
    | .ok _ => .ok (startOp s (rangeProg op x y z scal n (match d with | some r => .g r.val .u64 | none => .none))
        fun th => match d with | some r => wrG th r 0 | none => th)
def execBdot (d : G) (a : G) (b : G) (c : G) (s : State) : Host.Outcome State Fault Refusal :=
  opDone s (rangeOp s 5 (rdG s.th a) (rdG s.th b) 0 0 c (some d))
def execBadd (d : G) (a : G) (b : G) (c : G) (s : State) : Host.Outcome State Fault Refusal :=
  opDone s (rangeOp s 6 (rdG s.th a) (rdG s.th b) (rdG s.th d) 0 c none)
def execBaxpy (d : G) (a : G) (b : G) (c : G) (s : State) : Host.Outcome State Fault Refusal :=
  opDone s (rangeOp s 7 (rdG s.th a) (rdG s.th d) 0 (fld (rdG s.th b) 0 32) c none)
def execBfill (d : G) (b : G) (c : G) (s : State) : Host.Outcome State Fault Refusal :=
  opDone s (rangeOp s 8 0 0 (rdG s.th d) (fld (rdG s.th b) 0 32) c none)
def execBcopy (d : G) (a : G) (c : G) (s : State) : Host.Outcome State Fault Refusal :=
  opDone s (rangeOp s 9 (rdG s.th a) 0 (rdG s.th d) 0 c none)

-- The scan.
/-- The executing context's tuber state changes. -/
def State.modTub (s : State) (f : Tub → Tub) : State := s.modMe fun c => { c with tub := f c.tub }
/-- R334. -/
def bscanOp (s : State) (a n id : Word) : Except Trap State :=
  if 2 ^ 32 ≤ n.toNat then .error { cause := .address, addr := n }
  else match rangeOk s s.cur.t s.cur.c a (64 * n.toNat) 64 false with
    | .error e => .error e
    | .ok _ => .ok (s.modTub fun u => { u with so := true, sbase := a, nrow := n.toNat, idb := id.setWidth 32, fa := false })
def execBscan (a : G) (b : G) (d : G) (s : State) : Host.Outcome State Fault Refusal :=
  bankDone s (bscanOp s (rdG s.th a) (rdG s.th b) (rdG s.th d))
/-- R335. -/
def filtOp (s : State) (ne : Bool) (range a mv : Word) : Except Trap State :=
  let u := s.me.tub
  if !u.so then .error { cause := .noScan }
  else match rangeOk s s.cur.t s.cur.c a (4 * u.nrow) 4 false with
    | .error e => .error e
    | .ok _ => .ok (s.modTub fun u =>
        { u with fa := true, fne := ne, fbase := a, fmask := mv.setWidth 32, fval := BitVec.ofNat 32 (fld mv 32 32)
                 flo := range.setWidth 32, fhi := BitVec.ofNat 32 (fld range 32 32) })
def execFilt (ne : Bool) (d : G) (a : G) (b : G) (s : State) : Host.Outcome State Fault Refusal :=
  bankDone s (filtOp s ne (rdG s.th d) (rdG s.th a) (rdG s.th b))
/-- R335: whether an attribute passes the filter. -/
def attrPass (u : Tub) (a : Nat) : Bool :=
  let c := (BitVec.ofNat 32 a &&& u.fmask) == u.fval
  (if u.fne then !c else c) && decide (u.flo.toNat ≤ a) && decide (a ≤ u.fhi.toNat)
/-- R336: the place of an entry in the list's order; equal keys keep the earlier first. -/
def topKey (e : BitVec 16 × BitVec 32) : Nat := e.1.toNat * 2 ^ 32 + e.2.toNat
def topPlace (e : BitVec 16 × BitVec 32) : List (BitVec 16 × BitVec 32) → List (BitVec 16 × BitVec 32)
  | [] => [e]
  | x :: r => if topKey e < topKey x then e :: x :: r else x :: topPlace e r
def topInsert (u : Tub) (e : BitVec 16 × BitVec 32) : Tub :=
  if u.tlist.length < u.tcap then { u with tlist := topPlace e u.tlist }
  else match u.tlist.getLast? with
    | some z => if topKey e < topKey z then { u with tlist := topPlace e u.tlist.dropLast } else u
    | none => u
def execTopk (a : G) (b : G) (s : State) : Host.Outcome State Fault Refusal :=
  bankDone s (.ok (s.modTub fun u => topInsert u ((rdG s.th a).setWidth 16, (rdG s.th b).setWidth 32)))
def execTopkInit (k : BitVec 32) (s : State) : Host.Outcome State Fault Refusal :=
  bankDone s (.ok (s.modTub fun u => { u with tcap := k.toNat, tlist := [], spare := [] }))
/-- R337. -/
def tkrdOp (s : State) (d : G) (ea : Word) : Except Trap State :=
  let u := s.me.tub
  match rangeOk s s.cur.t s.cur.c ea (8 * u.tcap) 8 true with
  | .error e => .error e
  | .ok _ => .ok (startOp s ⟨0, 11, ea, 0, 0, 0, u.tcap, 0, [], .g d.val .u64, 0⟩ fun th => wrG th d 0)
def execTkrd (d : G) (m : MemB) (s : State) : Host.Outcome State Fault Refusal := opDone s (tkrdOp s d (eaB s.th m))
/-- R338: one row: whether it passes, and its distance. -/
def hammRow (t : Nat) (u : Tub) (q : Nat) (i : Nat) (s : State) : Except Trap (State × Option Nat) :=
  let attr := if u.fa then bankRead t 4 1 (u.fbase + w64 (4 * i)) s else .ok (s, [])
  match attr with
  | .error e => .error e
  | .ok (s, a) =>
    if u.fa && !attrPass u (lget a 0 0) then .ok (s, none)
    else match bankRead t 16 4 (u.sbase + w64 (64 * i)) s with
      | .error e => .error e
      | .ok (s, l) =>
        let row := lget l 0 0 + lget l 1 0 * 2 ^ 128 + lget l 2 0 * 2 ^ 256 + lget l 3 0 * 2 ^ 384
        .ok (s, some ((List.range 512).countP fun j => (row ^^^ q).testBit j))
/-- R338: HAMM runs the rows of the open scan; the query is kept with its progress, and the rows that passed are counted there. -/
def hammOp (s : State) (d : G) (a : V) : Except Trap State :=
  let u := s.me.tub
  let t := s.cur.t
  let v := if s.th.vlive.getLsbD a.val then rdV s.th a else Vector.replicate 16 0
  if !u.so then .error { cause := .noScan }
  else match rangeOk s t s.cur.c u.sbase (64 * u.nrow) 64 false, rangeOk s t s.cur.c u.fbase (if u.fa then 4 * u.nrow else 0) 4 false with
    | .error e, _ => .error e
    | _, .error e => .error e
    | .ok _, .ok _ => .ok (startOp s ⟨0, 10, 0, 0, 0, 0, u.nrow, 0, [leNat (vBytes v)], .g d.val .u64, 0⟩ fun th => wrG th d 0)
def execHamm (d : G) (a : V) (s : State) : Host.Outcome State Fault Refusal := opDone s (hammOp s d a)

-- The accesses of a tuber access or operator, one boundary after each element or row (R329).
/-- How many of them there are: the operators that write a range first gather what they will write (R340). -/
def OpProg.total (p : OpProg) : Nat :=
  match p.op with
  | 0 | 1 => 1
  | 6 | 7 | 9 => 2 * p.n
  | _ => p.n
/-- One element read from a source, or two, and what it gives. -/
def gather1 (s : State) (t : Nat) (p : OpProg) (f : Nat → Nat) : Except Trap (State × OpProg) :=
  match bankRead t 4 1 (p.x + w64 (4 * p.i)) s with
  | .error e => .error e
  | .ok (s, l) => .ok (s, { p with acc := p.acc ++ [f (lget l 0 0)] })
def gather2 (s : State) (t : Nat) (p : OpProg) (f : Nat → Nat → Nat) : Except Trap (State × OpProg) :=
  match bankRead t 4 1 (p.x + w64 (4 * p.i)) s with
  | .error e => .error e
  | .ok (s, l) => match bankRead t 4 1 (p.y + w64 (4 * p.i)) s with
    | .error e => .error e
    | .ok (s, m) => .ok (s, { p with acc := p.acc ++ [f (lget l 0 0) (lget m 0 0)] })
/-- What has been gathered is written, an element at a time. -/
def spread (s : State) (t : Nat) (p : OpProg) (dst : Word) (srcs : List Word) : Except Trap (State × OpProg) :=
  let j := p.i - p.n
  let (s, v) := outEl s dst srcs p.n j (lget p.acc j 0)
  match bankPut s t 4 (dst + w64 (4 * j)) v with
  | .error e => .error e
  | .ok s => .ok (s, p)
/-- Access i of an operator (R337 to R340), of an LD or of an ST: the state, the scan's list and the progress. -/
def opAccess (s : State) (t : Nat) (u : Tub) (p : OpProg) : Except Trap (State × Tub × OpProg) :=
  let keep (r : Except Trap (State × OpProg)) : Except Trap (State × Tub × OpProg) :=
    match r with | .ok (s, p) => .ok (s, u, p) | .error e => .error e
  match p.op with
  | 0 => (match readPieces s t tubR (localPieces p.x p.n) with
    | .ok (s, l) => .ok (s, u, { p with acc := l.map (·.toNat) })
    | .error e => .error { e with addr := p.x })
  | 1 => (match writePieces s t tubW (splitData (localPieces p.x p.n) (p.acc.map (BitVec.ofNat 8))) with
    | .ok s => .ok (s, u, p)
    | .error e => .error { e with addr := p.x })
  | 5 => keep (gather2 s t p bankMul)
  | 6 => keep (if p.i < p.n then gather2 s t p bankSum else spread s t p p.z [p.x, p.y])
  | 7 => keep (if p.i < p.n then gather2 s t p (bankFma p.scal) else spread s t p p.y [p.x])
  | 8 => (match bankPut s t 4 (p.z + w64 (4 * p.i)) p.scal with
    | .error e => .error e
    | .ok s => .ok (s, u, p))
  | 9 => keep (if p.i < p.n then gather1 s t p id else spread s t p p.z [])
  | 10 => (match hammRow t u (lget p.acc 0 0) p.i s with
    | .error e => .error e
    | .ok (s, none) => .ok (s, u, p)
    | .ok (s, some d) => .ok (s, topInsert u (BitVec.ofNat 16 d, u.idb + BitVec.ofNat 32 p.i), { p with scal := p.scal + 1 }))
  | _ => (match bankPut s t 8 (p.x + w64 (8 * p.i)) (topWord (u.tlist[p.i]?.getD topNone)).toNat with
    | .error e => .error e
    | .ok s => .ok (s, u, p))
/-- The result of a finished operator: BDOT's sum, the rows that passed, the list's count, else the count. -/
def opResult (u : Tub) (p : OpProg) : Word :=
  match p.op with
  | 5 => w64 (reduceTree bankSum 0 p.acc)
  | 10 => w64 p.scal
  | 11 => w64 u.tlist.length
  | _ => w64 p.n
/-- The bytes that a finished access or operator writes to its destination. -/
def opBytes (u : Tub) (p : OpProg) : List Byte :=
  if p.op = 0 then p.acc.map (BitVec.ofNat 8) else wBytes (opResult u p)

end Sys2Proof.Machine
end

