-- ==== Sys2Proof/Machine/Contexts.lean ====
section
/-! DEFINITION. Sys2Proof/Machine/Contexts.lean: how contexts are filled: the tile core's (08 R155, 16 R348, R349) and the tuber
core's (15 R324, R325), the return pod (R328), the bank's grants (R327), pre-emption and saved threads (R329 to R331). -/

namespace Sys2Proof.Machine

/-- R146: the TID of the next thread that a tile creates. -/
def newTid (x : TileSt) : BitVec 32 := BitVec.ofNat 32 (x.rank % 2 ^ 13 * 2 ^ 19 + x.created % 2 ^ 19)
/-- R153: a new thread of a tile, before its seeds. -/
def freshThread (x : TileSt) : Thread :=
  { Thread.zero with
    tid := newTid x, ox := BitVec.ofNat 7 x.lx, oy := BitVec.ofNat 6 x.ly, cx := BitVec.ofNat 7 x.lx, cy := BitVec.ofNat 6 x.ly
    pid := BitVec.ofNat 6 x.pid }
/-- R86, R146: a thread created at a tile that has room for its charge. -/
def createThread (s : State) (t c : Nat) (f : Thread → Thread) : Option State :=
  match takeCharge (s.tile t) with
  | none => none
  | some (n, x) =>
    some ((s.setTile t { x with created := x.created + 1 }).setCtx t c
      (Ctx.ofThread (f { freshThread (s.tile t) with slot := n }) x.lcyc))
/-- Registers g1 to gn from a list. -/
def seedRegs (first : Nat) (l : List Word) (th : Thread) : Thread :=
  l.zipIdx.foldl (fun th e => wrGn th (first + e.2) e.1) th
/-- R349: thread j of a launch's population. -/
def popThread (l : Launch) (j : Nat) (th : Thread) : Thread :=
  let th := seedRegs 1 l.seeds { th with pc := l.pc, launch := some l.no }
  wrGn (wrGn th 7 (w64 j)) 13 l.lwa
/-- R153: the thread of a record of a running launch. -/
def recThread (r : Rec) (no : Nat) (th : Thread) : Thread :=
  let th := { th with pc := r.cpc.setWidth 64, launch := some no, tjob := r.tjob }
  wrGn (wrGn (wrGn (wrGn th 1 (r.arg0.setWidth 64)) 2 (r.arg1.setWidth 64)) 13 r.jca) 14 r.fp

/-- The running launch of an index in a tile's partition. -/
def launchOf (s : State) (t li : Nat) : Option Launch :=
  match s.part (s.tile t).pid with
  | some p => afind p.launches li
  | none => none
/-- R348: the pending population of highest PRIO, the one installed first among equals, with its place in the list. A tile makes no
thread of a launch against which it is held (R373). -/
def pickPop (s : State) (t : Nat) : List (Pop × Nat) → Option (Nat × Pop × Launch)
  | [] => none
  | (p, i) :: r =>
    match launchOf s t p.li with
    | some l =>
      if p.made < p.quota ∧ (holder s (s.tile t).pid (some l.no) t).isNone = true then
        match pickPop s t r with
        | some (k, q, m) => if m.prio ≤ l.prio then some (i, p, l) else some (k, q, m)
        | none => some (i, p, l)
      else pickPop s t r
    | none => pickPop s t r
/-- R348: one thread of a pending population into a free context. -/
def fillPop (s : State) (t c i : Nat) (p : Pop) (l : Launch) : State :=
  match createThread s t c (popThread l p.made) with
  | some s => s.modTile t fun x => { x with pops := x.pops.set i { p with made := p.made + 1 } }
  | none => s

/-- The deque's records from the oldest, and the records that a test keeps, the ring's written anew (R154). -/
def spillAll (s : State) (t : Nat) : List Rec := (List.range (s.tile t).spCount).map (spillGet s t)
def keepRecs (s : State) (t : Nat) (f : Rec → Nat → Bool) : State :=
  let ring := spillAll s t
  let kept := (ring.zipIdx.filter fun e => f e.1 e.2).map (·.1)
  let s := (spillWake s t 0 ring.length).modTile t fun x =>
    { x with deque := ((x.deque.zipIdx ring.length).filter fun e => f e.1 e.2).map (·.1) }
  if kept.length = ring.length then s
  else
    let s := s.modTile t fun x => { x with spCount := 0, spJobs := [] }
    kept.foldl (fun s r => spillPush s t r) s
/-- R373, R375: a held tile pops no record of a victim. -/
def poppable (s : State) (t : Nat) (r : Rec) : Bool := (holder s (s.tile t).pid (runNo s (s.tile t).pid r.lch) t).isNone
/-- R153, R359: a popped record that names no running launch is discarded and reported. -/
def recordNotice (s : State) (t c : Nat) (r : Rec) : State :=
  let tr : Trap := { cause := .record, addr := r.cpc.setWidth 64 }
  jobThreadEnd (sendPacket s t (fwSite (fieldOf t)) (packetWords s t c tr (r.cpc.setWidth 64) 0 0 {} false)) r.tjob 0
/-- R155: a pop into a free context. -/
def fillPopped (s : State) (t c : Nat) : State :=
  let s := refillSram s t
  let all := spillAll s t ++ (s.tile t).deque
  match (all.zipIdx.filter fun e => poppable s t e.1).getLast? with
  | none => s
  | some (r, i) =>
    let rest (s : State) : State := keepRecs s t fun _ k => k != i
    match launchOf s t r.lch with
    | none => rest (recordNotice s t c r)
    | some l =>
      match createThread s t c (recThread r l.no) with
      | some s => rest s
      | none => s
/-- R405: the next thread of a population that was installed on an empty tile, in the context of its number. -/
def placePop (s : State) (t : Nat) : Option State :=
  match placing (s.tile t) with
  | some (p, i) =>
    (match pickPop s t [(p, i)] with
    | some (_, _, l) => if isFree (s.tile t) p.made && (takeCharge (s.tile t)).isSome then some (fillPop s t p.made i p l) else none
    | none => none)
  | none => none
/-- R155, R405: one free user context takes the first source that has something to give; a creation is held while the tile
carries 4,128 charges (R86). -/
def fillContext (s : State) (t : Nat) : State :=
  let x := s.tile t
  match placePop s t with
  | some s => s
  | none =>
    match freeUser x with
    | none => s
    | some c =>
      if !x.arrSides.isEmpty then fillRing t 1 s
      else if (takeCharge x).isNone then s
      else match pickPop s t (x.pops.zipIdx.filter fun e => !(e.1.placed && decide (e.1.made < 30))) with
        | some (i, p, l) => fillPop s t c i p l
        | none => fillPopped s t c
def execContextFill (t : Nat) (s : State) : Host.Outcome State Fault Refusal := .next (fillContext s t)

-- The return pod.
/-- R328, R165: a returning context sends its pod to its own tile core once a charge is there, and is free (Table 15.3). -/
def returnPod (s : State) (t c : Nat) : State :=
  let x := s.ctx t c
  let y := s.tile t
  if x.st ≠ .returning ∨ c < 32 then s
  else match takeCharge y with
    | none => s
    | some (n, y') =>
      let own := { x.th with ox := BitVec.ofNat 7 y.lx, oy := BitVec.ofNat 6 y.ly, cx := BitVec.ofNat 7 y.lx, cy := BitVec.ofNat 6 y.ly }
      let th := podLive { own with slot := n, ret := true, rel := false, parked := false }
      let s := endHolds (s.setTile t y') t c x.th
      ((freeCtx s t c).modTile t fun z => { z with moving := z.moving ++ [(th, t, none)] }).send t t 0 (.pod th 0 none none)
def execReturnPodSend (t : Nat) (c : Nat) (s : State) : Host.Outcome State Fault Refusal := .next (returnPod s t c)

-- Saved tuber threads.
/-- R330: the bytes that a save slot holds for an operator in progress; the manual leaves them open (log 82). -/
def progBytes (p : OpProg) : List Byte :=
  let key := [p.op, p.x.toNat, p.y.toNat, p.z.toNat, p.scal, p.n, p.i] ++ p.acc
  (List.range 256).map (Config.progressByte key)
/-- R330, Table 15.6: the pieces of a save slot, by offset. -/
def saveImage (v : Saved) : List (Nat × List Byte) :=
  [(0, podHead v.th 0), (160, wordsBytes (tubWords v.tub))] ++
  (((List.range 8).filter fun i => v.th.vlive.getLsbD i).map fun i => (256 + 64 * i, vBytes v.th.v[Fin.ofNat 8 i])) ++
  [(768, wordsBytes (v.tub.tlist.map topWord)), (1280, match v.tub.prog with | some p => progBytes p | none => []), (2040, wBytes (w64 (2 ^ 63 + v.pri % 4 * 2 ^ 32 + v.seq.toNat)))]
/-- The slot's image written, and whether it still stands. -/
def putImage (s : State) (t : Nat) (v : Saved) : State :=
  (saveImage v).foldl (fun s e => if e.2.isEmpty then s else physPut s t (saveSlot v.held v.slot + e.1) e.2) s
def imageKept (s : State) (t : Nat) (v : Saved) : Bool :=
  (saveImage v).all fun e => physGet s t (saveSlot v.held v.slot + e.1) e.2.length == e.2
/-- R330: the unspecified state of a thread whose slot software has written: free values (log 4). -/
def freeState (n : Nat) (v : Saved) : Saved :=
  let w (k : Nat) : Word := Config.freeWord (n + k)
  let th := { v.th with
    pc := w 0
    g := (List.range 15).foldl (fun g i => g.set (Fin.ofNat 16 (i + 1)) (w (i + 1))) v.th.g
    v := (List.range 8).foldl (fun x i => x.set (Fin.ofNat 8 i) (lanes fun l => (w (32 + 16 * i + l)).setWidth 32)) v.th.v
    p := (List.range 7).foldl (fun p i => p.set (Fin.ofNat 8 (i + 1)) (bit (w 16) i)) v.th.p
    k := #v[0, (w 17).setWidth 16, (w 18).setWidth 16, (w 19).setWidth 16]
    vlive := (w 20).setWidth 8, klive := (w 21).setWidth 3, rm := (w 22).setWidth 2, fst := (w 23).setWidth 5 }
  let tub := { v.tub with
    so := bit (w 24) 0, fa := bit (w 24) 1, fne := bit (w 24) 2, sbase := w 25, idb := (w 26).setWidth 32, nrow := fld (w 26) 32 32
    fbase := w 27, fmask := (w 28).setWidth 32, fval := BitVec.ofNat 32 (fld (w 28) 32 32), flo := (w 29).setWidth 32
    fhi := BitVec.ofNat 32 (fld (w 29) 32 32), tcap := fld (w 30) 0 7 % 65
    tlist := (List.range (fld (w 31) 0 7 % 65)).map fun i => ((w (160 + i)).setWidth 16, BitVec.ofNat 32 (fld (w (160 + i)) 32 32)) }
  { v with th := th, tub := tub }

/-- R331: whether a tile is held by spatial pre-emption. -/
def tileHeld (s : State) (t : Nat) : Bool :=
  match s.part (s.tile t).pid with
  | some p => p.launches.any fun e => e.2.holds && e.2.rect.has (t % 128 - p.x0) (t / 128 - p.y0)
  | none => false
/-- The saved thread of a priority that is restored first. -/
def nextSaved (s : State) (t pri : Nat) : List Saved → Option Saved
  | [] => none
  | v :: r =>
    let rest := nextSaved s t pri r
    if v.pri = pri ∧ (v.held && tileHeld s t) = false then
      match rest with
      | some u => if v.seq.toNat ≤ u.seq.toNat then some v else some u
      | none => some v
    else rest
/-- The threads of a started job that have not started: R325, R373. -/
def unstarted (s : State) (t : Nat) (j : Job) : Nat :=
  if j.started && !j.finished && (j.kind == 4 || (j.kind == 3 && (holder s (s.tile t).pid j.launch t).isNone)) then
    (if j.kind = 4 then 1 else fld (lget j.prm 1 0) 0 16) - j.next
  else 0
def nextJob (s : State) (t pri : Nat) : Option Job :=
  (s.tile t).jobs.find? fun j => j.pri == pri && decide (0 < unstarted s t j)
/-- R325: the lowest free tuber context (log 11). -/
def freeTuber (x : TileSt) : Option Nat :=
  ((List.range 8).map (32 + ·)).find? fun c => match afind x.ctxs c with | some y => y.st == .free | none => true
/-- R324: thread j of a TUBER job. -/
def tuberThread (t : Nat) (j : Job) (th : Thread) : Thread :=
  let th := { th with pc := lget j.prm 0 0, launch := j.launch, tjob := some (t, j.order) }
  seedRegs 2 ((List.range 5).map fun i => lget j.prm (2 + i) 0) (wrGn th 1 (w64 j.next))
/-- R342: an NCMD's operator on a tuber context, before its first access. -/
def startNcmd (s : State) (t c : Nat) (j : Job) : State :=
  let s1 := s.modJob t j.order fun k => { k with next := 1 }
  let w := j.prm
  let p := rangeProg (fld (lget w 0 0) 0 4) (lget w 1 0) (lget w 2 0) (lget w 3 0) (fld (lget w 5 0) 0 32) (fld (lget w 4 0) 0 32) .none
  s1.setCtx t c { Ctx.ofThread { freshThread (s.tile t) with launch := j.launch } (s.tile t).tcyc with
    st := .waiting, wait := .bank
    tub := { Tub.zero with jent := j.ent, isNcmd := true, prog := some { p with asked := (s.tile t).tcyc } } }
/-- R324: the next thread of a job into a tuber context; the instruction buffer is emptied (R319). -/
def startThread (s : State) (t c : Nat) (j : Job) : State :=
  let x := s.tile t
  let s := s.modJob t j.order fun k => { k with next := k.next + 1 }
  let s := s.modTile t fun x => { x with created := x.created + 1, ibuf := [] }
  s.setCtx t c { Ctx.ofThread (tuberThread t j (freshThread x)) x.tcyc with tub := { Tub.zero with jent := j.ent } }
/-- R330, R331: a saved thread back into a tuber context. -/
def restoreThread (s : State) (t c : Nat) (v : Saved) : State :=
  let kept := imageKept s t v
  let s := physWake s t (saveSlot v.held v.slot) 2048
  let v' := if kept then v else freeState s.fresh v
  let s := if kept then s else { s with fresh := s.fresh + 256 }
  let s := s.modTile t fun x => { x with saved := x.saved.filter fun u => u.seq != v.seq }
  let s := if v.held then s else physPut s t (saveSlot false v.slot + 2040) (wBytes 0)
  let x := { Ctx.ofThread v'.th (s.tile t).tcyc with
    tb0 := v.tb0, tb1 := v.tb1
    tub := { v'.tub with heldSlot := (if v.held then some v.slot else none), preempt := false
                         prog := v'.tub.prog.map fun p => { p with asked := (s.tile t).tcyc } } }
  s.setCtx t c (if v.frozen then { x with st := .frozen } else if v.tub.isNcmd then { x with st := .waiting, wait := .bank } else x)
/-- R325, from a priority down. -/
def fillTuberFrom (s : State) (t c : Nat) : Nat → State
  | 0 => s
  | n + 1 =>
    match nextSaved s t n (s.tile t).saved, nextJob s t n with
    | some v, _ => restoreThread s t c v
    | none, some j => if j.kind = 4 then startNcmd s t c j else startThread s t c j
    | none, none => fillTuberFrom s t c n
def execTuberContextFill (t : Nat) (s : State) : Host.Outcome State Fault Refusal :=
  match freeTuber (s.tile t) with
  | some c => .next (fillTuberFrom s t c 4)
  | none => .next s

-- The accesses of a context that waits (R320, R327, R329).
/-- R320, R342: a finished access or operator: its destination is written and the context is ready at the next word, or as an
NCMD's, its value is sent and it is free. -/
def opFinish (s : State) (t c : Nat) (p : OpProg) : State :=
  let x := s.ctx t c
  if x.tub.isNcmd then
    match tubJob s t c with
    | some j => (ncmdReply s t j (opResult x.tub p) none).setCtx t c Ctx.free
    | none => s.setCtx t c Ctx.free
  else retireNext (s.setCtx t c { x with th := putDest p.dest [] (opBytes x.tub p) x.th, tub := { x.tub with prog := none } }) t c
/-- R327, R320: the bank grants a waiting context its next access; with the last the context is done. -/
def bankComplete (s : State) (t c : Nat) : State :=
  let x := s.ctx t c
  if x.st = .waiting ∧ x.wait = .bank then
    match x.tub.prog with
    | none => s.setCtx t c { x with st := .ready, wait := .none }
    | some p =>
      if p.total ≤ p.i then opFinish s t c p
      else match opAccess s t x.tub p with
        | .error tr => freeze s t c tr x.th.pc x.iw
        | .ok (s, u, p) =>
          let p := { p with i := p.i + 1, asked := (s.tile t).tcyc }
          let s := s.modCtx t c fun x => { x with tub := { u with prog := some p } }
          if p.total ≤ p.i then opFinish s t c p else s
  else s
def execBankAccessComplete (t : Nat) (c : Nat) (s : State) : Host.Outcome State Fault Refusal := .next (bankComplete s t c)
/-- R327: whether the request of a context has waited 512 tuber cycles. -/
def aged (s : State) (t c : Nat) : Bool :=
  match (s.ctx t c).tub.prog with
  | some p => decide (p.asked + 512 ≤ (s.tile t).tcyc)
  | none => false
/-- R327: a request that has waited 512 tuber cycles takes the next slot of its bank. -/
def execAgedRequest (t : Nat) (c : Nat) (s : State) : Host.Outcome State Fault Refusal :=
  if aged s t c then .next (bankComplete s t c) else .next s
/-- R327: the aged requests of a tile, ahead of every other. -/
def serveAged (s : State) (t : Nat) : State := ((List.range 8).map (32 + ·)).foldl (fun s c => if aged s t c then bankComplete s t c else s) s

-- Pre-emption by priority.
/-- The priority and the submission order of a tuber context's job. -/
def tubPri (s : State) (t c : Nat) : Nat × Nat := match tubJob s t c with | some j => (j.pri, j.order) | none => (0, 0)
/-- R329: how many threads above a priority wait for a context. -/
def waitingAbove (s : State) (t pri : Nat) : Nat :=
  let x := s.tile t
  (x.saved.filter fun v => decide (pri < v.pri) && !(v.held && tileHeld s t)).length +
    (x.jobs.foldl (fun n j => if pri < j.pri then n + unstarted s t j else n) 0)
/-- Whether a context may be pre-empted now. -/
def mayPreempt (x : Ctx) : Bool := match x.st with | .ready | .running | .waiting => true | _ => false
/-- Whether context a goes before context b: lower priority, later job, higher number. -/
def preemptsBefore (s : State) (t a b : Nat) : Bool :=
  let (p, n) := tubPri s t a
  let (q, m) := tubPri s t b
  decide (p < q) || (p == q && (decide (m < n) || (n == m && decide (b < a))))
/-- R329: the context that is pre-empted next. -/
def preemptNext (s : State) (t : Nat) : List Nat → Option Nat
  | [] => none
  | c :: r =>
    match preemptNext s t r with
    | some d => if mayPreempt (s.ctx t c) && preemptsBefore s t c d then some c else some d
    | none => if mayPreempt (s.ctx t c) then some c else none
/-- R329: an LD or ST in progress has no boundary inside it. -/
def toBoundary (s : State) (t c : Nat) : State :=
  match (s.ctx t c).tub.prog with
  | some p => if p.op < 5 then bankComplete s t c else s
  | none => s
/-- A tuber context stops at its boundary and is to be saved; preh marks one that was frozen (R329). -/
def startSave (s : State) (t c : Nat) (spatial : Bool) : State :=
  let s := toBoundary s t c
  let was (x : Ctx) : Bool := x.st == .frozen
  if was (s.ctx t c) && !spatial then s
  else s.modCtx t c fun x => { x with st := .saving, wait := .none, preh := spatial && was x, tub := { x.tub with preempt := spatial } }
def execTuberPreempt (t : Nat) (c : Nat) (s : State) : Host.Outcome State Fault Refusal :=
  let all := (List.range 8).map (32 + ·)
  let saving := (all.filter fun d => (s.ctx t d).st == .saving && !(s.ctx t d).tub.preempt).length
  if preemptNext s t all = some c ∧ freeTuber (s.tile t) = none ∧ saving < waitingAbove s t (tubPri s t c).1 then
    .next (startSave s t c false)
  else .next s

/-- R330, R331: the slot that a saved thread takes: its own held one, or the lowest free one of its area (log 11). -/
def saveTarget (s : State) (t c : Nat) : Option (Bool × Nat) :=
  let x := s.ctx t c
  match x.tub.heldSlot with
  | some k => some (true, k)
  | none =>
    let held := x.tub.preempt
    let live := (List.range 8).filterMap fun i => (s.ctx t (32 + i)).tub.heldSlot
    let used := ((s.tile t).saved.filter fun v => v.held == held).map (·.slot) ++ (if held then live else [])
    match lowestFree used 0 (if held then 8 else 32) with
    | some k => some (held, k)
    | none => none
def saveThread (s : State) (t c : Nat) : State :=
  let x := s.ctx t c
  match x.st, saveTarget s t c with
  | .saving, some (held, k) =>
    let v : Saved :=
      { held := held, slot := k, seq := (s.tile t).saveSeq, pri := (tubPri s t c).1, th := podLive x.th, tub := x.tub, tb0 := x.tb0, tb1 := x.tb1
        frozen := x.preh }
    let s := putImage s t v
    (s.modTile t fun y => { y with saved := y.saved ++ [v], saveSeq := y.saveSeq + 1 }).setCtx t c Ctx.free
  | _, _ => s
def execTuberSave (t : Nat) (c : Nat) (s : State) : Host.Outcome State Fault Refusal := .next (saveThread s t c)

end Sys2Proof.Machine
end

