-- ==== Sys2Proof/Machine/Control.lean ====
section
/-! DEFINITION. Sys2Proof/Machine/Control.lean: control, major 0x0C (10 R213 to R215), and the words that execute nothing
(09 R180, R183, 15 R328). -/

namespace Sys2Proof.Machine

/-- R213: the target of a word offset. -/
def target (pc : Word) (off : BitVec 32) : Word := pc + 12 + 12 * simm off

def execBr (off : BitVec 32) (s : State) : Host.Outcome State Fault Refusal := .next (s.retireAt (target s.th.pc off))
def execBrx (a : G) (s : State) : Host.Outcome State Fault Refusal := .next (s.retireAt (rdG s.th a))
def execCall (off : BitVec 32) (s : State) : Host.Outcome State Fault Refusal :=
  .next ((s.modTh fun th => wrG th 15 (th.pc + 12)).retireAt (target s.th.pc off))
/-- The target is read before g15 is written. -/
def execCallx (a : G) (s : State) : Host.Outcome State Fault Refusal :=
  .next ((s.modTh fun th => wrG th 15 (th.pc + 12)).retireAt (rdG s.th a))
def execRet (s : State) : Host.Outcome State Fault Refusal := .next (s.retireAt (rdG s.th 15))
def execLoop (d : G) (off : BitVec 32) (s : State) : Host.Outcome State Fault Refusal :=
  let s1 := s.modTh fun th => wrG th d (rdG th d - 1)
  .next (if rdG s1.th d = 0 then s1.retire else s1.retireAt (target s.th.pc off))
def execNop (s : State) : Host.Outcome State Fault Refusal := .next s.retire

/-- R277: whether every follower has issued what was forwarded to it. -/
def followersDone (s : State) (x : Ctx) : Bool :=
  match x.gang with
  | .leading l => l.all fun f => (s.ctx f 29).fq.isEmpty
  | _ => true
/-- R215: EXIT's steps in order: the first that must wait leaves the instruction to issue again, with what has been done before it. A
tuber thread that holds a save slot frees it (R331). -/
def exitOp (s : State) (t c : Nat) : State :=
  let stay (s : State) : State := s.modCtx t c fun x => { x with st := .waiting, wait := .retry }
  if !(s.ctx t c).pend.isEmpty then stay s
  else
    let s := flushCtx s t c
    if !(s.ctx t c).outs.isEmpty || streamDrains s t c then stay s
    else
      let s := exitPanes s t c
      if followersDone s (s.ctx t c) then exitThread s t c else stay s
def execExit (s : State) : Host.Outcome State Fault Refusal := .next (exitOp s s.cur.t s.cur.c)

/-- R180, R182. -/
def execIllegal (s : State) : Host.Outcome State Fault Refusal := .next (takeFault s { cause := .illegal })
/-- R183. -/
def execPoolexec (s : State) : Host.Outcome State Fault Refusal := .next (takeFault s { cause := .poolExec })
/-- R182, R328: a word outside the tuber profile. -/
def execReturnTrap (s : State) : Host.Outcome State Fault Refusal := .next (returnTrap s s.cur.t s.cur.c)

end Sys2Proof.Machine
end

