-- ==== Sys2Proof/Machine/Queues.lean ====
section
/-! DEFINITION. Sys2Proof/Machine/Queues.lean: user queues (16 R343 to R347): the command processor's accesses, the wake notice,
taking and checking packets, stops and resets, creation; and the completion of packets (R346, R352, R356). -/

namespace Sys2Proof.Machine

-- The processor's accesses, with the partition's rights (R347, R352).
def procHome (s : State) (p : Part) (va : Word) (n : Nat) (k : Acc) : Except Trap (Tile × Nat) :=
  let bad : Except Trap (Tile × Nat) := .error { cause := .address, addr := va }
  match resolve s (p.at 0 0) false va k n with
  | .error e => .error e
  | .ok (.edge _) => bad
  | .ok (.tile h off) =>
    let room := if off / 2 ^ 40 = 2 then 0x40000 else 2 ^ 40
    if room < off % 2 ^ 40 + n then bad else .ok (h, off)
def procRead (s : State) (p : Part) (va : Word) (n : Nat) : Except Trap (State × List Byte) :=
  match procHome s p va n aRead with
  | .error e => .error e
  | .ok (h, off) => match readSpan s h off n aRead with
    | .ok r => .ok r
    | .error e => .error { e with addr := va }
def procWrite (s : State) (p : Part) (va : Word) (l : List Byte) : Except Trap State :=
  match procHome s p va l.length aWrite with
  | .error e => .error e
  | .ok (h, off) => match writeSpan s h off l aWrite with
    | .ok s => .ok s
    | .error e => .error { e with addr := va }
def procIncr (s : State) (p : Part) (va : Word) (n : Nat) : Except Trap State :=
  match procHome s p va 8 aWrite with
  | .error e => .error e
  | .ok (h, off) => match incrHome s h off n with
    | .ok s => .ok s
    | .error e => .error { e with addr := va }
/-- One word read. -/
def procWord (s : State) (p : Part) (va : Word) : Except Trap (State × Word) :=
  match procRead s p va 8 with
  | .ok (s, l) => .ok (s, leWord l)
  | .error e => .error e

-- Queues.
def State.queue (s : State) (q : Nat) : Option Queue := afind s.queues q
def State.setQueue (s : State) (q : Nat) (x : Queue) : State := { s with queues := aput s.queues q x }
/-- The home of a queue's wake word, and its owning field (R343). -/
def wakeHome (p : Part) (x : Queue) : Tile := p.at (fld x.desc.wake 44 7) (fld x.desc.wake 51 6)
/-- R14, R23: whether a queue's processor serves it: its partition is served and the owning field is up. -/
def procUp (s : State) (p : Part) (x : Queue) : Bool := partUp s p && !(s.field (fieldOf (wakeHome p x))).down
/-- R347, Table 16.6: a queue stops, its status word is written and the host told; sub is a Table 17.2 code or 0. -/
def queueStop (s : State) (q code sub pkt : Nat) (addr : Word) : State :=
  match s.queue q with
  | none => s
  | some x =>
    match s.part x.pid with
    | none => s
    | some p =>
      if x.stopped then s
      else
        let s := s.setQueue q { x with stopped := true }
        let s := match procWrite s p x.desc.qsta (wBytes (w64 (2 ^ 63 + code * 2 ^ 40 + sub * 2 ^ 32 + pkt % 2 ^ 32))) with
          | .ok s => s
          | .error _ => s
        hostReport s true 2 code x.pid (w64 pkt) addr 0 (fld x.desc.wake 44 7) (fld x.desc.wake 51 6)
/-- A QACCESS stop (R347). -/
def queueAccess (s : State) (q pkt : Nat) (tr : Trap) : State := queueStop (learnPoison s tr) q 7 (causeCode tr.cause) pkt tr.addr

/-- R344, R345: the wake word is read. -/
def readWake (s : State) (q : Nat) : State :=
  match s.queue q with
  | none => s
  | some x =>
    match s.part x.pid with
    | none => s
    | some p =>
      if x.stopped ∨ procUp s p x = false then s
      else match procWord s p x.desc.wake with
        | .error tr => queueAccess s q x.r tr
        | .ok (s, v) =>
          if v.toNat = x.w then s
          else if v.toNat < x.w ∨ x.r + 2 ^ x.logn < v.toNat then queueStop s q 1 0 x.r 0
          else s.setQueue q { x with w := v.toNat }
def execWakeNotice (n : Nat) (s : State) : Host.Outcome State Fault Refusal :=
  withPkt s n fun s p => match p.body with
    | .wakeNotice q => some (readWake s q)
    | _ => none

-- The checks of a packet (Table 16.5).
/-- The failure of a check: code, subordinate cause, address. -/
abbrev QBad := Nat × Nat × Word
/-- ADDRESS or PARTITION of a word that must be an 8-byte aligned vault word. -/
def wordBad (s : State) (p : Part) (a : Word) : Option QBad :=
  match resolve s (p.at 0 0) false a aRead 8 with
  | .error e => some (if e.cause = .partition then (4, 0, a) else (3, 0, a))
  | .ok (.tile _ off) => if a.toNat % 8 = 0 ∧ off / 2 ^ 40 = 0 then none else some (3, 0, a)
  | .ok (.edge _) => some (3, 0, a)
/-- The same of a range at one home; vault tells whether it must lie in vault space. -/
def rangeBad (s : State) (p : Part) (a : Word) (n : Nat) (vault : Bool) : Option QBad :=
  match procHome s p a (max n 1) aRead with
  | .error e => some (if e.cause = .partition then (4, 0, a) else (3, 0, a))
  | .ok (_, off) => if a.toNat % 8 = 0 ∧ (vault && off / 2 ^ 40 != 0) = false then none else some (3, 0, a)
def pcBad (s : State) (p : Part) (a : Word) : Option QBad :=
  match resolve s (p.at 0 0) false a aFetch 12 with
  | .error e => some (if e.cause = .partition then (4, 0, a) else (3, 0, a))
  | .ok _ => if a.toNat % 4 = 0 then none else some (3, 0, a)
/-- The first failure: those of ADDRESS before those of PARTITION (Table 16.5). -/
def firstBad (l : List (Option QBad)) : Option QBad :=
  let l := l.filterMap id
  match l.find? fun e => e.1 == 3 with
  | some e => some e
  | none => l.head?

/-- Fields of a LAUNCH packet (Table 16.3). -/
def lpRect (w : List Word) : Rect := ⟨fld (lget w 3 0) 0 7, fld (lget w 3 0) 8 6, fld (lget w 3 0) 16 8, fld (lget w 3 0) 24 8⟩
def lpQuota (w : List Word) : Nat := fld (lget w 3 0) 32 5
def lpArgsz (w : List Word) : Nat := fld (lget w 5 0) 0 16
def lpPrio (w : List Word) : Nat := fld (lget w 0 0) 4 2
def lpPre (w : List Word) : Bool := bit (lget w 0 0) 6
def pkKind (w : List Word) : Nat := fld (lget w 0 0) 0 4
def pkCnt (w : List Word) : Word := lget w 1 0
/-- Words that must be zero, from a place to the end of the packet. -/
def zeroFrom (w : List Word) (n : Nat) : Bool := (w.drop n).all (· == 0)
/-- QPACKET: reserved fields and ranges by kind (R346, R357, R372). -/
def packetOk (p : Part) (w : List Word) : Bool :=
  let h := lget w 0 0
  let k := pkKind w
  let r := lget w 3 0
  let z := lget w 5 0
  fld h 7 25 == 0 && decide (k ≤ 5) && (decide (k = 0) || fld h 4 3 == 0) &&
  (match k with
  | 0 => zeroFrom w 13 && fld r 42 22 == 0 && fld r 37 3 == 0 && fld r 14 2 == 0 && !bit r 7 && fld r 40 2 != 3 &&
      decide (1 ≤ lpQuota w) && decide (lpQuota w ≤ 30) && decide (1 ≤ (lpRect w).h) && decide ((lpRect w).h ≤ 64) &&
      decide (1 ≤ (lpRect w).w) && decide ((lpRect w).w ≤ 128) && fld z 48 16 == 0 && fld z 30 2 == 0 &&
      decide (fld z 32 16 ≤ 32768) && decide (fld z 16 14 ≤ 9216) && decide (lpArgsz w ≤ 8192) && lpArgsz w % 8 == 0 &&
      (!lpPre w || (lpPrio w != 0 && lpRect w != ⟨0, 0, p.w, p.h⟩))
  | 1 => zeroFrom w 4 && fld r 1 63 == 0
  | 2 => zeroFrom w 5 && fld (lget w 4 0) 16 48 == 0
  | 3 | 4 => zeroFrom w 4
  | _ => zeroFrom w 2)
/-- R347: every check of a packet but those of a graph object. -/
def packetBad (s : State) (p : Part) (w : List Word) : Option QBad :=
  if !packetOk p w then some (2, 0, 0)
  else
    let rc := lpRect w
    let cnt := if pkCnt w = 0 then none else wordBad s p (pkCnt w)
    let own : List (Option QBad) := match pkKind w with
      | 0 => [pcBad s p (lget w 2 0), if lget w 4 0 = 0 then none else rangeBad s p (lget w 4 0) (lpArgsz w) false, wordBad s p (lget w 6 0),
              if rc.x + rc.w ≤ p.w ∧ rc.y + rc.h ≤ p.h then none else some (4, 0, 0)]
      | 2 => [rangeBad s p (lget w 2 0) 64 true, if lget w 3 0 = 0 then none else rangeBad s p (lget w 3 0) (16 * fld (lget w 4 0) 0 16) true]
      | 3 | 4 => [wordBad s p (lget w 2 0)]
      | _ => []
    match firstBad (cnt :: own) with
    | some e => some e
    | none =>
      if pkKind w = 1 then
        let a := lget w 2 0
        match procHome s p a 128 aRead with
        | .error e => some (5, causeCode e.cause, a)
        | .ok (h, _) => match readCard s h false a (bit (lget w 3 0) 0) with
          | .error e => some (5, causeCode e.cause, e.addr)
          | .ok _ => none
      else none

-- Graph objects (R355).
def goNodes (g : List Word) : Nat := fld (lget g 0 0) 0 16
def goCopies (g : List Word) : Nat := fld (lget g 0 0) 16 4
/-- The packet words and the other words of node n. -/
def nodeWs (g : List Word) (n : Nat) : List Word := (g.drop (8 + 20 * n)).take 16
def nodePreds (g : List Word) (n : Nat) : List Nat := (List.range 4).map fun i => fld (lget g (8 + 20 * n + 16) 0) (16 * i) 16
def nodeArg (g : List Word) (n : Nat) : Nat := (lget g (8 + 20 * n + 17) 0).toNat
/-- The patches behind the nodes: node, offset, value. -/
def patches (g : List Word) (k : Nat) : List (Nat × Nat × Word) :=
  (List.range k).map fun i =>
    let o := 8 + 20 * goNodes g + 2 * i
    (fld (lget g o 0) 0 16, fld (lget g o 0) 16 32, lget g (o + 1) 0)
/-- R355: the checks of an object and a patch list of k patches. -/
def graphOk (s : State) (p : Part) (g : List Word) (k : Nat) : Bool :=
  let n := goNodes g
  let csz := fld (lget g 2 0) 0 32
  let copyb := lget g 1 0
  let node (i : Nat) : Bool :=
    let w := nodeWs g i
    let o := 8 + 20 * i
    (pkKind w == 0 || pkKind w == 1 || pkKind w == 3 || pkKind w == 4) && (packetBad s p w).isNone &&
      (nodePreds g i).all (fun m => m == 0xFFFF || decide (m < i)) && lget g (o + 18) 0 == 0 && lget g (o + 19) 0 == 0 &&
      (pkKind w != 0 || decide (nodeArg g i + lpArgsz w ≤ csz))
  let patch (e : Nat × Nat × Word) : Bool :=
    decide (e.1 < n) && pkKind (nodeWs g e.1) == 0 && e.2.1 % 8 == 0 && decide (e.2.1 < lpArgsz (nodeWs g e.1))
  let raw := (List.range k).all fun i => fld (lget g (8 + 20 * n + 2 * i) 0) 48 16 == 0
  fld (lget g 0 0) 20 44 == 0 && decide (1 ≤ goCopies g) && decide (goCopies g ≤ 8) && decide (1 ≤ n) && decide (n ≤ 256) &&
    fld (lget g 2 0) 32 32 == 0 && ((g.drop 3).take 5).all (· == 0) && (rangeBad s p copyb (goCopies g * csz) true).isNone &&
    (List.range n).all node && raw && (patches g k).all patch
/-- The words of a packet's graph object and patch list; none when the packet is no GRAPH. -/
def readGraph (s : State) (p : Part) (w : List Word) : Except Trap (State × List Word) :=
  let a := lget w 2 0
  match procRead s p a 64 with
  | .error e => .error e
  | .ok (s, hd) =>
    let n := min (goNodes (bytesWords 8 hd)) 256
    match procRead s p a (64 + 160 * n) with
    | .error e => .error e
    | .ok (s, l) =>
      let k := if lget w 3 0 = 0 then 0 else fld (lget w 4 0) 0 16
      if k = 0 then .ok (s, bytesWords (8 + 20 * n) l)
      else match procRead s p (lget w 3 0) (16 * k) with
        | .error e => .error e
        | .ok (s, m) => .ok (s, bytesWords (8 + 20 * n) l ++ bytesWords (2 * k) m)
def patchCount (w : List Word) : Nat := if lget w 3 0 = 0 then 0 else fld (lget w 4 0) 0 16

-- Taking a packet.
def QPkt.fresh (n : Nat) (w g : List Word) : QPkt :=
  { num := n, ws := w, started := false, done := false, copy := none, nodes := [], graph := g, order := 0 }
/-- A stop because packet r fails to be taken. -/
def takeFail (s : State) (q : Nat) (x : Queue) (f : State → State) : State := f (s.setQueue q { x with untaken := true })
/-- R345: the packet has been copied and checked; the read count is written. -/
def takeDone (s : State) (q : Nat) (p : Part) (x : Queue) (w g : List Word) : State :=
  match procWrite s p x.desc.ridx (wBytes (w64 (x.r + 1))) with
  | .error tr => takeFail s q x fun s => queueAccess s q x.r tr
  | .ok s => s.setQueue q { x with r := x.r + 1, pkts := x.pkts ++ [QPkt.fresh x.r w g] }
/-- R345, R347: the next packet is read, checked and taken. -/
def takePacket (s : State) (q : Nat) : State :=
  match s.queue q with
  | none => s
  | some x =>
    match s.part x.pid with
    | none => s
    | some p =>
      if x.stopped ∨ procUp s p x = false ∨ x.w ≤ x.r ∨ x.pkts.all (·.started) = false then s
      else match procRead s p (x.desc.ring + w64 (x.r % 2 ^ x.logn * 128)) 128 with
        | .error tr => takeFail s q x fun s => queueAccess s q x.r tr
        | .ok (s, l) =>
          let w := bytesWords 16 l
          let fail (e : QBad) : State := takeFail s q x fun s => queueStop s q e.1 e.2.1 x.r e.2.2
          match packetBad s p w with
          | some e => fail e
          | none =>
            if pkKind w = 2 then
              match readGraph s p w with
              | .error tr => takeFail s q x fun s => queueAccess s q x.r tr
              | .ok (s, g) =>
                if graphOk s p g (patchCount w) then takeDone s q p x w g
                else takeFail s q x fun s => queueStop s q 6 0 x.r (lget w 2 0)
            else takeDone s q p x w []
def execPacketTake (q : Nat) (s : State) : Host.Outcome State Fault Refusal := .next (takePacket s q)

-- Completion (R346, R352, R356).
/-- The words of a packet, or of one of its nodes: part 0 is the packet, part k + 1 node k. -/
def partWs (k : QPkt) : Nat → List Word
  | 0 => k.ws
  | n + 1 => nodeWs k.graph n
/-- R346: the completion increment. -/
def completionIncr (s : State) (q : Nat) (p : Part) (k : QPkt) (w : List Word) : State :=
  let inc := fld (lget w 0 0) 32 32
  if pkCnt w = 0 ∨ inc = 0 then s
  else match procIncr s p (pkCnt w) inc with
    | .ok s => s
    | .error tr => queueAccess s q k.num tr
/-- A queue's packet changes, or leaves its list when it has completed. -/
def modPkt (s : State) (q num : Nat) (f : QPkt → Option QPkt) : State :=
  match s.queue q with
  | some x => s.setQueue q { x with pkts := x.pkts.filterMap fun k => if k.num = num then f k else some k }
  | none => s
/-- A packet or node has completed; the replay completes with its last node. A processor that is down makes nothing of it (01 R14, R23). -/
def finishPart (s : State) (q num part : Nat) : State :=
  match s.queue q with
  | none => s
  | some x =>
    match x.pkts.find? (fun k => k.num == num), s.part x.pid with
    | some k, some p =>
      if procUp s p x = false then s
      else
      let s := completionIncr s q p k (partWs k part)
      (match part with
      | 0 => modPkt s q num fun _ => none
      | n + 1 =>
        let l := k.nodes.set n .done
        if l.all (· == .done) then modPkt (completionIncr s q p k k.ws) q num fun _ => none
        else modPkt s q num fun k => some { k with nodes := l })
    | _, _ => s

-- Resets and creation.
/-- R347: a stopped queue is restarted: retry, or skip of a packet that failed to be taken. -/
def resetQueue (s : State) (q : Nat) (skip : Bool) : State :=
  match s.queue q with
  | none => s
  | some x =>
    match s.part x.pid with
    | none => s
    | some p =>
      if !x.stopped then s
      else
        let step := skip && x.untaken
        let r := if step then x.r + 1 else x.r
        let s := s.setQueue q { x with stopped := false, untaken := false, r := r, pkts := x.pkts.filter fun k => !k.done }
        let s := match procWrite s p x.desc.qsta (wBytes 0) with | .ok s => s | .error _ => s
        let s := if step then (match procWrite s p x.desc.ridx (wBytes (w64 r)) with
          | .ok s => s
          | .error tr => queueAccess s q r tr) else s
        readWake s q
def execQueueResetRetry (q : Nat) (s : State) : Host.Outcome State Fault Refusal := .next (resetQueue s q false)
def execQueueResetSkip (q : Nat) (s : State) : Host.Outcome State Fault Refusal := .next (resetQueue s q true)

/-- R343: the number of the queues that a field's processor serves. -/
def queuesOf (s : State) (f : Nat) : List (Nat × Queue) :=
  s.queues.filter fun (e : Nat × Queue) => match s.part e.2.pid with
    | some p => fieldOf (wakeHome p e.2) == f
    | none => false
/-- R343: the first condition that refuses a queue. -/
def queueCode (s : State) (p : Part) (d : QDesc) : Nat :=
  let logn := fld d.cfg 4 4
  let ring := decide (d.ring.toNat % 128 = 0) && (rangeBad s p d.ring (128 * 2 ^ logn) true).isNone
  let words := [d.wake, d.ridx, d.qsta].all fun a => (wordBad s p a).isNone
  let wt := p.at (fld d.wake 44 7) (fld d.wake 51 6)
  if !ring || !words then 1
  else if logn < 4 ∨ fld d.cfg 8 56 ≠ 0 ∨ fld d.cfg 2 2 ≠ 0 then 2
  else if 16 ≤ (s.tile wt).wakeTab.length then 3
  else if 64 ≤ (queuesOf s (fieldOf wt)).length then 4
  else 0
/-- R343: a queue is created, or refused through the mailbox. -/
def newQueue (s : State) (pid : Nat) (d : QDesc) : State :=
  match s.part pid with
  | none => s
  | some p =>
    match queueCode s p d with
    | 0 =>
      let zero (s : State) (a : Word) : State := match procWrite s p a (wBytes 0) with | .ok s => s | .error _ => s
      let s := [d.wake, d.ridx, d.qsta].foldl zero s
      let q := match s.queues.getLast? with | some e => e.1 + 1 | none => 0
      let wt := p.at (fld d.wake 44 7) (fld d.wake 51 6)
      let x : Queue :=
        { pid := pid, desc := d, logn := fld d.cfg 4 4, cls := fld d.cfg 0 2, eff := fld d.cfg 0 2, since := none, w := 0, r := 0, pkts := []
          stopped := false, untaken := false }
      (s.setQueue q x).modTile wt fun y => { y with wakeTab := y.wakeTab ++ [(d.wake, q)] }
    | c => { s with out := s.out ++ [HostOut.mailbox c] }
def execCreateQueue (pid : Nat) (desc : QDesc) (s : State) : Host.Outcome State Fault Refusal := .next (newQueue s pid desc)

end Sys2Proof.Machine
end

