-- ==== Sys2Proof/Machine/Debug.lean ====
section
/-! DEFINITION. Sys2Proof/Machine/Debug.lean: fault packets at their supervisor or firmware core (17 R361, R358), and writes to the
debug window and system registers by one of their writers (17 R363 to R367, 02 R28, R36, 04 R72). -/

namespace Sys2Proof.Machine

-- R361.
/-- A fault packet is lost: FLOST counts it. -/
def lostPacket (s : State) (t : Nat) : State := s.modTile t fun x => { x with flost := x.flost + 1 }
/-- R361: the counter's increment after a packet has been written. -/
def countPacket (s : State) (t : Nat) : State :=
  let a := (s.tile t).frc
  if tileOf s t a = t then (match incrHome s t (fld a 0 44) 1 with | .ok s => s | .error _ => s) else sendIncr s t t none a 1
/-- R360: the bytes of a ring slot written at the tile, whose vault space they must lie in. -/
def ringWrite (s : State) (t : Nat) (a : Word) (l : List Byte) : Except Trap State :=
  if vaultAddr s t 64 a && tileOf s t a == t then writeHome s t (fld a 0 44) l aWrite else .error { cause := .address }
/-- R361: a fault packet at the supervisor's tile. A counter that R26 puts outside the partition's vault space is never touched
(00 R2). -/
def ringPacket (s : State) (t : Nat) (ws : List Word) : State :=
  let x := s.tile t
  if x.frb = 0 ∨ x.frc = 0 ∨ vaultAddr s t 8 x.frc = false then lostPacket s t
  else match readHome s (tileOf s t x.frc) (fld x.frc 0 44) 8 aRead with
    | .error _ => lostPacket s t
    | .ok (s, l) =>
      let n := leNat l
      let a := x.frb + w64 (64 * (n % 4096))
      if 4096 ≤ n - x.frd.toNat then lostPacket s t
      else match ringWrite s t a (wordsBytes ws) with
        | .ok s => countPacket s t
        | .error tr => freeze (lostPacket s t) t 30 { tr with addr := a } (s.ctx t 30).th.pc (s.ctx t 30).iw
/-- R358, R369, R383: firmware reports a packet, or a crash record, to the host driver. -/
def forwardPacket (s : State) (ws : List Word) (pid : Nat) (crash : Bool) : State :=
  let h := lget ws 0 0
  hostReport s true (if crash then 3 else 1) (fld h 48 8) pid (lget ws 1 0) (lget ws 4 0) 0 (fld h 32 7) (fld h 40 6)
def execFaultPacket (n : Nat) (s : State) : Host.Outcome State Fault Refusal :=
  withPkt s n fun s p => match p.body with
    | .faultPkt ws pid crash => some (if p.dst < 8192 then ringPacket s p.dst ws else forwardPacket s ws pid crash)
    | _ => none

-- Writers (R28, R363).
/-- Whether a writer may act on a tile now: a context that runs in the tile's partition, firmware, or the host's debug path. -/
def writerHere (s : State) (w : Writer) (t : Nat) : Bool :=
  match w with
  | .ctx wt wc => ((s.ctx wt wc).st == .ready || (s.ctx wt wc).st == .running) && (s.tile wt).pid == (s.tile t).pid
  | _ => true
/-- R28: bytes written to system space; only c30 among the contexts may, and an offset that is not listed is refused. -/
def sysPut (s : State) (w : Writer) (t o : Nat) (l : List Byte) : State :=
  let isSys : Bool := match w with | .ctx _ wc => wc == 30 | _ => true
  if !writerHere s w t then s
  else if !isSys then refuseWrite s w t o .sysSpace
  else if l.isEmpty || !sysListed o l.length then refuseWrite s w t o .address
  else writerStep s w t o l
/-- A word written to system space. -/
def sysStore (s : State) (w : Writer) (t o : Nat) (v : Word) : State := sysPut s w t o (wBytes v)
/-- R28: firmware or the host's debug path reads n bytes of system space; an offset that is not listed is refused and reported. -/
def sysLook (s : State) (w : Writer) (t o n : Nat) : State :=
  let answer (r : Option (List Byte)) (s : State) : State := { s with out := s.out ++ [HostOut.sysRead w t o r] }
  match w with
  | .ctx _ _ => s
  | _ =>
    if n = 0 ∨ sysListed o n = false then answer none (refuseReport s t .address ((s.tile t).here (3 * 2 ^ 40 + o)))
    else match sysRead s t o n with
      | .ok (s, l) => answer (some l) s
      | .error tr => answer none (refuseReport (learnPoison s tr) t tr.cause ((s.tile t).here (3 * 2 ^ 40 + o)))
/-- Where DCMD of a context stands (R362). -/
def dcmdAt (c : Nat) : Nat := 0x100000 + (if c < 32 then 0x800 * c else 0x10000 + 0x800 * (c % 8)) + 0x388
def dcmd (s : State) (w : Writer) (t c cmd : Nat) (rls : Bool) : Host.Outcome State Fault Refusal :=
  .next (if c < 40 then sysStore s w t (dcmdAt c) (w64 (cmd + b2n rls * 16)) else s)
def execService (w : Writer) (t : Nat) (c : Nat) (s : State) : Host.Outcome State Fault Refusal := dcmd s w t c 1 false
def execResume (w : Writer) (t : Nat) (c : Nat) (rls : Bool) (s : State) : Host.Outcome State Fault Refusal := dcmd s w t c 2 rls
def execStep (w : Writer) (t : Nat) (c : Nat) (rls : Bool) (s : State) : Host.Outcome State Fault Refusal := dcmd s w t c 3 rls
def execStop (w : Writer) (t : Nat) (c : Nat) (s : State) : Host.Outcome State Fault Refusal := dcmd s w t c 4 false
def execKill (w : Writer) (t : Nat) (c : Nat) (s : State) : Host.Outcome State Fault Refusal := dcmd s w t c 5 false
def execRelocate (w : Writer) (t : Nat) (c : Nat) (s : State) : Host.Outcome State Fault Refusal := dcmd s w t c 6 false
/-- R365: a write to PSLOT, where its command is the event's. -/
def pslotStore (s : State) (w : Writer) (t : Nat) (v : Word) (cmd : Nat) : Host.Outcome State Fault Refusal :=
  .next (if fld v 13 3 = cmd then sysStore s w t 0x118028 v else s)
def execPslotKill (w : Writer) (t : Nat) (v : BitVec 64) (s : State) : Host.Outcome State Fault Refusal := pslotStore s w t v 5
def execPslotRelocate (w : Writer) (t : Nat) (v : BitVec 64) (s : State) : Host.Outcome State Fault Refusal := pslotStore s w t v 6
def execTlbiAll (w : Writer) (t : Nat) (v : BitVec 64) (s : State) : Host.Outcome State Fault Refusal :=
  .next (if bit v 40 then sysStore s w t 0x48 v else s)
def execTlbiPage (w : Writer) (t : Nat) (v : BitVec 64) (s : State) : Host.Outcome State Fault Refusal :=
  .next (if bit v 40 then s else sysStore s w t 0x48 v)
/-- R71: where word k of a window's registers stands. -/
def winAt (wn : Fin 16) (k : Nat) : Nat := 0x10000 + 0x100 * wn.val + 8 * k
def execWindowEnable (w : Writer) (t : Nat) (wn : Fin 16) (v : BitVec 64) (s : State) : Host.Outcome State Fault Refusal :=
  .next (if bit v 63 then sysStore s w t (winAt wn 0) v else s)
def execWindowDisable (w : Writer) (t : Nat) (wn : Fin 16) (v : BitVec 64) (s : State) : Host.Outcome State Fault Refusal :=
  .next (if bit v 63 then s else sysStore s w t (winAt wn 0) v)
def execWindowGeometryWrite (w : Writer) (t : Nat) (wn : Fin 16) (k : Fin 4) (v : BitVec 64) (s : State) : Host.Outcome State Fault Refusal :=
  .next (sysStore s w t (winAt wn (k.val + 1)) v)
def execRegisterWrite (w : Writer) (t : Nat) (off : Nat) (v : BitVec 64) (s : State) : Host.Outcome State Fault Refusal :=
  .next (sysStore s w t off v)

end Sys2Proof.Machine
end

