-- ==== Sys2Proof/Machine/Fetch.lean ====
section
/-! DEFINITION. Sys2Proof/Machine/Fetch.lean: instruction fetch on a tile core (02 R37, 03 R53) and on a tuber core
(15 R319), and the words that the tuber profile holds (R317, R318). -/

namespace Sys2Proof.Machine

/-- R53: the replica tile of a tile's field: of the partition's tiles there, the least LY, then the least LX. -/
def replicaTile (s : State) (t : Tile) : Tile :=
  match s.part (s.tile t).pid with
  | some p => ((p.tiles.find? fun u => fieldOf u == fieldOf t)).getD t
  | none => t

/-- Bytes of code in vault space of a tile, each piece translated with the fetch checks (R166, R34). -/
def codePieces (s : State) (t : Tile) (k : Acc) : List (Word × Nat) → Except Trap (State × List Byte)
  | [] => .ok (s, [])
  | (a, n) :: r =>
    match readHome s t (fld a 0 44) n k with
    | .error e => .error { e with addr := a }
    | .ok (s, b) =>
      match codePieces s t k r with
      | .error e => .error e
      | .ok (s, c) => .ok (s, b ++ c)

/-- One 128-byte line of code as its home holds it; none where the line may not be kept whole. -/
def codeLine (s : State) (t : Tile) (line : Nat) : Option (List Byte) :=
  match readHome s t (line * 128 % 2 ^ 44) 128 aFetch with
  | .ok (_, b) => some b
  | .error _ => none

/-- Twelve bytes through a tile's instruction cache, which fills from the home or replica tile src. A line once held is
read as it was filled, with no translation and no check of its page, until ISYNC or its eviction (R53; for code that is not
replicated DESIGN CHOICE, log 9). -/
def cachedCode (s : State) (t src : Tile) (pc : Word) : Except Trap (State × List Byte) :=
  let a := pc.toNat
  let hit := (List.range 12).map fun i =>
    match afind (s.tile t).icache ((a + i) / 128) with
    | some l => some (lget l ((a + i) % 128) 0)
    | none => none
  if hit.all Option.isSome then .ok (s, hit.map (·.getD 0))
  else
    match codePieces s src aFetch (pieces pc 3 12) with
    | .error e => .error e
    | .ok (s, b) =>
      let keep (s : State) (line : Nat) : State :=
        match afind (s.tile t).icache line, codeLine s src line with
        | none, some l => keepCode s t line l
        | _, _ => s
      let s' := keep (keep s (a / 128)) ((a + 11) / 128)
      .ok (s', (List.range 12).map fun i => (hit[i]?.join).getD (lget b i 0))

/-- R37, R166: whether the replica tile maps the pages of the twelve bytes at an offset as replicated code. -/
def replicated (s : State) (u : Tile) (off : Nat) : Bool :=
  [off, off + 11].all fun o => match walk s u o with
  | .ok e => bit e 56
  | .error _ => false

/-- R37, R166: a fetch by a tile-core context. -/
def fetchTile (s : State) (t c : Nat) (pc : Word) : Except Stop (State × BitVec 96) :=
  if pc.toNat % 4 ≠ 0 then .error (.trap { cause := .address, addr := pc })
  else
    match resolve s t (c == 30) pc aFetch 12 with
    | .error e => .error (.trap e)
    | .ok (.edge _) => .error (.trap { cause := .address, addr := pc })
    | .ok (.tile h off) =>
      if off / 2 ^ 40 ≠ 0 ∨ 2 ^ 40 < off + 12 then .error (.trap { cause := .address, addr := pc })
      else
        let u := replicaTile s t
        let src := if h = t then some t else if replicated s u off then some u else none
        match src with
        | some src =>
          match cachedCode s t src pc with
          | .error e => .error (.trap e)
          | .ok (s, b) => .ok (s, bytesWord b)
        | none =>
          if pinnedTo s t c h then .error (.trap { cause := .pinFetch, addr := pc })
          else .error (.migrate h 2 0)

/-- R26 as far as it finds the space of a PC at a tuber core: edge, view, pane and system space are another space (R319). -/
def otherSpace (x : TileSt) (pc : Word) : Bool :=
  fld pc 58 6 == 0 && (bit pc 57 || (decide (fld pc 44 7 < x.pw) && decide (fld pc 51 6 < x.phh) && decide (1 ≤ fld pc 40 4) &&
    decide (fld pc 40 4 ≤ 3)))
/-- R319: one 128-byte line of code as the vault holds it beneath L2. -/
def vaultLine (s : State) (t : Tile) (line : Nat) : Option (List Byte) :=
  match readHome s t (line * 128 % 2 ^ 44) 128 tubF with
  | .ok (_, b) => some b
  | .error _ => none
/-- R319: twelve bytes through the tuber core's instruction buffer; every fetch makes its checks. -/
def bufferedCode (s : State) (t : Tile) (pc : Word) : Except Trap (State × List Byte) :=
  match codePieces s t tubF (pieces pc 3 12) with
  | .error e => .error e
  | .ok (s, b) =>
    let a := pc.toNat
    let x := s.tile t
    let keep (l : Assoc (List Byte)) (line : Nat) : Assoc (List Byte) :=
      match afind l line, vaultLine s t line with
      | none, some v => aput l line v
      | _, _ => l
    let at_ (i : Nat) : Byte := match afind x.ibuf ((a + i) / 128) with
      | some l => lget l ((a + i) % 128) 0
      | none => lget b i 0
    .ok (s.setTile t { x with ibuf := keep (keep x.ibuf (a / 128)) ((a + 11) / 128) }, (List.range 12).map at_)
/-- R319: a fetch by a tuber context, beneath L2; a home that is another tile, or another space, takes the return trap. -/
def fetchTuber (s : State) (t : Nat) (pc : Word) : Except Stop (State × BitVec 96) :=
  if pc.toNat % 4 ≠ 0 then .error (.trap { cause := .address, addr := pc })
  else if otherSpace (s.tile t) pc then .error .ret
  else
    match resolve s t false pc tubF 12 with
    | .error e => .error (.trap e)
    | .ok (.edge _) => .error .ret
    | .ok (.tile h off) =>
      if h ≠ t ∨ off / 2 ^ 40 ≠ 0 ∨ 2 ^ 40 < off + 12 then .error .ret
      else
        match bufferedCode s t pc with
        | .error e => .error (.trap e)
        | .ok (s, b) => .ok (s, bytesWord b)

/-- R317, R318: whether a word that passes R182 is in the tuber profile; LD and ST are decided by their address (R249). -/
def inProfile (i : Instr) : Bool :=
  match encodeFields i with
  | none => false
  | some f =>
    let port (b : BitVec 8) : Bool := b.toNat / 32 == 4
    let o := f.opc.toNat
    if (1 ≤ o ∧ o ≤ 5) ∨ o = 8 ∨ o = 0x0C then !(port f.d || port f.a || (port f.b && !f.ims))
    else if 0x50 ≤ o ∧ o ≤ 0x53 then true
    else
      match i with
      | .ld _ _ _ | .st _ _ _ | .trap _ => true
      | .fenceAcq n | .fenceRel n | .fenceFull n => n.val == 0
      | .srd _ r => (match r with
        | .pc | .tfl | .tid | .hop | .org | .vlive | .fcr | .fst | .prt | .tco | .lcyc => true
        | _ => false)
      | .swr r _ => (match r with | .hop | .vlive | .fcr | .fst => true | _ => false)
      | _ => o == 0x60

/-- The control instructions, whose outcome in a gang is the leader's (R160). -/
def isControl : Instr → Bool
  | .br _ | .brx _ | .call _ | .callx _ | .ret | .loop _ _ | .nop => true
  | _ => false

/-- The instructions that act once for a gang and are not forwarded (R160). -/
def actsOnce : Instr → Bool
  | .unlead | .exit => true
  | _ => false
/-- Those that raise GANG at the leader and at each follower (R160). -/
def gangWord : Instr → Bool
  | .lead _ _ | .follow => true
  | _ => false

end Sys2Proof.Machine
end

