-- ==== Sys2Proof/Machine/Gangs.lean ====
section
/-! DEFINITION. Sys2Proof/Machine/Gangs.lean: gangs and ports, major 0x30 (13 R276 to R278, 08 R159 to R163), with the
reservations of a LEAD and the arrival of port words and credits. -/

namespace Sys2Proof.Machine

/-- R159: the tiles reached by stepping n times through a neighbour pointer; none when a step meets NONE. -/
def chain (s : State) (d : Dir) : Nat → Tile → Option (List Tile)
  | 0, _ => some []
  | n + 1, t =>
    match neighbour (s.tile t) d with
    | none => none
    | some u => match chain s d n u with
      | some l => some (u :: l)
      | none => none
/-- Whether a context already leads or follows. -/
def inGang (x : Ctx) : Bool := match x.gang with | .leading _ | .following _ _ _ => true | _ => false
/-- R276: whether another LEAD of lower rank keeps a tile of the chain. -/
def outranked (s : State) (t : Tile) (l : List Tile) : Bool :=
  l.any fun u => match (s.tile u).leadRes with
    | some (o, _, rank) => o != t && decide (rank ≤ (s.tile t).rank)
    | none => false
/-- A reservation travels to a tile of the chain. -/
def sendLead (s : State) (t c u : Nat) : State := s.send t u 4 (.lead t c (s.tile t).rank false)
/-- R276: LEAD. A tile serves one until it completes or faults; one that another outranks tries again. R159 names user contexts; the
model lets c30 lead too (log 94). -/
def leadOp (s : State) (k : Nat) (d : Dir) : Except Stop State :=
  let t := s.cur.t
  let c := s.cur.c
  if inGang s.me then .error (.trap { cause := .gang })
  else match chain s d k t with
    | none => .error (.trap { cause := .gang })
    | some l =>
      if (s.tile t).leading.any (· != c) then .error (.wait .retry)
      else
        let lost := outranked s t l
        let s := s.modTile t fun x => { x with leading := some c }
        if lost then .ok (s.modMe fun x => { x with st := .waiting, wait := .retry })
        else .ok ((sendLead s t c (l.headD t)).modMe fun x => { x with st := .waiting, wait := .lead l [] })
def execLead (k : BitVec 3) (dir : Dir) (s : State) : Host.Outcome State Fault Refusal := finish s (leadOp s k.toNat dir)
/-- R159: FOLLOW arms c29. -/
def execFollow (s : State) : Host.Outcome State Fault Refusal :=
  finish s (if s.cur.c ≠ 29 ∨ inGang s.me = true then .error (.trap { cause := .gang })
    else .ok (s.modMe fun x => { x with st := .waiting, wait := .none, gang := .armed }))
/-- R277: UNLEAD. -/
def execUnlead (s : State) : Host.Outcome State Fault Refusal :=
  finish s (match s.me.gang with
    | .leading l =>
      if followersDone s s.me then .ok ((releaseFollowers s l).modMe fun x => { x with gang := .none }).retire
      else .error (.wait .retry)
    | _ => .error (.trap { cause := .gang }))

/-- R276: a reservation at a tile: taken, kept by the LEAD of lower rank, or refused. -/
def leadAt (s : State) (u t c rank : Nat) : State :=
  let take (s : State) : State := (s.modTile u fun x => { x with leadRes := some (t, c, rank) }).send u t 4 (.leadRe u true)
  match (s.tile u).leadRes with
  | none => take s
  | some (o, oc, orank) =>
    if o = t then take s
    else if rank < orank then
      let held := match (s.ctx o oc).wait with | .lead l _ => l | _ => []
      let s := releaseLead s o held
      take (s.modCtx o oc fun x => if x.st = .waiting then { x with wait := .retry } else x)
    else s.send u t 4 (.leadRe u false)
/-- R276: the answer of a tile: the next reservation, or the release of all. -/
def leadAnswer (s : State) (t u : Nat) (ok : Bool) : State :=
  match (s.tile t).leading with
  | none => s
  | some c =>
    match (s.ctx t c).st, (s.ctx t c).wait with
    | .waiting, .lead l held =>
      if ok then
        let held := held ++ [u]
        let s := s.modCtx t c fun x => { x with wait := .lead l held }
        match l[held.length]? with
        | some v => sendLead s t c v
        | none => s
      else (releaseLead s t l).modCtx t c fun x => { x with wait := .retry }
    | _, _ => s
def execLeadReservation (n : Nat) (s : State) : Host.Outcome State Fault Refusal :=
  withPkt s n fun s p => match p.body with
    | .lead t c rank false => some (leadAt s p.dst t c rank)
    | .leadRe u ok => some (leadAnswer s p.dst u ok)
    | _ => none

/-- An armed c29. -/
def armed (s : State) (u : Tile) : Bool :=
  let x := s.ctx u 29
  x.st == .waiting && x.wait == .none && x.gang == .armed
/-- R159, R276: all tiles reserved and armed: they become followers in one step, and LEAD completes. A follower's next instruction is the
leader's (R161). -/
def gangUp (s : State) (t c : Nat) (l : List Tile) : State :=
  let pc := (s.ctx t c).th.pc + 12
  let s := l.foldl (fun s u =>
    (s.modTile u fun x => { x with leadRes := none }).modCtx u 29 fun x =>
      { x with gang := .following t c (x.th.pc + 12), fq := [], th := { x.th with pc := pc } }) s
  let s := s.modTile t fun x => { x with leading := none }
  retireNext (s.modCtx t c fun x => { x with gang := .leading l }) t c
def execGangForm (t : Nat) (c : Nat) (s : State) : Host.Outcome State Fault Refusal :=
  match (s.ctx t c).st, (s.ctx t c).wait with
  | .waiting, .lead l held => if held = l ∧ l.all (armed s) = true then .next (gangUp s t c l) else .next s
  | _, _ => .next s

-- Ports.
/-- R278. -/
def execPclaim (pn : P) (port : Dir) (s : State) : Host.Outcome State Fault Refusal :=
  let t := s.cur.t
  let p := (s.tile t).port (Dir.num port)
  finish s <| if bit ((s.tile t).np port) 63 then .error (.trap { cause := .port })
    else match p.owner with
      | none => .ok ((s.modTile t fun x => x.setPort (Dir.num port) { p with owner := some s.cur.c }).modTh fun th => wrP th pn true).retire
      | some o => .ok (s.modTh fun th => wrP th pn (o == s.cur.c)).retire
def execPfree (port : Dir) (s : State) : Host.Outcome State Fault Refusal :=
  let t := s.cur.t
  let p := (s.tile t).port (Dir.num port)
  finish s <| if p.owner ≠ some s.cur.c then .error (.trap { cause := .port })
    else .ok (s.modTile t fun x => x.setPort (Dir.num port) { p with owner := none }).retire
/-- R163: a word enters the receiving port's queue. -/
def execPortWord (n : Nat) (s : State) : Host.Outcome State Fault Refusal :=
  withPkt s n fun s p => match p.body with
    | .portWord d v => some (s.modTile p.dst fun x =>
        let q := x.port (Dir.num d)
        x.setPort (Dir.num d) { q with q := q.q ++ [v], bad := q.bad ++ [p.poisoned] })
    | _ => none
/-- R163: a credit comes back. -/
def execPortCredit (n : Nat) (s : State) : Host.Outcome State Fault Refusal :=
  withPkt s n fun s p => match p.body with
    | .portCredit d => some (s.modTile p.dst fun x =>
        let q := x.port (Dir.num d)
        x.setPort (Dir.num d) { q with credits := q.credits + 1 })
    | _ => none

end Sys2Proof.Machine
end

