-- ==== Sys2Proof/Machine/Launches.lean ====
section
/-! DEFINITION. Sys2Proof/Machine/Launches.lean: the start of packets in their order (16 R348, R352, R353), launches and their end
(R350), graph replay (R356), early fills (R354), and spatial pre-emption (R357, 17 R372 to R375). -/

namespace Sys2Proof.Machine

-- What may start (R352, R356, 17 R372).
/-- R331: whether no held save slot of a tile is in use. -/
def heldFree (s : State) (t : Nat) : Bool :=
  let x := s.tile t
  !(x.saved.any (·.held)) && !(x.ctxs.any fun e => e.2.tub.heldSlot.isSome)
def launchReady (s : State) (p : Part) (w : List Word) : Bool :=
  (lowestFree (p.launches.map (·.1)) 0 64).isSome && (!lpPre w || (p.rectTiles (lpRect w)).all (heldFree s))
def jobReady (s : State) (p : Part) (w : List Word) : Bool :=
  match procHome s p (lget w 2 0) 128 aRead with
  | .ok (h, _) => decide ((s.tile h).jobs.length < 64)
  | .error _ => true
def waitReady (s : State) (p : Part) (w : List Word) : Bool :=
  match procWord s p (lget w 2 0) with
  | .ok (_, v) => decide ((lget w 3 0).toNat ≤ v.toNat)
  | .error _ => true
/-- R356: the started replays of an object in a partition. -/
def replays (s : State) (pid : Nat) (obj : Word) : List QPkt :=
  s.queues.flatMap fun (e : Nat × Queue) => if e.2.pid = pid then
    e.2.pkts.filter fun k => pkKind k.ws == 2 && lget k.ws 2 0 == obj && k.copy.isSome else []
/-- R356: the free copy with the lowest number. -/
def freeCopy (s : State) (p : Part) (k : QPkt) : Option Nat :=
  lowestFree ((replays s p.pid (lget k.ws 2 0)).filterMap (·.copy)) 0 (goCopies k.graph)
def nextPkt (x : Queue) : Option QPkt := x.pkts.find? fun k => !k.started
/-- R352: whether a packet can start. -/
def canStart (s : State) (p : Part) (x : Queue) (k : QPkt) : Bool :=
  match pkKind k.ws with
  | 0 => launchReady s p k.ws
  | 1 => jobReady s p k.ws
  | 2 => (freeCopy s p k).isSome
  | 3 => waitReady s p k.ws
  | 4 => true
  | _ => x.pkts.all fun m => decide (k.num ≤ m.num)
def queueReady (s : State) (x : Queue) : Bool :=
  match nextPkt x, s.part x.pid with
  | some k, some p => !x.stopped && procUp s p x && canStart s p x k
  | _, _ => false

-- Whose turn it is (R353, 18 R378).
/-- The first queue after the last one chosen, in creation order, the first of all behind it. -/
def nextRound (last : Option Nat) (l : List (Nat × Queue)) : Option Nat :=
  match last with
  | some q => (match l.find? fun e => decide (q < e.1) with | some e => some e.1 | none => (l.head?).map (·.1))
  | none => (l.head?).map (·.1)
/-- R353: a field's processor serves two partitions in turns, the highest effective class first, round robin within it. -/
def chosenQueue (s : State) (f : Nat) : Option Nat :=
  let l := (queuesOf s f).filter fun e => queueReady s e.2
  let last := (s.field f).lastQ
  let other := l.filter fun e => afind last 256 != some e.2.pid
  let pid := match (if other.isEmpty then l else other) with | e :: _ => e.2.pid | [] => 64
  let l := l.filter fun e => e.2.pid == pid
  let top := l.foldl (fun m e => max m e.2.eff) 0
  nextRound (afind last (4 * pid + top)) (l.filter fun e => e.2.eff == top)
/-- The turn of queue q has been used (R353). -/
def turnUsed (s : State) (q : Nat) (f : Nat) (pid eff : Nat) : State :=
  let s := s.modField f fun x => { x with lastQ := aput (aput x.lastQ 256 pid) (4 * pid + eff) q }
  match s.queue q with
  | some x => s.setQueue q { x with eff := x.cls, since := none }
  | none => s
/-- The start of packet num of queue q, where it is the queue's turn and the packet is of the kind. -/
def onTurn (s : State) (q num kind : Nat) (f : State → Part → QPkt → State) : State :=
  match s.queue q with
  | none => s
  | some x =>
    match s.part x.pid, nextPkt x with
    | some p, some k =>
      let fl := fieldOf (wakeHome p x)
      if k.num = num ∧ pkKind k.ws = kind ∧ chosenQueue s fl = some q then turnUsed (f s p k) q fl x.pid x.eff else s
    | _, _ => s
/-- R353: since when each queue has been able to start, in tile cycles of its field: those of the tile of its wake word. -/
def refreshSince (s : State) (t : Nat) : State :=
  s.queues.foldl (fun s (e : Nat × Queue) => match s.part e.2.pid with
    | some p => if wakeHome p e.2 = t then
        s.setQueue e.1 { e.2 with since := if queueReady s e.2 then some (e.2.since.getD (s.tile t).lcyc) else none } else s
    | none => s) s
/-- R353: PROMOTE_INT has passed. -/
def promote (s : State) (q : Nat) : State :=
  match s.queue q with
  | none => s
  | some x =>
    match s.part x.pid, x.since with
    | some p, some n =>
      let now := (s.tile (wakeHome p x)).lcyc
      if n + (s.field (fieldOf (wakeHome p x))).promoteInt ≤ now ∧ queueReady s x = true then
        s.setQueue q { x with eff := min 3 (x.eff + 1), since := some now } else s
    | _, _ => s
def execPromoteExpiry (q : Nat) (s : State) : Host.Outcome State Fault Refusal := .next (promote s q)

-- A packet or node starts, or can go no further (R347).
def startPart (s : State) (q num part : Nat) : State :=
  modPkt s q num fun k => some (match part with
    | 0 => { k with started := true }
    | n + 1 => { k with nodes := k.nodes.set n .started })
def failPart (s : State) (q num part : Nat) : State :=
  modPkt s q num fun k => some (match part with
    | 0 => { k with started := true, done := true }
    | n + 1 => { k with nodes := k.nodes.set n .started })

-- Spatial pre-emption.
/-- R373: whether a thread's launch is a victim of a launch. -/
def victimOf (l : Launch) (li : Option Nat) : Bool := match li with | some v => (afind l.victims v).isSome | none => false
/-- R357: whether a launch has threads, pods, ring slots, deque records or populations on a tile. -/
def launchOn (s : State) (t : Nat) (l : Launch) : Bool :=
  let x := s.tile t
  let li := l.li
  let me (o : Option Nat) : Bool := o == some l.no
  x.ctxs.any (fun e => e.2.st != .free && me e.2.th.launch) || x.arrSides.any (fun e => me e.launch) ||
    x.park.any (fun e => me e.2.side.launch) || x.saved.any (fun v => me v.th.launch) || x.deque.any (fun r => r.lch == li) ||
    (spillAll s t).any (fun r => r.lch == li) || x.pops.any (fun p => p.li == li && decide (p.made < p.quota)) ||
    x.moving.any (fun e => me e.1.launch) || s.net.any fun k => k.dst == t && (match k.body with | .pod th _ _ _ => me th.launch | _ => false)
/-- R373, step 2. -/
def movePops (s : State) (t : Nat) (dest : Nat → Tile) (l : Launch) : State :=
  let no (p : Pop) : Option Nat := runNo s (s.tile t).pid p.li
  let mine (p : Pop) : Bool := victimOf l (no p) && decide (p.made < p.quota)
  let out := (s.tile t).pops.filter mine
  let s := s.modTile t fun x => { x with pops := x.pops.filter fun p => !mine p }
  out.foldl (fun s p => s.modTile (dest ((no p).getD 0)) fun x => { x with pops := x.pops ++ [{ p with placed := false }] }) s
/-- R373, step 3: a gang ends as for UNLEAD, once its followers have issued what was forwarded (R277). -/
def endGangOf (s : State) (t c : Nat) : Option State :=
  let stop (s : State) (lt lc : Nat) (l : List Tile) : Option State :=
    if followersDone s (s.ctx lt lc) then some ((releaseFollowers s l).modCtx lt lc fun x => { x with gang := .none }) else none
  match (s.ctx t c).gang with
  | .leading l => stop s t c l
  | .following lt lc _ => (match (s.ctx lt lc).gang with | .leading l => stop s lt lc l | _ => some s)
  | .armed => some (s.modCtx t c fun x => { x with gang := .none })
  | .none => some s
/-- R373, steps 3 to 5, for one victim context of the tile core. -/
def vacateCtx (s : State) (t c : Nat) (dst : Tile) : State :=
  let x := s.ctx t c
  match x.st with
  | .ready | .running | .waiting =>
    (match endGangOf s t c with
    | none => s
    | some s =>
      let s := (streamsOf s t c).foldl (fun s h => endStream s t h) s
      let s := abandonWait (freePorts s t c) t c
      beginPack (s.modCtx t c fun x => { x with snap := none }) t c dst 3 0)
  | .refused => parkCtx s t c
  | .frozen | .inService =>
    if x.preh then s
    else
      let s := sendPacket s t (packetSite s t c) (packetWords s t c { cause := .preemptWait } x.th.pc 0 x.th.tid {} false)
      s.modCtx t c fun x => { x with preh := true }
  | _ => s
/-- R331: whether a held save slot is left for a context: its own, or one beside those in use and those that contexts being saved
will take. A victim's thread that R325 has restored from the save area of R330 finds none where all 8 are in use, and runs on (log 63). -/
def heldRoom (s : State) (t c : Nat) : Bool :=
  let x := s.tile t
  let tubs := (x.ctxs.filter fun e => decide (32 ≤ e.1)).map (·.2)
  (s.ctx t c).tub.heldSlot.isSome ||
    decide ((x.saved.filter (·.held)).length + (tubs.filter fun y => y.tub.heldSlot.isSome || (y.st == .saving && y.tub.preempt)).length < 8)
/-- R373, step 7, for one tuber context. -/
def vacateTuber (s : State) (t c : Nat) : State :=
  match (s.ctx t c).st with
  | .ready | .running | .waiting | .frozen => if (s.ctx t c).tub.isNcmd || !heldRoom s t c then s else startSave s t c true
  | _ => s
/-- R373, step 6: the victims' pods leave the arrival ring for R(H), each kept at H until it is accepted; the others close up. -/
def moveRing (s : State) (t : Nat) (dest : Nat → Tile) (l : Launch) : State :=
  let x := s.tile t
  let all := x.arrSides.zipIdx
  let out := all.filter fun e => victimOf l e.1.launch
  let kept := all.filter fun e => !victimOf l e.1.launch
  if out.isEmpty then s
  else
    let pods := out.map fun e => (ringPod s t e.2 e.1, dest (e.1.launch.getD 0))
    let stay := kept.map fun e => (physGet s t (arrSlot (x.arrHead + e.2)) 672, physGet s t (arrSlot (x.arrHead + e.2) + 1016) 8)
    let s := stay.zipIdx.foldl (fun s e =>
      physPut (physPut s t (arrSlot (x.arrHead + e.2)) e.1.1) t (arrSlot (x.arrHead + e.2) + 1016) e.1.2) s
    let s := (List.range out.length).foldl (fun s i => physPut s t (arrSlot (x.arrHead + kept.length + i) + 1016) (wBytes 0)) s
    let s := s.modTile t fun x => { x with arrSides := kept.map (·.1) }
    pods.foldl (fun s e => match e with
      | (some (th, bad), dst) =>
        let th := { th with rel := true }
        sendNotice ((s.modTile t fun x => { x with moving := x.moving ++ [(th, dst, bad)] }).send t dst 0 (.pod (th.leaves s t dst) 3 none bad)) t
      | (none, _) => sendNotice s t) s
/-- R373, step 6: victim records, oldest first, to the newest end of the other deque; those refused stay. -/
def moveRecs (s : State) (t : Nat) (dest : Nat → Tile) (l : Launch) : State :=
  let all := (spillAll s t ++ (s.tile t).deque).zipIdx
  let (s, gone) := all.foldl (fun (a : State × List Nat) e =>
    let no := runNo s (s.tile t).pid e.1.lch
    if victimOf l no then
      match pushRec a.1 (dest (no.getD 0)) e.1 with
      | (s, true) => (s, e.2 :: a.2)
      | (s, false) => (s, a.2)
    else a) (s, [])
  if gone.isEmpty then s else keepRecs s t fun _ i => !gone.contains i
/-- R373 at one held tile. -/
def vacate (p : Part) (l : Launch) (s : State) (t : Nat) : State :=
  let dest (v : Nat) : Tile := relocMap p l v t
  let s := movePops s t dest l
  let victims := ((s.tile t).ctxs.filter fun e => e.2.st != .free && victimOf l e.2.th.launch).map (·.1)
  let s := victims.foldl (fun s c =>
    if c < 32 then vacateCtx s t c (dest ((s.ctx t c).th.launch.getD 0)) else vacateTuber s t c) s
  moveRecs (moveRing s t dest l) t dest l
/-- R373, step 8: no victim context, pod or population is left at a tile. -/
def cleared (s : State) (l : Launch) (t : Nat) : Bool :=
  let x := s.tile t
  let pod (k : Packet) : Bool := k.dst == t && (match k.body with | .pod th _ _ _ => victimOf l th.launch | _ => false)
  !(x.ctxs.any fun e => e.2.st != .free && !e.2.tub.isNcmd && victimOf l e.2.th.launch) && !(x.moving.any fun e => victimOf l e.1.launch) &&
    !(x.arrSides.any fun e => victimOf l e.launch) &&
    !(x.pops.any fun p => victimOf l (runNo s x.pid p.li) && decide (p.made < p.quota)) && !(s.net.any pod)
/-- R405: whether a tile's arrival ring is empty, its user contexts are free and no other population keeps them. -/
def emptyTile (x : TileSt) : Bool := x.arrSides.isEmpty && (placing x).isNone && (List.range 30).all (isFree x)
/-- R348: the population entry of a launch on a tile; what its neighbours reported of their deques is discarded (08 R157). -/
def installPop (l : Launch) (s : State) (t : Nat) : State :=
  let s := match s.part (s.tile t).pid with
    | some p => s.setPart { p with launches := p.launches.map fun (e : Nat × Launch) => if e.2.no = l.no then (e.1, { e.2 with begun := sadd e.2.begun t }) else e }
    | none => s
  s.modTile t fun x => { x with pops := x.pops ++ [{ li := l.li, made := 0, quota := l.quota, placed := emptyTile x }], depths := [] }
/-- R373, step 8: a vacated tile takes the population. A launch that is itself a victim there begins only once the tile is released
(R357). -/
def tileVacated (s : State) (t li : Nat) : State :=
  match launchOf s t li, s.part (s.tile t).pid with
  | some l, some p =>
    if l.holds && l.rect.has (t % 128 - p.x0) (t / 128 - p.y0) && !l.begun.contains t && (holder s p.pid (some l.no) t).isNone then
      let s := vacate p l s t
      if cleared s l t then installPop l s t else s
    else s
  | _, _ => s
def execTileVacated (t : Nat) (li : Nat) (s : State) : Host.Outcome State Fault Refusal := .next (tileVacated s t li)

-- Starts.
/-- R54, R354: of a new launch's argument block a tile's constant cache keeps only what the launch's own packet filled early and what
the block still holds, its words now: no fill changes a load. -/
def freshArgs (l : Launch) (by_ : Nat) (now : List Word) (s : State) (t : Nat) : State :=
  let keep (e : Nat × Word × Nat) : Bool := !inArgs l (w64 (8 * e.1)) 8 || (e.2.2 == by_ && now[e.1 - l.args.toNat / 8]? == some e.2.1)
  if (s.tile t).ccache.all keep then s else s.modTile t fun x => { x with ccache := x.ccache.filter keep }
/-- The words of an argument block. -/
def argWords (s : State) (p : Part) (a : Word) (n : Nat) : List Word :=
  if a = 0 ∨ n = 0 then [] else match procRead s p a n with
  | .ok (_, l) => bytesWords (n / 8) l
  | .error _ => []
/-- R348, R357, R372: a LAUNCH starts: its index, its launch word, its populations or its held rectangle. -/
def startLaunch (s : State) (p : Part) (q num part : Nat) (w : List Word) (args : Word) : State :=
  let r := lpRect w
  match lowestFree (p.launches.map (·.1)) 0 64 with
  | none => s
  | some li =>
    match procWrite s p (lget w 6 0) (wBytes (w64 (lpQuota w * r.w * r.h))) with
    | .error tr => failPart (queueAccess s q num tr) q num part
    | .ok s =>
      let s := startPart s q num part
      let victims := if lpPre w then (p.launches.filter fun e => decide (e.2.prio < lpPrio w) && (p.rectTiles r).any fun t => launchOn s t e.2).map
        fun e => (e.2.no, e.2.rect) else []
      let l : Launch :=
        { li := li, no := 64 * p.launchSeq + li, q := q, pkt := num, node := (match part with | 0 => none | n + 1 => some n), prio := lpPrio w, dom := fld (lget w 3 0) 40 2
          quota := lpQuota w, rect := r, pc := lget w 2 0, args := args, argsz := lpArgsz w, lockq := fld (lget w 5 0) 16 14
          seeds := (w.drop 7).take 6, lwa := lget w 6 0, holds := lpPre w, victims := victims, begun := [] }
      let s := match s.part p.pid with | some y => s.setPart { y with launches := aput y.launches li l, launchSeq := y.launchSeq + 1 } | none => s
      let s := p.tiles.foldl (freshArgs l (1 + q * 2 ^ 32 + num) (argWords s p args l.argsz)) s
      if l.holds then (p.rectTiles r).foldl (vacate p l) s else (p.rectTiles r).foldl (installPop l) s
/-- R352: a JOB packet's card enters the window of its home. -/
def startJob (s : State) (p : Part) (q num part : Nat) (w : List Word) : State :=
  let a := lget w 2 0
  let bad (c : Cause) (addr : Word) : State := failPart (queueStop s q 5 (causeCode c) num addr) q num part
  match procHome s p a 128 aRead with
  | .error e => bad e.cause a
  | .ok (h, _) => match readCard s h false a (bit (lget w 3 0) 0) with
    | .error e => bad e.cause e.addr
    | .ok j =>
      if 64 ≤ (s.tile h).jobs.length then s
      else startPart (enterWindow s h { j with q := some (q, num, part) }) q num part
/-- R352: a WAIT reads its counter. -/
def startWait (s : State) (p : Part) (q num part : Nat) (w : List Word) : State :=
  match procWord s p (lget w 2 0) with
  | .error tr => failPart (queueAccess s q num tr) q num part
  | .ok (s, v) => if (lget w 3 0).toNat ≤ v.toNat then finishPart s q num part else s
/-- R352: a SIGNAL adds to its counter. -/
def startSignal (s : State) (p : Part) (q num part : Nat) (w : List Word) : State :=
  let s := startPart s q num part
  match procIncr s p (lget w 2 0) (lget w 3 0).toNat with
  | .error tr => failPart (queueAccess s q num tr) q num part
  | .ok s => finishPart s q num part
def execLaunch (q : Nat) (j : Nat) (s : State) : Host.Outcome State Fault Refusal :=
  .next (onTurn s q j 0 fun s p k => startLaunch s p q j 0 k.ws (lget k.ws 4 0))
def execJobPacket (q : Nat) (j : Nat) (s : State) : Host.Outcome State Fault Refusal :=
  .next (onTurn s q j 1 fun s p k => startJob s p q j 0 k.ws)
def execWaitPacket (q : Nat) (j : Nat) (s : State) : Host.Outcome State Fault Refusal :=
  .next (onTurn s q j 3 fun s p k => startWait s p q j 0 k.ws)
def execSignal (q : Nat) (j : Nat) (s : State) : Host.Outcome State Fault Refusal :=
  .next (onTurn s q j 4 fun s p k => startSignal s p q j 0 k.ws)
def execBarrierPacket (q : Nat) (j : Nat) (s : State) : Host.Outcome State Fault Refusal :=
  .next (onTurn s q j 5 fun s _ _ => finishPart s q j 0)

-- Graph replay.
/-- R356: where a node's argument copy stands. -/
def copyAddr (k : QPkt) (c n : Nat) : Word :=
  lget k.graph 1 0 + w64 (c * fld (lget k.graph 2 0) 0 32 + nodeArg k.graph n)
/-- R356, step 2: one node's argument block into the copy. -/
def copyNode (s : State) (p : Part) (k : QPkt) (c n : Nat) : Except Trap State :=
  let w := nodeWs k.graph n
  if pkKind w ≠ 0 ∨ lget w 4 0 = 0 ∨ lpArgsz w = 0 then .ok s
  else match procRead s p (lget w 4 0) (lpArgsz w) with
    | .error e => .error e
    | .ok (s, l) => procWrite s p (copyAddr k c n) l
def copyNodes (p : Part) (k : QPkt) (c : Nat) : List Nat → State → Except Trap State
  | [], s => .ok s
  | n :: r, s => match copyNode s p k c n with
    | .error e => .error e
    | .ok s => copyNodes p k c r s
def applyPatches (p : Part) (k : QPkt) (c : Nat) : List (Nat × Nat × Word) → State → Except Trap State
  | [], s => .ok s
  | (n, off, v) :: r, s => match procWrite s p (copyAddr k c n + w64 off) (wBytes v) with
    | .error e => .error e
    | .ok s => applyPatches p k c r s
/-- R356, steps 1 to 3. -/
def startGraph (s : State) (p : Part) (q : Nat) (k : QPkt) : State :=
  match freeCopy s p k with
  | none => s
  | some c =>
    let nodes := List.range (goNodes k.graph)
    let r : Except Trap State := match copyNodes p k c nodes s with
      | .error e => .error e
      | .ok s => applyPatches p k c (patches k.graph (patchCount k.ws)) s
    match r with
    | .error tr => failPart (queueAccess s q k.num tr) q k.num 0
    | .ok s => (modPkt s q k.num fun k =>
        some { k with started := true, copy := some c, nodes := nodes.map fun _ => .waiting, order := s.reqNo }).nextReq
def execGraph (q : Nat) (j : Nat) (s : State) : Host.Outcome State Fault Refusal := .next (onTurn s q j 2 fun s p k => startGraph s p q k)
/-- R356, step 4: whether node n of a replay may start. -/
def nodeReady (s : State) (p : Part) (k : QPkt) (n : Nat) : Bool :=
  let w := nodeWs k.graph n
  k.nodes[n]? == some .waiting && (nodePreds k.graph n).all (fun m => m == 0xFFFF || k.nodes[m]? == some .done) &&
    ((replays s p.pid (lget k.ws 2 0)).all fun o => decide (k.order ≤ o.order) || o.nodes[n]? == some .done) &&
    (match pkKind w with | 0 => launchReady s p w | 1 => jobReady s p w | 3 => waitReady s p w | _ => true)
def startNode (s : State) (q num n : Nat) : State :=
  match s.queue q with
  | none => s
  | some x =>
    match s.part x.pid, x.pkts.find? fun k => k.num == num && k.copy.isSome with
    | some p, some k =>
      if procUp s p x && nodeReady s p k n then
        let w := nodeWs k.graph n
        match pkKind w with
        | 0 => startLaunch s p q num (n + 1) w (if lget w 4 0 = 0 then 0 else copyAddr k (k.copy.getD 0) n)
        | 1 => startJob s p q num (n + 1) w
        | 3 => startWait s p q num (n + 1) w
        | _ => startSignal s p q num (n + 1) w
      else s
    | _, _ => s
def execGraphNodeStart (q : Nat) (j : Nat) (nd : Nat) (s : State) : Host.Outcome State Fault Refusal := .next (startNode s q j nd)

-- The end of a launch.
/-- R350, step 2, at one tile, and step 1. -/
def endAt (li : Nat) (l : Launch) (s : State) (t : Nat) : State :=
  let recs := (spillAll s t ++ (s.tile t).deque).filter fun r => r.lch == li
  let s := recs.foldl (fun s r => jobThreadEnd s r.tjob 0) s
  let s := if recs.isEmpty then s else keepRecs s t fun r _ => r.lch != li
  s.modTile t fun x =>
    { x with
      pops := x.pops.filter fun p => p.li != li
      locks := x.locks.filter fun e => e.2.li != some l.no
      ccache := []
      ctxs := x.ctxs.map fun (e : Nat × Ctx) =>
        (e.1, if l.holds && decide (e.1 < 32) && victimOf l e.2.th.launch then { e.2 with preh := false } else e.2) }
/-- R350: the launch word of launch number no has been performed at 0. -/
def endLaunch (s : State) (pid no : Nat) : State :=
  match s.part pid with
  | none => s
  | some p =>
    match p.launchNo no with
    | none => s
    | some l =>
      let s := p.tiles.foldl (endAt l.li l) s
      let s := match s.part pid with | some y => s.setPart { y with launches := adel y.launches l.li } | none => s
      finishPart s l.q l.pkt (match l.node with | none => 0 | some n => n + 1)
/-- R350: the notice of the launch word's home. The processor of a partition that is not served makes nothing of it (01 R14, R23). -/
def execLaunchEnd (pid : Nat) (li : Nat) (s : State) : Host.Outcome State Fault Refusal :=
  let mine (n : Nat) : Option (Nat × Nat) := match deliverable s n with
    | some k => (match k.body with | .launchDone a b => if a = pid ∧ b % 64 = li then some (n, b) else none | _ => none)
    | none => none
  match (List.range s.net.length).findSome? mine with
  | some (n, no) => .next (if (s.part pid).all (partUp s) then endLaunch (s.dropPkt n) pid no else s)
  | none => .next s

-- Early fills (R354).
/-- Lines of code from a PC into the instruction cache of a tile. -/
def fillCode (s : State) (u pid : Nat) (pc : Word) (n : Nat) : State :=
  match resolve s u false pc aFetch 1 with
  | .ok (.tile h off) =>
    let rt := replicaTile s u
    let src := if h = u then some u else if replicated s rt off then some rt else none
    match src with
    | none => s
    | some src =>
      let lo := pc.toNat / 128
      if n = 0 ∨ pid ≠ (s.tile u).pid then s
      else (List.range ((pc.toNat + n - 1) / 128 - lo + 1)).foldl (fun s i =>
        match afind (s.tile u).icache (lo + i), codeLine s src (lo + i) with
        | none, some l => keepCode s u (lo + i) l
        | _, _ => s) s
  | _ => s
/-- An argument block into the constant cache of a tile of the partition, marked with the packet that it is filled for. -/
def fillArgs (s : State) (p : Part) (u : Nat) (a : Word) (n by_ : Nat) : State :=
  if p.pid ≠ (s.tile u).pid then s
  else match procRead s p a n with
  | .ok (_, l) => (bytesWords (n / 8) l).zipIdx.foldl (fun s e => keepConst s u (a.toNat / 8 + e.2) e.1 by_) s
  | .error _ => s
/-- The fills of one LAUNCH packet or node that passes its checks. -/
def prefillLaunch (p : Part) (by_ : Nat) (s : State) (w : List Word) : State :=
  if (packetBad s p w).isNone && pkKind w == 0 then
    (p.rectTiles (lpRect w)).foldl (fun s u =>
      let s := fillCode s u p.pid (lget w 2 0) (fld (lget w 5 0) 32 16)
      if lget w 4 0 = 0 ∨ lpArgsz w = 0 then s else fillArgs s p u (lget w 4 0) (lpArgsz w) by_) s
  else s
/-- R354: the packets behind a blocked one, at most 8. -/
def prefetchQueue (s : State) (q : Nat) : State :=
  match s.queue q with
  | none => s
  | some x =>
    match s.part x.pid, nextPkt x with
    | some p, some k =>
      if canStart s p x k ∨ procUp s p x = false then s
      else (List.range (min 8 (x.w - x.r))).foldl (fun s i =>
        match procRead s p (x.desc.ring + w64 ((x.r + i) % 2 ^ x.logn * 128)) 128 with
        | .error _ => s
        | .ok (_, l) =>
          let w := bytesWords 16 l
          let by_ := 1 + q * 2 ^ 32 + (x.r + i)
          if pkKind w = 2 then
            match readGraph s p w with
            | .ok (_, g) => (List.range (goNodes g)).foldl (fun s n => prefillLaunch p by_ s (nodeWs g n)) s
            | .error _ => s
          else prefillLaunch p by_ s w) s
    | _, _ => s
def execPacketPrefetch (q : Nat) (s : State) : Host.Outcome State Fault Refusal := .next (prefetchQueue s q)

end Sys2Proof.Machine
end

