-- ==== Sys2Proof/Machine/Firmware.lean ====
section
/-! DEFINITION. Sys2Proof/Machine/Firmware.lean: partitions created and destroyed (18 R378, R379), the registers that firmware
writes (02 R38 to R41; Embedding.lean), keys (18 R380 to R382), edge and peer segments, group tables, parameters (05 R93), images (09 R196). -/

namespace Sys2Proof.Machine

/-- R39, R40: the neighbour pointers of a tile of a partition. -/
def setNbrs (p : Part) (s : State) (t : Nat) : State :=
  s.modTile t fun x => { x with npn := npWord s p.rect t .n, npe := npWord s p.rect t .e, nps := npWord s p.rect t .s, npw := npWord s p.rect t .w }
/-- R387: whether a core acts as crown: its lease has not run out. -/
def Field.acts (x : Field) : Bool := x.lease == .crown && !x.down && decide (x.cyc < x.timer + 2 ^ 23)
/-- The field that acts as crown (18 R387). -/
def crownOf (s : State) : Option Nat := (s.fields.find? fun e => e.2.acts).map (·.1)

-- Creation (R379).
/-- What of a tile is of the site or of firmware's settings, not of a partition; the counters of Table 14.6 fall only at tile reset
(14 R305). -/
def bareTile (x : TileSt) (t : Nat) : TileSt :=
  { TileSt.zero t with
    lcyc := x.lcyc, tcyc := x.tcyc, created := x.created, seq := x.seq, ncr := x.ncr, cecnt := x.cecnt, lanes := x.lanes
    holdLimit := x.holdLimit, bounceLim := x.bounceLim, pinSpan := x.pinSpan, drainInt := x.drainInt, balInt := x.balInt
    px := x.px, py := x.py, ex := x.ex, ey := x.ey
    mx := { Mx.zero with rpc := x.mx.rpc, msat := x.mx.msat, munf := x.mx.munf, movf := x.mx.movf, mcan := x.mx.mcan } }
/-- Whether a request names a rectangle of whole free blocks, free channels and links, and supervisors inside it, and a crown acts to
agree the transport key (R381). -/
def partOk (s : State) (r : PartReq) : Bool :=
  let tiles := (List.range r.h).flatMap fun y => (List.range r.w).map fun x => 128 * (r.y0 + y) + (r.x0 + x)
  let apart (p : Part) : Bool := decide (p.x0 + p.w ≤ r.x0) || decide (r.x0 + r.w ≤ p.x0) || decide (p.y0 + p.h ≤ r.y0) || decide (r.y0 + r.h ≤ p.y0)
  s.up && (crownOf s).isSome && decide (r.pid < 64) && (s.part r.pid).isNone && r.x0 % 8 == 0 && r.y0 % 8 == 0 && r.w % 8 == 0 && r.h % 8 == 0 &&
    decide (0 < r.w) && decide (0 < r.h) && decide (r.x0 + r.w ≤ 128) && decide (r.y0 + r.h ≤ 64) && s.parts.all (fun e => apart e.2) &&
    tiles.all (fun t => !s.unavailable.contains (blockOf t) && !(s.field (fieldOf t)).down) &&
    r.chans.all (fun c => decide (c < 32) && s.parts.all fun e => !e.2.chans.contains c) &&
    r.links.all (fun c => decide (c < 16) && s.parts.all fun e => !e.2.links.contains c) &&
    r.scs.all (fun c => decide (c < 4)) && r.sups.all (fun e => tiles.contains e.1)
/-- The partition of a request; its transport key is agreed (R381). -/
def newPart (r : PartReq) (key : BitVec 128) : Part :=
  { pid := r.pid, x0 := r.x0, y0 := r.y0, w := r.w, h := r.h, chans := r.chans.foldl sadd [], links := r.links.foldl sadd [], segKey := [], peers := []
    edgeKeys := [], tkey := key, scs := r.scs, apb := [], repBase := [], repSize := [], repSeq := 0, launches := [], launchSeq := 0
    collSeq := [], joins := [], revoking := [], band := 0, halted := false }
/-- R379, steps 2 to 4, and PRT and TCO, at one tile. -/
def freshTile (p : Part) (s : State) (t : Nat) : State :=
  let m := czero (czero s.mem (vKey t heldBase) 0x4000) (vKey t saveBase) (2 ^ 30 - saveBase)
  { s with mem := m }.modTile t fun x =>
    { bareTile x t with
      prt := w64 (p.pid * 2 ^ 48 + p.w * 2 ^ 40 + p.h * 2 ^ 32 + p.x0 * 2 ^ 8 + p.y0)
      tco := tcoWord p.rect t }
/-- R360: a block's supervisor tile in SUPV of its tiles, and its c30 at its entry. -/
def setSup (p : Part) (s : State) (e : Nat × Word) : State :=
  let v := w64 (2 ^ 63 + (e.1 % 128 - p.x0) * 2 ^ 8 + (e.1 / 128 - p.y0))
  let s := p.tiles.foldl (fun s t => if blockOf t = blockOf e.1 then s.modTile t fun x => { x with supv := v } else s) s
  match createThread s e.1 30 fun th => { th with pc := e.2 } with
  | some s => s
  | none => s
def makePart (s : State) (r : PartReq) : State :=
  if partOk s r then
    let p := newPart r (Config.sm2Key s.fresh)
    let s := p.tiles.foldl (freshTile p) (s.nextFresh.setPart p)
    let s := p.tiles.foldl (setNbrs p) s
    let s := p.tiles.foldl (fun s t => s.modTile t fun x => { x with scope := scopeTable s p.rect t }) s
    r.sups.foldl (setSup p) s
  else s
def execCreatePartition (r : PartReq) (s : State) : Host.Outcome State Fault Refusal := .next (makePart s r)

-- Destruction (R379).
/-- Every trace of a range of cells. -/
def wipe (s : State) (k n : Nat) : State :=
  let out (w : Nat) : Bool := decide (w < k / 8) || decide ((k + n) / 8 ≤ w)
  { s with mem := czero s.mem k n, full := s.full.filter out, poison := s.poison.filter out, latent := s.latent.filter out }
def wipeTile (s : State) (t : Nat) : State :=
  (wipe (wipe s (vKey t 0) (2 ^ 30)) (pKey t 0) 0x40000).modTile t fun x => bareTile x t
/-- Whether a packet belongs to a partition. -/
def ofPart (s : State) (p : Part) (k : Packet) : Bool :=
  p.tiles.contains k.src || p.tiles.contains k.dst || (match k.body with
    | .wakeNotice q => (match s.queue q with | some x => x.pid == p.pid | none => false)
    | .faultPkt _ pid _ | .launchDone pid _ => pid == p.pid
    | .edge r _ _ _ => p.tiles.contains r.t
    | .elem t _ _ _ _ => p.tiles.contains t
    | .peerIn l _ | .peerOut l _ => p.links.contains l
    | _ => false)
def dropPart (s : State) (pid : Nat) : State :=
  match s.part pid with
  | none => s
  | some p =>
    let s := { s with net := s.net.filter fun k => !ofPart s p k }
    let s := p.tiles.foldl wipeTile s
    let s := p.chans.foldl (fun s c => wipe s (eKey c 0) (2 ^ 41)) s
    { s with parts := adel s.parts pid, queues := s.queues.filter (fun e => e.2.pid != pid), ioq := s.ioq.filter fun e => e.1 / 4 != pid
             left := s.left.filter (fun o => o.pid != pid), peerReqs := s.peerReqs.filter (fun r => !p.tiles.contains r.t)
             hostReqs := s.hostReqs.filter (fun r => r.pid != pid), frameq := s.frameq.filter (fun e => !p.links.contains e.1)
             frames := s.frames.filter fun e => !p.links.contains e.1 }
def execDestroyPartition (pid : Nat) (s : State) : Host.Outcome State Fault Refusal := .next (dropPart s pid)

-- Keys (R381, R382).
/-- R381: the crown opens a pair under the transport key: the data key's 16 bytes, then the tweak key's. -/
def loadKey (s : State) (pid : Nat) (k : Fin 16) (wrapped : List Byte) : State :=
  match s.part pid with
  | none => s
  | some p =>
    match Config.gcmOpen p.tkey wrapped with
    | some l =>
      if k = 0 ∨ l.length ≠ 32 ∨ (crownOf s).isNone = true then s
      else
        let slot : KeySlot := .loaded (BitVec.ofNat 128 (leNat (l.take 16))) (BitVec.ofNat 128 (leNat (l.drop 16)))
        let crs := (p.chans.map crescentOf).eraseDups
        let p := { p with edgeKeys := crs.foldl (fun e c => aput e (16 * c + k.val) slot) p.edgeKeys }
        p.tiles.foldl (fun s t => s.modTile t fun x => { x with keys := aput x.keys k.val slot }) (s.setPart p)
    | none => s
def execKeyLoad (pid : Nat) (k : Fin 16) (wrapped : List (BitVec 8)) (s : State) : Host.Outcome State Fault Refusal :=
  .next (loadKey s pid k wrapped)
/-- R382, steps 1 to 4, at a tile, or at the engine of crescent unit - 20000. -/
def revokeAt (s : State) (pid : Nat) (k : Fin 16) (unit : Nat) : State :=
  match s.part pid with
  | none => s
  | some p =>
    if k = 0 then s
    else if p.tiles.contains unit then
      let lines := ((s.tile unit).dirty.filter fun e => e.2.key == k.val).map (·.1)
      let s := lines.foldl (fun s l => discardLine s unit l) s
      let s := s.modTile unit fun x => { x with keys := aput x.keys k.val .revoked }
      s.setPart { p with revoking := p.revoking ++ [(k.val, unit)] }
    else if 20000 ≤ unit ∧ (p.chans.map crescentOf).contains (unit - 20000) = true then
      s.setPart { p with edgeKeys := aput p.edgeKeys (16 * (unit - 20000) + k.val) .revoked, revoking := p.revoking ++ [(k.val, unit)] }
    else s
def execKeyRevoke (pid : Nat) (k : Fin 16) (unit : Nat) (s : State) : Host.Outcome State Fault Refusal := .next (revokeAt s pid k unit)
/-- R382: every tile and engine has confirmed; the crown reports it. -/
def revokeDone (s : State) (pid : Nat) (k : Fin 16) : State :=
  match s.part pid with
  | none => s
  | some p =>
    let units := p.tiles ++ (p.chans.map crescentOf).eraseDups.map (20000 + ·)
    if k ≠ 0 ∧ (crownOf s).isSome = true ∧ (units.all fun u => p.revoking.contains (k.val, u)) = true then
      hostReport (s.setPart { p with revoking := p.revoking.filter fun e => e.1 != k.val }) true 5 0 pid 0 0 k.val 0 0
    else s
def execRevocationDone (pid : Nat) (k : Fin 16) (s : State) : Host.Outcome State Fault Refusal := .next (revokeDone s pid k)

-- Segments, groups, parameters, budget.
/-- R56: whether a segment number lies in the allotment. -/
def segOk (p : Part) (seg : Nat) : Bool := decide (seg < 2048 * p.chans.length)
def execEdgeSegmentKey (pid : Nat) (seg : Nat) (k : Fin 16) (s : State) : Host.Outcome State Fault Refusal :=
  .next (match s.part pid with
    | some p => if segOk p seg then s.setPart { p with segKey := aput p.segKey seg k.val } else s
    | none => s)
/-- R386. -/
def execPeerSegment (pid : Nat) (seg : Nat) (link : Nat) (tgt : PeerTarget) (s : State) : Host.Outcome State Fault Refusal :=
  .next (match s.part pid with
    | some p => if segOk p seg && p.links.contains link then s.setPart { p with peers := aput p.peers seg (link, tgt) } else s
    | none => s)
/-- R138: whether a collective of the partition uses an entry. -/
def groupBusy (s : State) (t : Nat) (i : Nat) : Bool :=
  match s.part (s.tile t).pid with
  | some p => p.tiles.any fun u => (s.tile u).jobs.any fun j => j.kind == 2 && collGrp j == i
  | none => false
/-- Table 7.4: the reserved bits of an entry, and the reserved codes of UP. -/
def groupReserved (v : Word) : Bool := bit v 62 || fld v 0 16 != 0 || (decide (8 ≤ fld v 24 4) && fld v 24 4 != 15)
/-- R139: the matching of a group's COLL jobs begins anew once no tile of the partition is a member (log 49). -/
def restartGroup (s : State) (pid i : Nat) : State :=
  match s.part pid with
  | some p =>
    if p.tiles.any fun u => (groupEntry (s.tile u) i).isSome then s
    else s.setPart { p with collSeq := p.collSeq.filter fun e => e.1 % 64 != i }
  | none => s
/-- R138: firmware writes an entry. What a collective that did not end had left in the router goes (log 49). -/
def writeGroup (s : State) (t i : Nat) (v : Word) : State :=
  let mine (k : Nat) : Bool := k % 4 == 1 && k / 64 % 64 == i
  let s := { s with net := s.net.filter fun q => !(q.dst == t && match q.body with | .coll g _ _ _ _ => g == i | .credit k => mine k | _ => false) }.modTile t
    fun x => { x with groups := aput x.groups i v, colls := x.colls.filter (fun c => c.grp != i), credits := x.credits.filter fun e => !mine e.1 }
  restartGroup s (s.tile t).pid i
/-- R138; a write with a reserved bit set is refused and reported (00 R9; log 83). -/
def execGroupTableWrite (t : Nat) (i : Fin 64) (v : BitVec 64) (s : State) : Host.Outcome State Fault Refusal :=
  .next (if groupBusy s t i.val then s else if groupReserved v then refuseReport s t .sreg 0 else writeGroup s t i.val v)
/-- R93, R157, R353: a value outside its range is refused; t names the tile, or a tile of the field. -/
def setParam (s : State) (t : Nat) (p : Param) (v : Nat) : State :=
  let within (lo hi : Nat) (f : State) : State := if lo ≤ v ∧ v ≤ hi then f else s
  match p with
  | .holdLimit => within 256 (2 ^ 20) (s.modTile t fun x => { x with holdLimit := v })
  | .bounceLim => within 0 7 (s.modTile t fun x => { x with bounceLim := v })
  | .pinSpan => within 1 65535 (s.modTile t fun x => { x with pinSpan := v })
  | .drainInt => within 64 65536 (s.modTile t fun x => { x with drainInt := v })
  | .balInt => within 256 (2 ^ 20) (s.modTile t fun x => { x with balInt := v })
  | .promoteInt => within 1024 (2 ^ 24) (s.modField (fieldOf t) fun x => { x with promoteInt := v })
def execSetParameter (t : Nat) (p : Param) (v : Nat) (s : State) : Host.Outcome State Fault Refusal := .next (setParam s t p v)
/-- R388. -/
def execSetBudget (w : Nat) (s : State) : Host.Outcome State Fault Refusal :=
  .next (if 10000 ≤ w ∧ w ≤ 25000 then { s with budget := w } else s)

-- Load images (R194 to R196, R389).
/-- A segment record (Table 9.14) with the physical address of its first page. -/
structure Seg where
  base : Word
  bytes : List Byte
  mlen : Nat
  attr : Word
  pa : Nat
  deriving DecidableEq, Repr
def segTile (p : Part) (g : Seg) : Tile := p.at (fld g.base 44 7) (fld g.base 51 6)
def segPage (g : Seg) : Nat := pageBytes (fld g.attr 0 4)
/-- The word at an image offset. -/
def imgWord (l : List Byte) (o : Nat) : Word := leWord ((l.drop o).take 8)
def imgSegs (l : List Byte) (places : List Nat) : List Seg :=
  (List.range (fld (imgWord l 8) 0 32)).map fun i =>
    let o := (imgWord l 16).toNat + 32 * i
    let len := imgWord l (o + 16)
    { base := imgWord l o, bytes := (l.drop (imgWord l (o + 8)).toNat).take (fld len 0 32), mlen := fld len 32 32, attr := imgWord l (o + 24)
      pa := lget places i 0 }
/-- R195: a name, by its offset from STROFF and its length. -/
def imgName (l : List Byte) (w : Word) : List Byte := (l.drop ((imgWord l 0x38).toNat + fld w 0 32)).take (fld w 32 32)
/-- R195, R196, step 6: the launch records, each its LAUNCH packet and its name. -/
def imgLaunches (l : List Byte) : List (List Byte × List Byte) :=
  (List.range (fld (imgWord l 8) 32 32)).map fun i =>
    let o := (imgWord l 24).toNat + 144 * i
    ((l.drop o).take 128, imgName l (imgWord l (o + 128)))
/-- R195: the symbol records, each a label's address and its name. -/
def imgSyms (l : List Byte) : List (Word × List Byte) :=
  (List.range (fld (imgWord l 40) 0 32)).map fun i =>
    let o := (imgWord l 32).toNat + 16 * i
    (imgWord l o, imgName l (imgWord l (o + 8)))
/-- R194, R195, 00 R9: the mark, the version, and every reserved field of the header and the records zero. -/
def imageOk (l : List Byte) : Bool :=
  let launch (i : Nat) : Bool := imgWord l ((imgWord l 24).toNat + 144 * i + 136) == 0
  fld (imgWord l 0) 0 32 == 0x4657384C && fld (imgWord l 0) 32 16 == 1 && fld (imgWord l 0) 48 16 == 0 && fld (imgWord l 40) 32 32 == 0 &&
    fld (imgWord l 0x30) 24 40 == 0 && (imgSegs l []).all (fun g => fld g.attr 14 50 == 0) && (List.range (fld (imgWord l 8) 32 32)).all launch
/-- R196, step 2: the tile, the physical pages, and that what is stored lies in what is mapped (00 R2). -/
def segChecks (p : Part) (g : Seg) : Bool :=
  fld g.base 57 7 == 0 && decide (fld g.base 44 7 < p.w) && decide (fld g.base 51 6 < p.h) && fld g.base 40 4 == 0 && decide (fld g.attr 0 4 ≤ 9) &&
    g.pa % segPage g == 0 && decide (g.pa + g.mlen ≤ heldBase) && decide (g.bytes.length ≤ g.mlen) && g.mlen % segPage g == 0 &&
    g.base.toNat % segPage g == 0 && decide (fld g.base 0 40 + g.mlen ≤ 2 ^ 40)
/-- Table 2.7: a leaf with a segment's attributes. -/
def segLeaf (g : Seg) (pa : Nat) : Word :=
  let a := g.attr
  w64 (fld a 10 4 * 2 ^ 58 + b2n (bit a 8) * 2 ^ 57 + b2n (bit a 7) * 2 ^ 56 + b2n (bit a 9) * 2 ^ 55 + b2n (bit a 6) * 2 ^ 54 + b2n (bit a 5) * 2 ^ 53 +
    b2n (bit a 4) * 2 ^ 52 + fld a 0 4 * 2 ^ 48 + pa / 4096 * 4096 + 1)
/-- Where firmware puts a new table: the highest 8 KiB below the reserved range that is zero, clear of the segments and not the
table ex; none where 256 places are taken (log 50). -/
def tableRoom (s : State) (t : Nat) (segs : List Seg) (ex : Nat) : Nat → Nat → Option Nat
  | 0, _ => none
  | n + 1, a =>
    let clear := cgets s.mem (vKey t a) 8192 == List.replicate 8192 0 && a != ex && segs.all fun g => !meets g.pa g.mlen a 8192
    if clear then some a else tableRoom s t segs ex n (a - 8192)
/-- The table of a level on the way to an offset, made where it is missing; none when the way is closed by a leaf, or no place is
left. -/
def tableAt (segs : List Seg) (t off : Nat) : Nat → Nat → Nat → State → Option (State × Nat)
  | 0, _, a, s => some (s, a)
  | n + 1, level, a, s =>
    let at' := a + 8 * walkIdx level off
    let e := phys64 s t at'
    if fld e 0 2 = 2 then tableAt segs t off n (level + 1) (fld e 11 19 * 2048) s
    else if fld e 0 2 = 0 then
      match tableRoom s t segs a 256 (heldBase / 8192 * 8192 - 8192) with
      | some b => tableAt segs t off n (level + 1) b (physPut s t at' (wBytes (w64 (b + 2))))
      | none => none
    else none
/-- A tile's page table, whose root is made where VTB.EN is 0. -/
def tableRoot (segs : List Seg) (t : Nat) (s : State) : Option State :=
  if bit (s.tile t).vtb 0 then some s
  else (tableRoom s t segs 0 256 (heldBase / 8192 * 8192 - 8192)).map fun b => s.modTile t fun x => { x with vtb := w64 (b + 1) }
/-- R31: a page's leaf in every entry that it covers, from the n-th last on. -/
def putLeaf (segs : List Seg) (t off : Nat) (e : Word) (level cover : Nat) : Nat → State → Option State
  | 0, s => some s
  | n + 1, s =>
    match putLeaf segs t off e level cover n s with
    | none => none
    | some s =>
      match tableAt segs t (off + n * cover) (level - 1) 1 (fld (s.tile t).vtb 13 17 * 8192) s with
      | some (s, a) => some (physPut s t (a + 8 * walkIdx level (off + n * cover)) (wBytes e))
      | none => none
/-- The leaves of the first n pages of a segment. -/
def putPages (segs : List Seg) (g : Seg) (t : Nat) : Nat → State → Option State
  | 0, s => some s
  | n + 1, s =>
    let sz := fld g.attr 0 4
    let level := leafLevel sz
    let cover := if level = 1 then 2 ^ 30 else if level = 2 then 2 ^ 20 else 4096
    match putPages segs g t n s with
    | none => none
    | some s => putLeaf segs t (fld g.base 0 40 + n * segPage g) (segLeaf g (g.pa + n * segPage g)) level cover (pageBytes sz / cover) s
/-- R196, steps 3 to 5, of a segment at a tile. -/
def placeSeg (segs : List Seg) (g : Seg) (s : State) (t : Nat) : Option State :=
  let k := vKey t g.pa
  let out (w : Nat) : Bool := decide (8 * w < k) || decide (k + g.mlen < 8 * w + 8)
  let u := { s with
    mem := cputs (czero s.mem k g.mlen) k g.bytes, full := s.full.filter (fun w => out w || !s.poison.contains w)
    poison := s.poison.filter out, latent := s.latent.filter out }
  let s := genRun (physWake u t g.pa g.mlen) t g.pa g.mlen
  match tableRoot segs t s with
  | none => none
  | some s => (putPages segs g t (g.mlen / segPage g) s).map fun s => s.modTile t fun x => { x with tlb := [] }
/-- R53: the replica tiles of a partition. -/
def replicas (s : State) (p : Part) : List Tile := (p.tiles.map fun t => replicaTile s t).eraseDups
/-- R389: why the band or lanes of an image refuse it. -/
def imageCause (s : State) (p : Part) (band lanes : Nat) : Option Cause :=
  if p.tiles.any fun t => decide ((s.field (fieldOf t)).band < band) then some .loadBand
  else if lanes = 16 ∧ (p.tiles.any fun t => (s.tile t).lanes == 8) = true then some .loadLane
  else none
def refuseImage (s : State) (pid code : Nat) : State := hostReport s true 9 code pid 0 0 0 0 0
/-- R196, steps 3 to 5: every segment at its tile, and a segment of replicated code at each field's replica too (R53), where its copy
stands at the same physical address: the host names one for a segment (DESIGN CHOICE, log 50). -/
def placeAll (p : Part) (segs : List Seg) (s : State) : Option State :=
  segs.foldl (fun s g => (if bit g.attr 7 then (segTile p g :: replicas ((s.getD State.reset)) p).eraseDups else [segTile p g]).foldl
    (fun s t => s.bind fun s => placeSeg segs g s t) s) (some s)
/-- R196, R389: an image is loaded, or refused. A refusal of step 2's checks, or of the tables, is reported with CAUSE 0: R389 names codes
for the band and the lanes only (DESIGN CHOICE, log 50). -/
def loadImage (s : State) (pid : Nat) (image : List Byte) (places : List Nat) : State :=
  match s.part pid with
  | none => s
  | some p =>
    let pl := imgWord image 0x30
    let segs := imgSegs image places
    match imageCause s p (fld pl 0 16) (fld pl 16 8) with
    | some c => refuseImage s pid (causeCode c)
    | none =>
      if imageOk image && segs.all (segChecks p) then
        let low := p.tiles.foldl (fun m t => min m (s.field (fieldOf t)).band) 2800
        match placeAll p segs (s.setPart { p with band := if fld pl 0 16 = 0 then low else fld pl 0 16 }) with
        | some s => { s with out := s.out ++ [HostOut.launches pid (imgLaunches image)] }
        | none => refuseImage s pid 0
      else refuseImage s pid 0
def execLoadImage (pid : Nat) (image : List (BitVec 8)) (places : List Nat) (s : State) : Host.Outcome State Fault Refusal :=
  .next (loadImage s pid image places)

end Sys2Proof.Machine
end

