-- ==== Sys2Proof/Machine/Integer.lean ====
section
/-! DEFINITION. Sys2Proof/Machine/Integer.lean: integer arithmetic, major 0x01 (10 R201, R202). -/

namespace Sys2Proof.Machine

/-- R197: an integer result of n bits extended to 64. -/
def intRes (ty : Ty) (r : Int) : Word := extTy ty (modPow (tyBits ty) r)
/-- R197: an operation on the two sources as the type reads them. -/
def intOp (ty : Ty) (f : Int → Int → Int) (a b : Word) : Word := intRes ty (f (valTy ty a) (valTy ty b))

/-- R202: truncating signed division. -/
def divS (n : Nat) (a b : Int) : Int := if b = 0 then -1 else if a = -(2 ^ (n - 1)) ∧ b = -1 then -(2 ^ (n - 1)) else a.tdiv b
def remS (n : Nat) (a b : Int) : Int := if b = 0 then a else if a = -(2 ^ (n - 1)) ∧ b = -1 then 0 else a - a.tdiv b * b
/-- R202: unsigned division; the operands are not negative. -/
def divU (n : Nat) (a b : Int) : Int := if b = 0 then 2 ^ n - 1 else a / b
def remU (a b : Int) : Int := if b = 0 then a else a % b

def execAdd (ty : Ty) (d a : GP) (b : Src) (s : State) := op2 s d a b fun _ => intOp ty (· + ·)
def execSub (ty : Ty) (d a : GP) (b : Src) (s : State) := op2 s d a b fun _ => intOp ty (· - ·)
def execMul (ty : Ty) (d a : GP) (b : Src) (s : State) := op2 s d a b fun _ => intOp ty (· * ·)
def execMulh (ty : Ty) (d a : GP) (b : Src) (s : State) := op2 s d a b fun _ => intOp ty fun x y => x * y / 2 ^ tyBits ty
def execMulhu (ty : Ty) (d a : GP) (b : Src) (s : State) := op2 s d a b fun _ => intOp ty fun x y => x * y / 2 ^ tyBits ty
def execDiv (ty : Ty) (d a : GP) (b : Src) (s : State) := op2 s d a b fun _ => intOp ty (divS (tyBits ty))
def execDivu (ty : Ty) (d a : GP) (b : Src) (s : State) := op2 s d a b fun _ => intOp ty (divU (tyBits ty))
def execRem (ty : Ty) (d a : GP) (b : Src) (s : State) := op2 s d a b fun _ => intOp ty (remS (tyBits ty))
def execRemu (ty : Ty) (d a : GP) (b : Src) (s : State) := op2 s d a b fun _ => intOp ty remU
def execNeg (ty : Ty) (d a : GP) (s : State) := op1 s d a fun _ x => intRes ty (0 - valTy ty x)
def execAbs (ty : Ty) (d a : GP) (s : State) := op1 s d a fun _ x => intRes ty ((valTy ty x).natAbs : Int)
def execMin (ty : Ty) (d a : GP) (b : Src) (s : State) := op2 s d a b fun _ => intOp ty fun x y => if x ≤ y then x else y
def execMax (ty : Ty) (d a : GP) (b : Src) (s : State) := op2 s d a b fun _ => intOp ty fun x y => if x ≤ y then y else x
def execMinu (ty : Ty) (d a : GP) (b : Src) (s : State) := op2 s d a b fun _ => intOp ty fun x y => if x ≤ y then x else y
def execMaxu (ty : Ty) (d a : GP) (b : Src) (s : State) := op2 s d a b fun _ => intOp ty fun x y => if x ≤ y then y else x

end Sys2Proof.Machine
end

