-- ==== Sys2Proof/Machine/Matrix.lean ====
section
/-! DEFINITION. Sys2Proof/Machine/Matrix.lean: the matrix engine, major 0x40: issue (14 R306 to R313), the graded arithmetic
(R295 to R298), the replay ladder (R299 to R303), MRED (R311), MSTO (R312), completion (R304). -/

namespace Sys2Proof.Machine

-- Graded arithmetic.
/-- Lmax of a tier (Table 14.2). -/
def tierL (t : Nat) : Nat := match t with | 0 => 14 | 1 => 46 | 2 => 22 | 3 => 64 | _ => 11
/-- R297: an M16 code as m * 2^k, and the least code at or above m * 2^k. -/
def m16Val (c : Nat) : Nat × Int := if c / 64 = 0 then (0, 0) else (64 + c % 64, (c / 64 : Nat) - 518)
def m16Up (m : Nat) (k : Int) : Nat :=
  if m = 0 then 0
  else
    let top := k + m.log2
    if top < -511 then 64
    else
      let q := top - 6
      let f := if k ≥ q then m * 2 ^ (k - q).toNat else cdiv m (2 ^ (q - k).toNat)
      min ((top + 512).toNat * 64 + (f - 64)) 0xFFFF
/-- The exact sum of two such values, and their order. -/
def m16Add (a b : Nat × Int) : Nat × Int :=
  let e := min a.2 b.2
  (a.1 * 2 ^ (a.2 - e).toNat + b.1 * 2 ^ (b.2 - e).toNat, e)
def m16Lt (a b : Nat × Int) : Bool :=
  let e := min a.2 b.2
  decide (a.1 * 2 ^ (a.2 - e).toNat < b.1 * 2 ^ (b.2 - e).toNat)

/-- A lane unit as the array reads it: header fields, significands, and the elements of tier F32. -/
structure MUnit where
  e : Nat
  sat : Nat
  unf : Nat
  pois : Bool
  sigs : List Int
  fl : List FV
def readUnit (t : Nat) (u : List Byte) : MUnit :=
  if t = 5 then ⟨0, 0, 0, false, [], (List.range 32).map fun i => fdec f32F (leNat ((u.drop (4 * i)).take 4))⟩
  else ⟨unitE u, unitSat u, unitUnf u, unitPoison u, unitSigs t u, []⟩

/-- A cell during an attempt: its value and mass, and its open chain: number, length, combined scale, true sum (R295). hits lists the
chains in which a channel is corrupted. -/
structure MCell where
  cell : A64
  mass : Nat
  len : Nat
  es : Nat
  sum : Int
  ovf : Nat
  ovd : Bool
  derr : Bool
  no : Nat
  hits : List Nat
/-- R296: a chain closes: Chinese remainder, check modulus, arrival. -/
def closeChain (t : Nat) (m : MCell) : MCell :=
  if m.len = 0 then m
  else
    let mm : Int := tierM t
    let s := (m.sum + mm / 2) % mm - mm / 2
    let n := { m with len := 0, sum := 0, no := m.no + 1 }
    if m.hits.contains m.no || decide (s % 11 ≠ m.sum % 11) then
      if 1 < m.len then { n with ovf := m.ovf + 1, ovd := true } else { n with derr := true }
    else
      let xs : Int := (m.es : Int) - 254 - 2 * tierF t
      { n with cell := a64Arrive m.cell s xs, mass := (let v := m16Add (m16Val m.mass) (s.natAbs, xs); m16Up v.1 v.2) }
/-- R295: one K-block enters a cell. A block with E = 0 adds nothing, whatever the other unit holds (log 19). -/
def blockIn (t lim : Nat) (m : MCell) (a b : MUnit) : MCell :=
  if m.cell.1 = a64Pois ∨ a.e = 0 ∨ b.e = 0 then m
  else if a.pois || b.pois then { m with cell := (a64Pois, 0), len := 0, sum := 0 }
  else
    let es := a.e + b.e
    let m := if m.es = es then m else closeChain t m
    if m.cell.1 = a64Pois then m
    else
      let m := { m with len := m.len + 1, es := es, sum := m.sum + ((a.sigs.zip b.sigs).map fun p => p.1 * p.2).sum }
      if m.len = lim then closeChain t m else m
/-- R298: one product on the float path. -/
def floatIn (c : A64) (a b : FV) : A64 :=
  match a, b with
  | .fin n1 m1 e1, .fin n2 m2 e2 =>
    let p : Int := ((m1 * m2 : Nat) : Int)
    a64Arrive c (if n1 != n2 then -p else p) (e1 + e2)
  | _, _ => (a64Pois, 0)
/-- R297, R298: the K-blocks of one cell in ascending order. -/
def cellRun (t lim : Nat) (c : A64) (hits : List Nat) (l : List (MUnit × MUnit)) : MCell :=
  let m0 : MCell :=
    { cell := c, mass := if c.1 = a64Pois then 0 else m16Up c.1.natAbs c.2, len := 0, es := 0, sum := 0, ovf := 0, ovd := false
      derr := false, no := 0, hits := hits }
  if t = 5 then { m0 with cell := l.foldl (fun c u => (u.1.fl.zip u.2.fl).foldl (fun c p => floatIn c p.1 p.2) c) c }
  else closeChain t (l.foldl (fun m u => blockIn t lim m u.1 u.2) m0)

-- Units and groups.
/-- The view-space offset of a unit (R73). -/
def unitOff (wnd tier u : Nat) : Nat := 2 ^ 40 + wnd * 2 ^ 36 + tier * 2 ^ 33 + u * tierStride tier
/-- R74 for one unit of a window at a tier; the checks are made when the engine reads it (R307). -/
def engineUnit (s : State) (t wnd tier u : Nat) : Except Trap (List Byte) :=
  let w := (s.tile t).win wnd
  let a := (s.tile t).here (unitOff wnd tier u)
  if !w.en then .error { cause := .window, addr := a }
  else if w.units ≤ u then .error { cause := .window, addr := a }
  else if w.key ≠ 0 ∧ (match (s.tile t).key w.key.toNat with | .loaded _ _ => false | _ => true) = true then .error { cause := .revoked, addr := a }
  else .ok (decodeUnit s t w tier u)
/-- The units of a list that an engine has read: what their decoding finds uncorrectable is poisoned (03 R417). -/
def meetUnits (s : State) (t tier : Nat) (l : List (Nat × Nat)) : State :=
  l.foldl (fun s e => viewFill s t (unitOff e.1 tier e.2) (tierStride tier)) s
/-- A list read element by element, up to the first failure. -/
def tryMap {α β : Type} (f : α → Except Trap β) : List α → Except Trap (List β)
  | [] => .ok []
  | a :: r => match f a with
    | .error c => .error c
    | .ok b => match tryMap f r with
      | .error c => .error c
      | .ok l => .ok (b :: l)
/-- R293: the units of a plane for one K-block. -/
def planeUnits (s : State) (t wnd u0 cstr nc tier : Nat) : Except Trap (List (List Byte)) :=
  tryMap (fun j => engineUnit s t wnd tier (u0 + j * cstr)) (List.range nc)
/-- The window, tier and unit index of a view address (R73). -/
def viewWnd (a : Word) : Nat := fld a 36 4
def viewTier (a : Word) : Nat := fld a 33 3
def viewUnit (a : Word) : Nat := fld a 0 33 / tierStride (viewTier a)

/-- One group of rows (R310): first rows in the bank and the stream, stationary provenance, block 0 where a plane holds it. -/
structure MGrp where
  brow : Nat
  srow : Nat
  rows : Nat
  wnd : Nat
  u0 : Nat
  cstr : Nat
  nc : Nat
  first : Option (List (List Byte))
/-- Fields of the MMUL block (Table 14.8). -/
def mmRows (w : List Word) : Nat := fld (lget w 0 0) 48 8 + 1
def mmRow0 (w : List Word) : Nat := fld (lget w 0 0) 40 8
def mmKb (w : List Word) : Nat := fld (lget w 0 0) 16 16
def mmCt (w : List Word) : Nat := fld (lget w 0 0) 10 6
def mmGsync (w : List Word) : Bool := bit (lget w 0 0) 9
def mmAcc (w : List Word) : Bool := bit (lget w 0 0) 8
def mmCeil (w : List Word) : Nat := fld (lget w 0 0) 5 3
def mmStier (w : List Word) : Nat := fld (lget w 0 0) 2 3
def mxBank (w : List Word) : Nat := fld (lget w 0 0) 0 1
/-- Table 14.9: the groups of an MMULG, with the rows before each. -/
def groupEnt (w : List Word) (g : Nat) : Word × Word := (lget w (6 + 2 * g) 0, lget w (7 + 2 * g) 0)
def groupRows (w : List Word) (g : Nat) : Nat := fld (groupEnt w g).2 0 8
def groupCount (w : List Word) : Nat := fld (lget w 0 0) 48 4 + 1
def mxGroups (w : List Word) : List MGrp :=
  (List.range (groupCount w)).map fun g =>
    let before := ((List.range g).map (groupRows w)).sum
    let (a, e) := groupEnt w g
    ⟨mmRow0 w + before, before, groupRows w g, viewWnd a, viewUnit a, fld e 32 26, fld e 16 7, none⟩
/-- The groups of an instruction at a tier: an MMUL is one group over the active plane. -/
def insGroups (i : MxIns) (p : Option Plane) : List MGrp :=
  if i.kind = 1 then mxGroups i.blk
  else match p with
    | some p => [⟨mmRow0 i.blk, 0, mmRows i.blk, p.wnd, p.u0, p.cstr, p.nc, some p.units⟩]
    | none => []
/-- Empty groups (R310). -/
def mxEmpty (i : MxIns) : Nat := if i.kind = 1 then ((mxGroups i.blk).filter fun g => g.rows == 0).length else 0

-- Attempts.
/-- A cell of a bank, and the bank with it set; a cell not listed is I = 0, X = 0 (R292). -/
def bankGet (b : Assoc A64) (k : Nat) : A64 := aget b k (0, 0)
def bankSet (b : Assoc A64) (k : Nat) (c : A64) : Assoc A64 := if c = (0, 0) then adel b k else aput b k c
def bankOf (m : Mx) (n : Nat) : Assoc A64 := if n = 0 then m.bank0 else m.bank1
/-- The outcome of an attempt: bank, the counts SAT, UNF, OVF, CAN, rows with a data error, overflowed cells. -/
structure Att where
  bank : Assoc A64
  cnt : List Nat
  derr : List Nat
  ovd : List Nat
def zeroRows (b : Assoc A64) (gs : List MGrp) : Assoc A64 :=
  b.filter fun e => !(gs.any fun g => decide (g.brow ≤ e.1 / 64) && decide (e.1 / 64 < g.brow + g.rows))
/-- R299: the cell counts as cancelled. -/
def cancelled (ct : Nat) (m : MCell) : Bool :=
  let v := m16Val m.mass
  m.cell.1 != a64Pois && !m.ovd && m16Lt (m.cell.1.natAbs, m.cell.2) (v.1, v.2 - ct)
/-- The stationary units of a group, column by column, and its stream units, row by row. -/
def groupCols (s : State) (t tier kb : Nat) (g : MGrp) : Except Trap (List (List MUnit)) :=
  tryMap (fun n => match tryMap (fun b => match b, g.first with
      | 0, some l => .ok (lget l n [])
      | _, _ => engineUnit s t g.wnd tier (g.u0 + n * g.cstr + b)) (List.range kb) with
    | .ok l => .ok (l.map (readUnit tier))
    | .error c => .error c) (List.range g.nc)
def groupStream (s : State) (t tier kb : Nat) (w : List Word) (g : MGrp) : Except Trap (List (List MUnit)) :=
  let a := lget w 2 0
  tryMap (fun m => match tryMap (fun b => engineUnit s t (viewWnd a) tier (viewUnit a + (g.srow + m) * fld (lget w 3 0) 0 26 + b)) (List.range kb) with
    | .ok l => .ok (l.map (readUnit tier))
    | .error c => .error c) (List.range g.rows)
/-- The units that a group reads, by window and number. -/
def groupUnits (w : List Word) (g : MGrp) : List (Nat × Nat) :=
  let a := lget w 2 0
  if g.rows = 0 then []
  else ((List.range g.nc).flatMap fun n => (List.range (mmKb w)).map fun b => (g.wnd, g.u0 + n * g.cstr + b)) ++
    (List.range g.rows).flatMap fun m => (List.range (mmKb w)).map fun b => (viewWnd a, viewUnit a + (g.srow + m) * fld (lget w 3 0) 0 26 + b)
/-- R295 to R299 over one group. hits lists the chains of a cell with a corrupted channel. -/
def groupRun (s : State) (t tier : Nat) (w : List Word) (hits : Nat → List Nat) (a : Att) (g : MGrp) : Except Trap Att :=
  if g.rows = 0 then .ok a
  else match groupCols s t tier (mmKb w) g, groupStream s t tier (mmKb w) w g with
    | .error c, _ => .error c
    | _, .error c => .error c
    | .ok cols, .ok rows =>
      let lim := min (fld (lget w 0 0) 32 6 + 1) (tierL tier)
      let cells : List (Nat × MCell) := (List.range g.rows).flatMap fun m => (List.range g.nc).map fun n =>
        let k := 64 * (g.brow + m) + n
        (k, cellRun tier lim (bankGet a.bank k) (hits k) ((lget rows m []).zip (lget cols n [])))
      let used := cols.flatten ++ rows.flatten
      let add : List Nat := if tier = 5 then [0, 0, 0, 0] else
        [(used.map (·.sat)).sum, (used.map (·.unf)).sum, (cells.map (·.2.ovf)).sum, cells.countP fun c => cancelled (mmCt w) c.2]
      .ok { bank := cells.foldl (fun b c => bankSet b c.1 c.2.cell) a.bank
            cnt := (a.cnt.zip add).map fun p => p.1 + p.2
            derr := a.derr ++ (cells.filter fun c => c.2.derr).map fun c => c.1 / 64
            ovd := a.ovd ++ (cells.filter fun c => c.2.ovd).map (·.1) }
def groupsRun (s : State) (t tier : Nat) (w : List Word) (hits : Nat → List Nat) (a : Att) : List MGrp → Except Trap Att
  | [] => .ok a
  | g :: r => match groupRun s t tier w hits a g with
    | .error c => .error c
    | .ok a => groupsRun s t tier w hits a r

/-- A member of a ladder: tile, instruction, tier, attempts, whether a replay at the same tier took place, the active plane,
the last attempt, the cause that ends it, the windows that its attempts have read (R315). -/
structure Lad where
  t : Tile
  ins : MxIns
  tier : Nat
  att : Nat
  dataerr : Bool
  plane : Option Plane
  res : Att
  cause : Option Trap
  read : List Nat
/-- The windows that groups read: those that hold rows, up to the first whose reading fails; feed is the stream's. -/
def groupsRead (feed : Nat) (fails : List MGrp → Bool) (gs : List MGrp) : List Nat :=
  let n := ((List.range gs.length).find? fun n => fails (gs.take (n + 1))).getD gs.length
  (((gs.take (n + 1)).filter fun g => g.rows != 0).flatMap fun g => [feed, g.wnd])
/-- R301: the active plane at a tier. -/
def planeAt (s : State) (t tier : Nat) (p : Plane) : Except Trap Plane :=
  if p.tier = tier then .ok p
  else match planeUnits s t p.wnd p.u0 p.cstr p.nc tier with
    | .ok l => .ok { p with tier := tier, units := l }
    | .error c => .error c
/-- R300, R305: one attempt; its counts are added to the monitors. An attempt that ends with a cause adds nothing to them, whatever it
had counted by then (DESIGN CHOICE, log 46). upset lists the corrupted chains, as
((member * 16 + attempt) * 8192 + cell) * 2^17 + chain. -/
def ladAttempt (s : State) (upset : List Nat) (n : Nat) (l : Lad) : State × Lad :=
  let m := (s.tile l.t).mx
  let b := bankOf m (mxBank l.ins.blk)
  let hits (k : Nat) : List Nat := (upset.filter fun e => e / 2 ^ 17 == (16 * n + l.att) * 8192 + k).map (· % 2 ^ 17)
  let l := { l with att := l.att + 1 }
  let pl : Except Trap (Option Plane) := match l.ins.kind, l.plane with
    | 0, some p => (match planeAt s l.t l.tier p with | .ok p => .ok (some p) | .error c => .error c)
    | 0, none => .error { cause := .noPlane }
    | _, p => .ok p
  match pl with
  | .error c => (s, { l with cause := some c, read := l.read ++ (l.plane.map (·.wnd)).toList })
  | .ok p =>
    let gs := insGroups l.ins p
    let b := if mmAcc l.ins.blk then b else zeroRows b gs
    let s := meetUnits s l.t l.tier (gs.flatMap (groupUnits l.ins.blk))
    let run := groupsRun s l.t l.tier l.ins.blk hits ⟨b, [0, 0, 0, 0], [], []⟩
    let fails (gs : List MGrp) : Bool := match run gs with | .ok _ => false | .error _ => true
    let l := { l with read := l.read ++ groupsRead (viewWnd (lget l.ins.blk 2 0)) fails gs }
    match run gs with
    | .error c => (s, { l with cause := some c })
    | .ok a =>
      let c (i : Nat) : Word := w64 (lget a.cnt i 0)
      let s := s.modTile l.t fun x =>
        { x with mx := { x.mx with msat := x.mx.msat + c 0, munf := x.mx.munf + c 1, movf := x.mx.movf + c 2, mcan := x.mx.mcan + c 3 } }
      (s, { l with plane := p, res := a })
/-- R305: a replay counter advances. -/
def rpcInc (s : State) (t i : Nat) : State :=
  s.modTile t fun x => { x with mx := { x.mx with rpc := x.mx.rpc.set i (lget x.mx.rpc i 0 + 1) } }
/-- R300: the attempts at one tier: a data error is replayed once. -/
def ladTier (upset : List Nat) (e : State × List Lad) (p : Nat × Lad) : State × List Lad :=
  let (n, l) := p
  if l.cause.isSome then (e.1, e.2 ++ [l])
  else
    let (s, l) := ladAttempt e.1 upset n l
    if l.cause.isNone && !l.res.derr.isEmpty then
      let (s, l) := ladAttempt (rpcInc s l.t 5) upset n { l with dataerr := true }
      (s, e.2 ++ [l])
    else (s, e.2 ++ [l])
/-- R299: the counts that exceed their budgets, as OVER. -/
def ladOver (l : Lad) : Nat :=
  ((List.range 4).map fun i =>
    let b := fld (lget l.ins.blk 1 0) (48 - 16 * i) 16
    b2n (b != 0xFFFF && decide (b < lget l.res.cnt i 0)) * 2 ^ i).sum
/-- R300, R303: the ladder of one instruction, or of a gang's members together. A member that has ended with a cause takes no
further part. -/
def ladGo (upset : List Nat) : Nat → State → List Lad → State × List Lad
  | 0, s, l => (s, l)
  | n + 1, s, l =>
    let (s, l) := (l.zipIdx.map fun e => (e.2, e.1)).foldl (ladTier upset) (s, [])
    let live := l.filter fun x => x.cause.isNone
    if live.any fun x => decide (ladOver x ≠ 0) && decide (x.tier < mmCeil x.ins.blk) then
      let s := live.foldl (fun s x => rpcInc s x.t x.tier) s
      ladGo upset n s (l.map fun x => if x.cause.isNone then { x with tier := x.tier + 1 } else x)
    else (s, l)

-- Completion words.
/-- Table 14.5. -/
def mxCode : Cause → Nat | .window => 0x80 | .noPlane => 0x81 | c => jobCode c
/-- Table 14.3. -/
def mxStatus (opk code tier att ovd : Nat) (err budget pois : Bool) (empty : Nat) (derr : Bool) : Word :=
  w64 (2 ^ 63 + opk * 2 ^ 56 + code * 2 ^ 48 + tier * 2 ^ 45 + att * 2 ^ 40 + ovd * 2 ^ 36 + b2n err * 2 ^ 35 + b2n budget * 2 ^ 34 +
    b2n pois * 2 ^ 33 + b2n (empty != 0) * 2 ^ 32 + b2n derr * 2 ^ 31 + empty * 2 ^ 24)
/-- Table 14.4. -/
def mxCount (l : List Nat) : Word :=
  w64 (min (lget l 0 0) 0xFFFF * 2 ^ 48 + min (lget l 1 0) 0xFFFF * 2 ^ 32 + min (lget l 2 0) 0xFFFF * 2 ^ 16 + min (lget l 3 0) 0xFFFF)
/-- PHO and CWA of an instruction (Tables 14.8, 14.10, 14.11). -/
def mxPho (i : MxIns) : Option Word :=
  match i.kind with | 0 | 1 => some (lget i.blk 4 0) | 2 => some (lget i.blk 2 0) | 3 => some (lget i.blk 3 0) | _ => none
def mxCwa (i : MxIns) : Word := match i.kind with | 0 | 1 => lget i.blk 5 0 | 3 => lget i.blk 4 0 | _ => 0

/-- An instruction that has run, the engine otherwise as it stands. -/
def runOf (m : Mx) (i : MxIns) (status count : Word) : MxRun :=
  { ins := i, status := status, count := count, waiting := false, asked := false, cause := none, mdata := false, wins := [], active := m.active
    shadow := m.shadow, bank0 := m.bank0, bank1 := m.bank1 }
def withBank (r : MxRun) (n : Nat) (b : Assoc A64) : MxRun := if n = 0 then { r with bank0 := b } else { r with bank1 := b }
/-- The head of a tile's queue leaves it and is executing. -/
def setRun (s : State) (t : Tile) (r : MxRun) : State :=
  s.modTile t fun x => { x with mx := { x.mx with queue := x.mx.queue.tail, run := some r } }
/-- An instruction that ends with a cause (R302, R304). -/
def mxFail (m : Mx) (i : MxIns) (c : Trap) (tier att : Nat) (derr : Bool) : MxRun :=
  let r := runOf m i (mxStatus i.kind (mxCode c.cause) tier att 0 false false false (mxEmpty i) derr) 0
  { r with cause := some c, active := if i.kind = 0 then none else m.active }
/-- R300: the exit of the ladder: poisoned rows and cells, status and count word. The result cells that POISON speaks of are those of the
target rows in all 64 columns, also those at NC and above that ACC = 1 leaves untouched (DESIGN CHOICE, log 112). -/
def ladFinish (s : State) (l : Lad) : State :=
  let m := (s.tile l.t).mx
  let gs := insGroups l.ins l.plane
  match l.cause with
  | some c => setRun s l.t { mxFail m l.ins c l.tier l.att l.dataerr with wins := l.read }
  | none =>
    let b := l.res.ovd.foldl (fun b k => bankSet b k (a64Pois, 0)) l.res.bank
    let b := l.res.derr.foldl (fun b r => (List.range 64).foldl (fun b n => bankSet b (64 * r + n) (a64Pois, 0)) b) b
    let ovd := ladOver l
    let err := !l.res.derr.isEmpty
    let inRows (k : Nat) : Bool := gs.any fun g => decide (g.brow ≤ k / 64) && decide (k / 64 < g.brow + g.rows)
    let pois := b.any fun e => e.2.1 == a64Pois && inRows e.1
    let st := mxStatus l.ins.kind 0 l.tier l.att ovd err (ovd != 0) pois (mxEmpty l.ins) l.dataerr
    let r := withBank (runOf m l.ins st (mxCount l.res.cnt)) (mxBank l.ins.blk) b
    setRun s l.t { r with mdata := err, wins := l.read, active := if l.ins.kind = 0 then l.plane else m.active }

-- MSTO.
/-- R312: a cell as it is stored, and what it adds to the counts. -/
def mstoVal (fmt : Nat) (c : A64) : Nat × List Nat :=
  if fmt = 0 then ((a64Word c).toNat, [b2n (c.1 == a64Pois), 0, 0, 0])
  else let (v, fl, inf) := a64ToF32 c; (v, [b2n (c.1 == a64Pois), b2n fl, b2n inf, 0])
/-- R312: the elements of a store: address, cell. -/
def mstoList (m : Mx) (w : List Word) : List (Word × A64) :=
  let h := lget w 0 0
  let es := if fld h 1 2 = 0 then 8 else 4
  let b := bankOf m (mxBank w)
  (List.range (fld h 48 8 + 1)).flatMap fun r => (List.range (fld h 24 6 + 1)).map fun c =>
    (lget w 1 0 + w64 (r * fld (lget w 2 0) 0 32 + c * es), bankGet b (64 * (fld h 40 8 + r) + fld h 32 6 + c))
def mstoGo (t fmt : Nat) : List (Word × A64) → List Nat → State → State × List Nat × Option Trap
  | [], n, s => (s, n, none)
  | (a, c) :: r, n, s =>
    let (v, k) := mstoVal fmt c
    match writeHome s t (fld a 0 44) (leBytes (if fmt = 0 then 8 else 4) v) aWrite with
    | .error e => (s, n, some { e with addr := a })
    | .ok s => mstoGo t fmt r ((n.zip k).map fun p => p.1 + p.2) s
def mstoRun (s : State) (t : Tile) (i : MxIns) : State :=
  let m := (s.tile t).mx
  let (s, n, tr) := mstoGo t (fld (lget i.blk 0 0) 1 2) (mstoList m i.blk) [0, 0, 0, 0] s
  let code := match tr with | some e => mxCode e.cause | none => 0
  let r := runOf m i (mxStatus 3 code 0 0 0 false false (lget n 0 0 != 0) 0 false) (mxCount n)
  setRun s t { r with cause := tr }

-- MRED.
def mredRow0 (w : List Word) : Nat := fld (lget w 0 0) 40 8
def mredN (w : List Word) : Nat := fld (lget w 0 0) 48 8 + 1
def mredS (w : List Word) : Nat := fld (lget w 0 0) 32 6 + 1
def mredRank (w : List Word) : Nat := fld (lget w 0 0) 24 6
def mredTag (w : List Word) : Nat := fld (lget w 0 0) 16 4
/-- The cells of the rows that an MRED names, row by row. -/
def mredCells (m : Mx) (w : List Word) : List A64 :=
  (List.range (mredN w * 64)).map fun k => bankGet (bankOf m (mxBank w)) (64 * mredRow0 w + k)
/-- R311: a cell of the next rank enters. -/
def mredIn (a c : A64) : A64 := if c.1 = a64Pois then (a64Pois, 0) else a64Arrive a c.1 c.2
/-- The waiting MRED of a tile ends. -/
def mredEnd (s : State) (t : Tile) (c : Option Cause) : State :=
  s.modTile t fun x => match x.mx.run with
    | some r =>
      let r := match c with
        | some e => { r with waiting := false, status := mxStatus 2 (mxCode e) 0 0 0 false false false 0 false, cause := some { cause := e } }
        | none => { r with waiting := false }
      { x with mx := { x.mx with run := some r } }
    | none => x
/-- Table 14.10: the root that an MRED of a tile names. -/
def mredRoot (s : State) (t : Tile) (w : List Word) : Tile := (s.tile t).at (fld (lget w 1 0) 8 7) (fld (lget w 1 0) 0 6)
/-- R311, R141: a member is answered and is no longer at its root: its participant's credit returns. -/
def mredEndOf (s : State) (t u no : Nat) (ok : Bool) : State :=
  (s.send t u 6 (.mredRe no (if ok then .consumed else .refused))).send t u 6 (.credit (mredKey t))
def mredFree (s : State) (t : Tile) (ok : Bool) (l : List MredArr) : State := l.foldl (fun s a => mredEndOf s t a.tile a.no ok) s
/-- The set that a root's own waiting MRED is to close: its tag and number. -/
def mredSet (s : State) (t : Tile) : Option (MxRun × Nat × Nat) :=
  let m := (s.tile t).mx
  match m.run with
  | some r =>
    if r.waiting && r.ins.kind == 2 && mredRoot s t r.ins.blk == t then some (r, mredTag r.ins.blk, aget m.mredOwn (mredTag r.ins.blk) 0 + 1)
    else none
  | none => none
def setArr (s : State) (t : Tile) (f : List MredArr → List MredArr) : State :=
  s.modTile t fun x => { x with mx := { x.mx with arrivals := f x.mx.arrivals } }
/-- R311, R141: the root's own MRED executes with S and its rank: each member that has asked is granted the buffer of its rank, or is refused
where its rank is S or more or the buffer of another (DESIGN CHOICE, log 49). -/
def mredGrant (t : Tile) (tag no k own : Nat) (s : State) (a : MredArr) : State :=
  if a.tag ≠ tag ∨ a.set ≠ no ∨ a.st ≠ 0 then s
  else
    let put (n : Nat) (s : State) : State := setArr s t fun l => l.map fun b => if b.tile = a.tile ∧ b.no = a.no then { b with st := n } else b
    let taken := (s.tile t).mx.arrivals.any fun b => b.tag == tag && b.set == no && (b.st == 1 || b.st == 2) && b.rank == a.rank
    if a.rank < k ∧ a.rank ≠ own ∧ taken = false then (put 1 s).send t a.tile 6 (.mredRe a.no .granted)
    else mredEndOf (put 3 s) t a.tile a.no false
/-- R311: the root closes its set once it holds the MREDs of S - 1 others, those it has refused among them: agreement, result, replies. -/
def mredClose (s : State) (t : Tile) : State :=
  match mredSet s t with
  | some (r, tag, no) =>
    let w := r.ins.blk
    let s := (s.tile t).mx.arrivals.foldl (mredGrant t tag no (mredS w) (mredRank w)) s
    let m := (s.tile t).mx
    let here := m.arrivals.filter fun a => a.tag == tag && a.set == no && decide (2 ≤ a.st)
    if here.length < mredS w - 1 then s
    else
      let mem := here.filter fun a => a.st == 2
      let ranks := mredRank w :: mem.map (·.rank)
      let ok := (here.all fun a => a.st == 2 && a.s == mredS w && a.row0 == mredRow0 w && a.nr == mredN w) &&
        (List.range (mredS w)).all fun k => ranks.contains k
      let s := s.modTile t fun x =>
        { x with mx := { x.mx with mredOwn := aput x.mx.mredOwn tag no, arrivals := x.mx.arrivals.filter fun a => !(a.tag == tag && a.set == no) } }
      let s := mredFree s t ok mem
      if !ok then mredEnd s t (some .mismatch)
      else
        let mine := mredCells m w
        let at' (k j : Nat) : A64 :=
          if k = mredRank w then lget mine j (0, 0)
          else match mem.find? fun a => a.rank == k with | some a => lget a.cells j (0, 0) | none => (0, 0)
        let cell (j : Nat) : A64 := (List.range (mredS w - 1)).foldl (fun c k => mredIn c (at' (k + 1) j)) (at' 0 j)
        let res := (List.range mine.length).map cell
        let b := res.zipIdx.foldl (fun b e => bankSet b (64 * mredRow0 w + e.2) e.1) (bankOf m (mxBank w))
        let pois := res.any fun c => c.1 == a64Pois
        let r := withBank { r with waiting := false, status := mxStatus 2 0 0 0 0 false false pois 0 false } (mxBank w) b
        s.modTile t fun x => { x with mx := { x.mx with run := some r } }
  | none => s
/-- R311: what an MRED sends to its root. -/
def mredBody (t : Tile) (i : MxIns) (cells : Option (List A64)) : Body :=
  .mred t i.no (mredTag i.blk) (mredRank i.blk) (mredS i.blk) (mredRow0 i.blk) (mredN i.blk) cells
/-- R311, R141: an MRED that has not yet asked its root asks it against the credit of its place there. -/
def mredAsk (s : State) (t : Tile) : State :=
  match (s.tile t).mx.run with
  | some r =>
    let root := mredRoot s t r.ins.blk
    if r.waiting && r.ins.kind == 2 && !r.asked && root != t && hasCredit s t (mredKey root) then
      (useCredit (s.modTile t fun x => { x with mx := { x.mx with run := some { r with asked := true } } }) t (mredKey root)).send t root 6 (mredBody t r.ins none)
    else s
  | none => s
/-- R311: an MRED executes: it asks its root for the buffer of its rank, or as the root waits for its set. -/
def mredRun (s : State) (t : Tile) (i : MxIns) : State :=
  let r := { runOf (s.tile t).mx i (mxStatus 2 0 0 0 0 false false false 0 false) 0 with waiting := true }
  if mredRoot s t i.blk = t then mredClose (setRun s t r) t else mredAsk (setRun s t r) t
/-- R311: a contribution reaches its root, or the root's answer a participant. -/
def execMredContribution (n : Nat) (s : State) : Host.Outcome State Fault Refusal :=
  withPkt s n fun s p => match p.body with
    | .mred u no tag rank k row0 nr none =>
      let m := (s.tile p.dst).mx
      let set := aget m.mredSeen (16 * u + tag) 0 + 1
      let s := s.modTile p.dst fun x => { x with mx := { x.mx with mredSeen := aput x.mx.mredSeen (16 * u + tag) set } }
      some (if set ≤ aget m.mredOwn tag 0 then mredEndOf s p.dst u no false
      else
        let a : MredArr := { tile := u, no := no, tag := tag, set := set, rank := rank, s := k, row0 := row0, nr := nr, st := 0, cells := [] }
        mredClose (setArr s p.dst (· ++ [a])) p.dst)
    | .mred u no _ _ _ _ _ (some cells) =>
      some (if (s.tile p.dst).mx.arrivals.any fun a => a.tile == u && a.no == no && a.st == 1 then
        mredClose (setArr s p.dst fun l => l.map fun a => if a.tile = u ∧ a.no = no then { a with st := 2, cells := cells } else a) p.dst
      else mredEndOf s p.dst u no false)
    | .mredRe no ans =>
      some (match (s.tile p.dst).mx.run with
        | some r =>
          if r.ins.no = no ∧ r.waiting = true ∧ r.ins.kind = 2 then
            (match ans with
            | .granted => s.send p.dst p.src 6 (mredBody p.dst r.ins (some (mredCells (s.tile p.dst).mx r.ins.blk)))
            | .consumed => mredEnd s p.dst none
            | .refused => mredEnd s p.dst (some .mismatch))
          else s
        | none => s)
    | _ => none

-- Start and completion.
/-- R314: whether a write of the issuing thread that the instruction waits for is still due. -/
def mxDue (s : State) (i : MxIns) : Bool := i.deps.any (reqDue s)
/-- R294, R314: the instruction at the head of an idle engine's queue that may start. -/
def mxHead (s : State) (t : Tile) : Option MxIns :=
  match (s.tile t).mx.run, (s.tile t).mx.queue with
  | none, i :: _ => if mxDue s i then none else some i
  | _, _ => none
/-- R303: the members of a GSYNC, each with its own instruction, when all stand at the same place. -/
def gsyncHeads (s : State) (gang : List Tile) : Option (List (Tile × MxIns)) :=
  gang.foldr (fun t l => match mxHead s t, l with
    | some i, some r => if i.kind ≤ 1 ∧ mmGsync i.blk = true ∧ i.gang = gang then some ((t, i) :: r) else none
    | _, _ => none) (some [])
def ladStart (s : State) (e : Tile × MxIns) : Lad :=
  let m := (s.tile e.1).mx
  { t := e.1, ins := e.2, tier := mmStier e.2.blk, att := 0, dataerr := false, plane := if e.2.kind = 0 then m.active else none
    res := ⟨[], [], [], []⟩, read := [], cause := if e.2.kind = 0 ∧ m.active = none then some { cause := .noPlane } else none }
/-- R300, R303, R310: MMULs and MMULGs run. -/
def mmRun (s : State) (upset : List Nat) (l : List (Tile × MxIns)) : State :=
  let ls := l.map (ladStart s)
  let same := l.all fun e => l.all fun f => mmStier e.2.blk == mmStier f.2.blk && mmCeil e.2.blk == mmCeil f.2.blk
  let (s, ls) := if same then ladGo upset 6 s ls else (s, ls.map fun x => { x with cause := some { cause := .mismatch } })
  ls.foldl ladFinish s
/-- R308: MLDS. -/
def mldsRun (s : State) (t : Tile) (i : MxIns) : State :=
  let m := (s.tile t).mx
  let tier := viewTier i.a
  let r := runOf m i 0 0
  match planeUnits s t (viewWnd i.a) (viewUnit i.a) i.b.toNat i.n tier with
  | .ok l => setRun (meetUnits s t tier ((List.range i.n).map fun j => (viewWnd i.a, viewUnit i.a + j * i.b.toNat))) t
      { r with shadow := some ⟨viewWnd i.a, viewUnit i.a, i.b.toNat, i.n, tier, l, some (lget i.gens (viewWnd i.a) (0, 0)), false⟩ }
  | .error c => setRun s t { r with shadow := none, cause := some c }
/-- R294, R314; an MRED that waits for its place at its root asks again. -/
def execMatrixStart (t : Nat) (upset : List Nat) (s : State) : Host.Outcome State Fault Refusal :=
  match mxHead s t with
  | none => .next (mredAsk s t)
  | some i =>
    let m := (s.tile t).mx
    .next (match i.kind with
      | 0 | 1 => if mmGsync i.blk then (match gsyncHeads s i.gang with
            | some l => mmRun s upset l
            | none => s)
          else mmRun s upset [(t, i)]
      | 2 => mredRun s t i
      | 3 => mstoRun s t i
      | 4 => mldsRun s t i
      | 5 => setRun s t { runOf m i 0 0 with active := m.shadow, shadow := m.active }
      | _ => setRun s t (withBank (runOf m i 0 0) i.n []))

/-- R304: the packet of an instruction. -/
def mxRef (t : Tile) (r : MxRun) (code : Nat) : JobRef := ⟨t, r.ins.c, r.ins.tid, r.ins.pc, r.ins.iw, w64 code, false⟩
def mxPacket (s : State) (t : Tile) (r : MxRun) (tr : Trap) (code : Nat) : State := jobTold s (mxRef t r code) tr
/-- R304: a word of the completion written at its home; a failure leaves only its packet. -/
def mxPut (s : State) (t : Tile) (r : MxRun) (a v : Word) : State :=
  match writeHome s (tileOf s t a) (fld a 0 44) (wBytes v) aWrite with
  | .ok s => s
  | .error e => mxPacket (learnPoison s e) t r (e.told a) (fld r.status 48 8)
/-- R315: a window's generation and register writes. -/
def winMark (x : TileSt) (n : Nat) : BitVec 32 × Nat := ((x.win n).gen, (x.win n).writes)
/-- R315: whether a plane's window was written while its MLDS was outstanding. -/
def planeBroken (x : TileSt) (p : Plane) : Bool := p.broken || p.due.any fun g => g != winMark x p.wnd
/-- R315: a later MSTAT.w returns: no MLDS is outstanding any more. -/
def endLds (x : TileSt) (p : Plane) : Plane := { p with due := none, broken := planeBroken x p }
/-- R315: the rows that an MMUL or MMULG targets, where a window it read was written meanwhile, or the window of its plane while
that plane's MLDS was outstanding: every cell a free value. -/
def mxBroken (x : TileSt) (r : MxRun) : Bool :=
  decide (r.ins.kind ≤ 1) && (r.wins.any (fun n => lget r.ins.gens n (0, 0) != winMark x n) ||
    (r.ins.kind == 0 && r.active.any (planeBroken x)))
def freeCell (k : Nat) : A64 := let w := Config.freeWord k; (sintN 52 (fld w 12 52), sintN 12 (fld w 0 12))
def targetRows (i : MxIns) : List Nat :=
  if i.kind = 1 then (mxGroups i.blk).flatMap fun g => (List.range g.rows).map (g.brow + ·)
  else (List.range (mmRows i.blk)).map (mmRow0 i.blk + ·)
def mxFree (s : State) (r : MxRun) : State × MxRun :=
  let n := s.fresh
  let cells := (targetRows r.ins).flatMap fun row => (List.range 64).map (64 * row + ·)
  let b0 := if mxBank r.ins.blk = 0 then r.bank0 else r.bank1
  let b := cells.foldl (fun b k => bankSet b k (freeCell (n + 2 + k))) b0
  let flags : Word := w64 (0xFF9F000000)
  ({ s with fresh := n + 2 + 8192 },
    { withBank r (mxBank r.ins.blk) b with count := Config.freeWord n, status := (r.status &&& ~~~flags) ||| (Config.freeWord (n + 1) &&& flags) })
/-- R304: completion: count word, status word, the phase counter's increment on VC4 (R128, 05 R84), in this order; then the entry is free
(R294). -/
def execMatrixComplete (t : Nat) (s : State) : Host.Outcome State Fault Refusal :=
  match (s.tile t).mx.run with
  | none => .next s
  | some r =>
    if r.waiting then .next s
    else
      let (s, r) := if mxBroken (s.tile t) r then mxFree s r else (s, r)
      let s := s.modTile t fun x =>
        { x with mx := { x.mx with run := none, active := r.active, shadow := r.shadow, bank0 := r.bank0, bank1 := r.bank1 } }
      let s := if mxCwa r.ins = 0 then s else mxPut s t r (mxCwa r.ins) r.count
      let s := match mxPho r.ins with
        | some p => (mxPut s t r (p + 8) r.status).send t (tileOf s t p) 4 (.incrFor (mxRef t r (fld r.status 48 8)) p 1)
        | none => s
      let s := match r.cause with
        | some tr => mxPacket s t r tr (mxCode tr.cause)
        | none => s
      .next (if r.mdata then mxPacket s t r { cause := .mdata } 0 else s)

-- Issue.
/-- The members of the executing thread's gang, the leader first (R303). -/
def myGang (s : State) : List Tile :=
  match s.me.gang with
  | .leading l => s.cur.t :: l
  | .following lt lc _ => lt :: (match (s.ctx lt lc).gang with | .leading l => l | _ => [])
  | _ => []
/-- R307: a phase object, a count word address and a view address. -/
def phoOk (s : State) (a : Word) : Except Stop Unit := guardE (vaultAddr s s.cur.t 16 a) .address a
def cwaOk (s : State) (a : Word) : Except Stop Unit := guardE (a == 0 || vaultAddr s s.cur.t 8 a) .address a
def viewOk (s : State) (a : Word) : Except Stop Unit :=
  let x := s.tile s.cur.t
  if fld a 57 7 ≠ 0 ∨ fld a 44 7 ≠ x.lx ∨ fld a 51 6 ≠ x.ly ∨ fld a 40 4 ≠ 1 then .error (.trap { cause := .address, addr := a })
  else if 6 ≤ viewTier a then .error (.trap { cause := .window, addr := a })
  else guardE (decide (fld a 0 33 % tierStride (viewTier a) = 0)) .address a
/-- Checks in order. -/
def allOk : List (Except Stop Unit) → Except Stop Unit
  | [] => .ok ()
  | .error e :: _ => .error e
  | .ok _ :: r => allOk r
/-- R294, R314: the instruction enters the queue, or waits for room. -/
def acceptMx (s : State) (kind : Nat) (blk : List Word) (a b : Word) (n : Nat) : Except Stop State :=
  let t := s.cur.t
  let m := (s.tile t).mx
  if 8 ≤ m.queue.length + b2n m.run.isSome then .error (.wait .retry)
  else
    let mine (a : Word) (_ : Nat) : Bool := !bit a 57 && tileOf s t a == t
    let s := if kind ≤ 4 then flushMine s mine else s
    let x := s.me
    let i : MxIns :=
      { kind := kind, blk := blk, a := a, b := b, n := n, c := s.cur.c, tid := x.th.tid, pc := x.th.pc, iw := s.cur.iw, no := s.reqNo
        deps := if kind ≤ 4 then dueOuts x mine else [], gang := if kind ≤ 1 ∧ mmGsync blk = true then myGang s else []
        gens := (List.range 16).map (winMark (s.tile t)) }
    .ok (s.nextReq.modTile t fun x => { x with mx := { x.mx with queue := x.mx.queue ++ [i] } }).retire
/-- The block of an instruction (R307). -/
def mxBlock (s : State) (pool : Bool) (ea : Word) (n : Nat) : Except Stop (List Word) :=
  match blockWords s s.cur.t (priv s) ea n pool .mparam with
  | .ok w => .ok w
  | .error tr => .error (.trap tr)
/-- R307, R309: the checks of an MMUL block that an MMULG shares. -/
def mmCommon (s : State) (w : List Word) (ea : Word) : Except Stop Unit :=
  let h := lget w 0 0
  let st := mmStier w
  allOk [guardE (fld h 56 8 == 0 && fld h 38 2 == 0 && !bit h 1 && fld (lget w 3 0) 26 38 == 0) .mparam ea, phoOk s (lget w 4 0),
    cwaOk s (lget w 5 0), viewOk s (lget w 2 0),
    guardE (mmKb w != 0 && decide (st ≤ 5) && decide (st ≤ mmCeil w) && decide (mmCeil w ≤ 5)) .mparam ea,
    guardE (!mmGsync w || !(myGang s).isEmpty) .mparam ea]
def mmulOp (s : State) (pool : Bool) (ea : Word) : Except Stop State :=
  match mxBlock s pool ea 6 with
  | .error e => .error e
  | .ok w =>
    match allOk [mmCommon s w ea, guardE (decide (mmRow0 w + mmRows w ≤ 128)) .mparam ea] with
    | .error e => .error e
    | .ok _ => acceptMx s 0 w 0 0 0
/-- Table 14.9: the checks of a group entry. -/
def groupOk (s : State) (w : List Word) (ea : Word) (g : Nat) : Except Stop Unit :=
  let (a, e) := groupEnt w g
  allOk [guardE (fld e 58 6 == 0 && fld e 23 9 == 0 && fld e 8 8 == 0) .mparam ea, viewOk s a,
    guardE (decide (1 ≤ fld e 16 7) && decide (fld e 16 7 ≤ 64) && decide (fld e 0 8 ≤ 128)) .mparam ea]
def mmulgOp (s : State) (pool : Bool) (ea : Word) : Except Stop State :=
  match mxBlock s pool ea 6 with
  | .error e => .error e
  | .ok w0 =>
    match mxBlock s pool ea (6 + 2 * groupCount w0) with
    | .error e => .error e
    | .ok w =>
      let gs := (List.range (groupCount w)).map (groupOk s w ea)
      let rows := ((List.range (groupCount w)).map (groupRows w)).sum
      match allOk ([guardE (fld (lget w 0 0) 52 4 == 0) .mparam ea, mmCommon s w ea] ++ gs ++ [guardE (decide (mmRow0 w + rows ≤ 128)) .mgroup ea]) with
      | .error e => .error e
      | .ok _ => acceptMx s 1 w 0 0 0
/-- R311: the checks of an MRED. -/
def mredOp (s : State) (pool : Bool) (ea : Word) : Except Stop State :=
  match mxBlock s pool ea 3 with
  | .error e => .error e
  | .ok w =>
    let h := lget w 0 0
    let r := lget w 1 0
    let x := s.tile s.cur.t
    match allOk [guardE (fld h 56 8 == 0 && fld h 38 2 == 0 && fld h 30 2 == 0 && fld h 20 4 == 0 && fld h 1 15 == 0 && fld r 15 49 == 0 &&
          fld r 6 2 == 0) .mparam ea, phoOk s (lget w 2 0), guardE (decide (mredRow0 w + mredN w ≤ 128) && decide (mredRank w < mredS w)) .mparam ea,
        guardE (decide (fld r 8 7 < x.pw) && decide (fld r 0 6 < x.phh)) .partition (gaddrOf (fld r 8 7) (fld r 0 6) 0)] with
    | .error e => .error e
    | .ok _ => acceptMx s 2 w 0 0 0
/-- R312: the checks of an MSTO. -/
def mstoOp (s : State) (pool : Bool) (ea : Word) : Except Stop State :=
  match mxBlock s pool ea 5 with
  | .error e => .error e
  | .ok w =>
    let h := lget w 0 0
    let dst := lget w 1 0
    let pitch := fld (lget w 2 0) 0 32
    let es := if fld h 1 2 = 0 then 8 else 4
    let n := fld h 48 8 * pitch + fld h 24 6 * es + es
    let x := s.tile s.cur.t
    let reg := fld dst 40 4
    let room := if reg = 2 then 0x40000 else 2 ^ 40
    match allOk [guardE (fld h 56 8 == 0 && fld h 38 2 == 0 && fld h 30 2 == 0 && fld h 3 21 == 0 && decide (fld h 1 2 ≤ 1) &&
          fld (lget w 2 0) 32 32 == 0) .mparam ea, phoOk s (lget w 3 0), cwaOk s (lget w 4 0),
        guardE (decide (fld h 32 6 + fld h 24 6 ≤ 63) && decide (fld h 40 8 + fld h 48 8 ≤ 127)) .mparam ea,
        guardE (fld dst 57 7 == 0 && fld dst 44 7 == x.lx && fld dst 51 6 == x.ly && (reg == 0 || reg == 2) &&
          decide (fld dst 0 40 + n ≤ room) && dst.toNat % es == 0 && pitch % es == 0) .address dst] with
    | .error e => .error e
    | .ok _ => acceptMx s 3 w 0 0 0

/-- R308. -/
def execMlds (a : G) (b : G) (nc : BitVec 32) (s : State) : Host.Outcome State Fault Refusal :=
  let va := rdG s.th a
  let st := rdG s.th b
  finish s (match allOk [viewOk s va, guardE (decide (st.toNat < 2 ^ 26)) .mparam va] with
    | .error e => .error e
    | .ok _ => acceptMx s 4 [] va st nc.toNat)
def execMswp (s : State) : Host.Outcome State Fault Refusal := finish s (acceptMx s 5 [] 0 0 0)
def execMzero (b : Bool) (s : State) : Host.Outcome State Fault Refusal := finish s (acceptMx s 6 [] 0 0 (b2n b))
def execMmul (pool : Bool) (m : MemB) (s : State) : Host.Outcome State Fault Refusal := finish s (mmulOp s pool (eaB s.th m))
def execMmulg (pool : Bool) (m : MemB) (s : State) : Host.Outcome State Fault Refusal := finish s (mmulgOp s pool (eaB s.th m))
def execMred (pool : Bool) (m : MemB) (s : State) : Host.Outcome State Fault Refusal := finish s (mredOp s pool (eaB s.th m))
def execMsto (pool : Bool) (m : MemB) (s : State) : Host.Outcome State Fault Refusal := finish s (mstoOp s pool (eaB s.th m))
/-- R313. -/
def execMstat (w : Bool) (d : G) (which : BitVec 32) (s : State) : Host.Outcome State Fault Refusal :=
  let m := (s.tile s.cur.t).mx
  let v := match which.toNat with | 0 => mxStateWord m | 1 => provWord m.active | _ => provWord m.shadow
  finish s (if w && (m.run.isSome || !m.queue.isEmpty) then .error (.wait .retry)
    else
      let s := if w then s.modTile s.cur.t fun x =>
          { x with mx := { x.mx with active := x.mx.active.map (endLds x), shadow := x.mx.shadow.map (endLds x) } }
        else s
      .ok (s.modTh fun th => wrG th d v).retire)

end Sys2Proof.Machine
end

