-- ==== Sys2Proof/Machine/JobEvents.lean ====
section
/-! DEFINITION. Sys2Proof/Machine/JobEvents.lean: the end of jobs: completion (07 R142), collectives' results (R139, R140), aborts
(R139, 14 R311), an NCMD's reply (13 R287), and requests served at an edge channel (05 R98). -/

namespace Sys2Proof.Machine

/-- R56, R98: the pieces of an edge request, read in order. -/
def edgeReads (s : State) (p : Part) : List (Word × Nat) → Except Trap (List Byte)
  | [] => .ok []
  | (a, n) :: r => match edgeRead s p (fld a 0 57) n with
    | .error e => .error { e with addr := a }
    | .ok l => match edgeReads s p r with
      | .error e => .error e
      | .ok m => .ok (l ++ m)
/-- R121: the pieces written, none if one fails. -/
def edgeWrites (s : State) (p : Part) : List (Word × Nat) → List Byte → Except Trap State
  | [], _ => .ok s
  | (a, n) :: r, l => match edgeWrite s p (fld a 0 57) (l.take n) with
    | .error e => .error { e with addr := a }
    | .ok s => edgeWrites s p r (l.drop n)
/-- R98: a request performed at its channel, and answered. -/
def edgeAt (s : State) (p : Packet) (q : Part) (r : Req) (ps : List (Word × Nat)) (data : Option (List Byte)) (cnt : Option (Word × Nat)) : State :=
  let ch := chanOf p.dst
  match data with
  | none => match edgeReads s q ps with
    | .ok l => s.ioBack q.pid ch r.t 4 (.data r l)
    | .error tr => (learnPoison s tr).ioBack q.pid ch r.t 4 (.bad r (tr.told tr.addr) false)
  | some l => match edgeWrites s q ps l with
    | .ok s =>
      let s := p.poisonPieces (fun s a n => poisonEdge s q (fld a 0 57) n) s 0 ps
      let s := s.ioBack q.pid ch r.t 4 (.ack r)
      (match cnt with
      | some (a, n) => s.ioBack q.pid ch (tileOf s r.t a) 4 (.incr (some r) a n true)
      | none => s)
    | .error tr => (learnPoison s tr).ioBack q.pid ch r.t 4 (.bad r (tr.told tr.addr) true)
def execEdgeRequest (n : Nat) (s : State) : Host.Outcome State Fault Refusal :=
  withPkt s n fun s p => match p.body with
    | .edge r ps data cnt => match s.part (s.tile r.t).pid with
      | some q => some (edgeAt s p q r ps data cnt)
      | none => none
    | _ => none

/-- R287: the operator's reply writes D or freezes the context, and frees the window entry. -/
def execNcmdReply (n : Nat) (s : State) : Host.Outcome State Fault Refusal :=
  withPkt s n fun s p => match p.body with
    | .ncmdRe r v tr =>
      let s := s.modTile p.dst fun x => { x with jobs := x.jobs.filter fun j => !(j.kind == 4 && j.req == r.id) }
      some (replyTo s r (match tr with | some e => .error e | none => .ok (wBytes v)))
    | _ => none

-- Completion.
/-- Table 7.6. -/
def jobStatus (j : Job) : Word := w64 (2 ^ 63 + j.cause * 2 ^ 48 + j.kind * 2 ^ 44)
/-- What a packet about a job's status word or counter says. -/
def jobRef (t : Nat) (j : Job) : JobRef := ⟨t, j.c, j.tid, if j.q.isSome then j.card else j.pc, j.iw, w64 j.cause, j.q.isSome⟩
/-- R143: a failing access to the status word is only reported. -/
def jobReport (s : State) (t : Nat) (j : Job) (tr : Trap) (a : Word) : State := jobTold (learnPoison s tr) (jobRef t j) (tr.told a)
/-- R142, steps 1 and 2. -/
def writeStatus (s : State) (t : Nat) (j : Job) : State :=
  if j.sta = 0 then s
  else match writeHome s (tileOf s t j.sta) (fld j.sta 0 44) (wBytes (jobStatus j)) aWrite with
    | .ok s => s
    | .error tr => jobReport s t j tr j.sta
/-- R142, R84: the increment leaves for the counter's home on VC4. -/
def countJob (s : State) (t : Nat) (j : Job) : State :=
  if j.cnt = 0 ∨ j.inc = 0 then s else s.send t (tileOf s t j.cnt) 4 (.incrFor (jobRef t j) j.cnt j.inc)
/-- R142: a finished job completes, once the pane slots that its engine holds may end (03 R45); no is its number. -/
def completeJob (s : State) (t no : Nat) : State :=
  match s.job t no with
  | some j =>
    match endSlots s t j.slots with
    | some s1 =>
      if j.finished && j.kind != 4 then
        let s := countJob (writeStatus s1 t j) t j
        let s := s.modTile t fun x => { x with jobs := x.jobs.filter fun k => k.order != no }
        match j.q with
        | some (q, pkt, node) => finishPart s q pkt node
        | none => s
      else s
    | none => s
  | none => s
def execJobCompletion (t : Nat) (j : Nat) (s : State) : Host.Outcome State Fault Refusal := .next (completeJob s t j)

-- Collectives.
/-- R139: whether matched contributions agree. -/
def collAgree (l : List CollSt) : Bool :=
  match l with
  | c :: r => r.all (fun d => d.op == c.op && d.red == c.red && d.ty == c.ty && d.count == c.count && d.root == c.root) &&
      !(c.op == 3 && decide (c.gsize ≤ c.root))
  | [] => true
/-- Elements of a member's destination. -/
def collDstN (c : CollSt) : Nat := if c.op = 2 then c.count * c.gsize else c.count
/-- What ends a member's collective with free values in its destination: none where the group's table is broken (R138). -/
def collFree (s : State) (t : Nat) (j : Job) (c : CollSt) (why : Option Cause) : State :=
  let n := collDstN c
  let free := (List.range n).map fun i => Config.freeWord (s.fresh + i)
  let (s, _) := collWrite t j (lget j.prm 3 0) (collEsz c.ty) free { s with fresh := s.fresh + n }
  match why with
  | some e => jobFail s t j { cause := e }
  | none => s.modJob t j.order fun k => { k with finished := true, phase := .idle }
/-- R139: one member of a matched collective receives its result; on a disagreement its destination holds free values, and in a group
whose table breaks R138. -/
def collDeliver (s : State) (t : Nat) (j : Job) (c : CollSt) (l : List CollSt) : State :=
  if !collAgree l then collFree s t j c (some .mismatch)
  else if (collMembers l c.gsize).length ≠ c.gsize ∨ l.length ≠ c.gsize then collFree s t j c none
  else if l.any (·.bad) then jobFail s t j (parityTrap 0)
  else match collWrite t j (lget j.prm 3 0) (collEsz c.ty) (collOutput (collMembers l c.gsize) c) s with
    | (s, none) => s.modJob t j.order fun k => { k with finished := true, phase := .idle }
    | (s, some tr) => jobFail s t j tr
/-- The job of a tile that waits for a collective's result. -/
def collJob (x : TileSt) (g no : Nat) : Option Job :=
  x.jobs.find? fun j => j.kind == 2 && collGrp j == g && j.collNo == some no && j.started && !j.finished
/-- R139: the tile's own member takes its result. -/
def collOwn (s : State) (t : Nat) (r : CollIn) : State :=
  match collJob (s.tile t) r.grp r.no, r.ents.find? fun c => c.tile == t with
  | some j, some c => collDeliver s t j c r.ents
  | _, _ => s
/-- R141: a result goes DOWN into the slots of the next routers, against the credits of all of them, and to the tile's own member. -/
def collDown (t g : Nat) (s : State) (no : Nat) : State :=
  match collSlot (s.tile t) g 9 no, routerEntry (s.tile t) g, s.part (s.tile t).pid with
  | some r, some e, some p =>
    let ports := (List.range 8).filter fun k => bit e (16 + k) && (portTile s p t k).isSome
    if ports.all fun k => hasCredit s t (collKey g k no) then
      let s := freeColl (collOwn s t r) t r
      ports.foldl (fun s k => match portTile s p t k with
        | some u => (useCredit s t (collKey g k no)).send t u 6 (.coll g no (collKey g k no) false r.ents)
        | none => s) s
    else s
  | _, _, _ => s
def collResult (s : State) (t g : Nat) : State :=
  let s := collTake s t g false
  (collNos (s.tile t) g).foldl (collDown t g) s
/-- R139, R140: the result of a collective of group j reaches tile t: its member's destination and the routers below. -/
def execCollResult (t : Nat) (j : Nat) (s : State) : Host.Outcome State Fault Refusal := .next (collResult s t j)
/-- R386: the root of a group's tree that is joined over a link. -/
def joinedRoot (s : State) (p : Part) (link g : Nat) : Option Tile :=
  if afind p.joins g = some link then p.tiles.find? fun t => match routerEntry (s.tile t) g with | some e => fld e 24 4 == 15 | none => false
  else none
/-- R386: what the joined peer's root has sent arrives at the root of the group's tree; a copy of what is there already counts once. -/
def peerColl (s : State) (t g no : Nat) (ents : List CollSt) : State :=
  if (collSlot (s.tile t) g 10 no).isSome then s else addColl s t ⟨g, no, 10, ents, none⟩

/-- R139: a waiting COLL job ends with ABORT; what its collective holds of slots is freed (log 49). -/
def abortColl (s : State) (t : Nat) (j : Job) : State :=
  let s := match j.collNo, s.part (s.tile t).pid with
    | some no, some p => collWithdraw s p (collGrp j) no
    | _, _ => s
  jobFail s t j { cause := .abort }
/-- R311: a waiting MRED ends with ABORT. A root's set ends with it: its arrivals' buffers are free, and the participants wait for their
own ABORT (log 49). -/
def mredAbort (s : State) (t : Nat) (r : MxRun) : State :=
  let s := mredEnd s t (some .abort)
  if mredRoot s t r.ins.blk = t then
    let tag := mredTag r.ins.blk
    let no := aget (s.tile t).mx.mredOwn tag 0 + 1
    let mine (a : MredArr) : Bool := a.tag == tag && a.set == no
    let s := ((s.tile t).mx.arrivals.filter fun a => mine a && a.st != 3).foldl (fun s a => s.send t a.tile 6 (.credit (mredKey t))) s
    s.modTile t fun x => { x with mx := { x.mx with mredOwn := aput x.mx.mredOwn tag no, arrivals := x.mx.arrivals.filter fun a => !mine a } }
  else s
/-- R139, R302, R311: j = 0 ends the tile's waiting MRED, or the MMUL or MMULG that waits for its gang, j = k + 1 its waiting COLL job of number k, with ABORT. -/
def abortAt (s : State) (t : Nat) : Nat → State
  | 0 => match (s.tile t).mx.run with
    | some r => if r.waiting ∧ r.ins.kind = 2 then mredAbort s t r else s
    | none => (match mxHead s t with
      | some i => if i.kind ≤ 1 ∧ mmGsync i.blk = true ∧ (gsyncHeads s i.gang).isNone = true then
          setRun s t (mxFail (s.tile t).mx i { cause := .abort } (mmStier i.blk) 0 false) else s
      | none => s)
  | k + 1 => match s.job t k with
    | some j => if j.kind = 2 ∧ j.finished = false then abortColl (s.modJob t k fun i => { i with started := true }) t j else s
    | none => s
def execAbortJob (t : Nat) (j : Nat) (s : State) : Host.Outcome State Fault Refusal := .next (abortAt s t j)

end Sys2Proof.Machine
end

