-- ==== Sys2Proof/Machine/Logic.lean ====
section
/-! DEFINITION. Sys2Proof/Machine/Logic.lean: logic and shifts, majors 0x02 and 0x03 (10 R203), and the bit instructions,
major 0x04 (10 R204, R205). -/

namespace Sys2Proof.Machine

/-- A bitwise operation on the low n bits, extended (R197, R203). -/
def bitOp (ty : Ty) (f : Word → Word → Word) (a b : Word) : Word := extTy ty (f a b).toNat
/-- The low n bits of a source. -/
def lowN (ty : Ty) (a : Word) : Nat := a.toNat % 2 ^ tyBits ty
/-- R203: a shift of the low n bits by the whole of B modulo n. -/
def shiftOp (ty : Ty) (f : Nat → Nat → Nat → Nat) (a b : Word) : Word :=
  extTy ty (f (tyBits ty) (lowN ty a) (b.toNat % tyBits ty))
def rolN (n a k : Nat) : Nat := a * 2 ^ k % 2 ^ n + a / 2 ^ (n - k)
def sraN (n a k : Nat) : Nat := modPow n (sintN n a / 2 ^ k)

def execAnd (ty : Ty) (d a : GP) (b : Src) (s : State) := op2 s d a b fun _ => bitOp ty (· &&& ·)
def execOr (ty : Ty) (d a : GP) (b : Src) (s : State) := op2 s d a b fun _ => bitOp ty (· ||| ·)
def execXor (ty : Ty) (d a : GP) (b : Src) (s : State) := op2 s d a b fun _ => bitOp ty (· ^^^ ·)
def execAndn (ty : Ty) (d a : GP) (b : Src) (s : State) := op2 s d a b fun _ => bitOp ty fun x y => x &&& ~~~y
def execOrn (ty : Ty) (d a : GP) (b : Src) (s : State) := op2 s d a b fun _ => bitOp ty fun x y => x ||| ~~~y
def execXnor (ty : Ty) (d a : GP) (b : Src) (s : State) := op2 s d a b fun _ => bitOp ty fun x y => ~~~(x ^^^ y)
def execNot (ty : Ty) (d a : GP) (s : State) := op1 s d a fun _ x => extTy ty (~~~x).toNat
def execShl (ty : Ty) (d a : GP) (b : Src) (s : State) := op2 s d a b fun _ => shiftOp ty fun n x k => x * 2 ^ k % 2 ^ n
def execShr (ty : Ty) (d a : GP) (b : Src) (s : State) := op2 s d a b fun _ => shiftOp ty fun _ x k => x / 2 ^ k
def execSra (ty : Ty) (d a : GP) (b : Src) (s : State) := op2 s d a b fun _ => shiftOp ty sraN
def execRol (ty : Ty) (d a : GP) (b : Src) (s : State) := op2 s d a b fun _ => shiftOp ty rolN
def execRor (ty : Ty) (d a : GP) (b : Src) (s : State) := op2 s d a b fun _ => shiftOp ty fun n x k => rolN n x (n - k)

/-- Counts over the low n bits (R204). -/
def clzN : Nat → Nat → Nat
  | 0, _ => 0
  | n + 1, v => if v / 2 ^ n % 2 = 1 then 0 else 1 + clzN n v
def ctzN : Nat → Nat → Nat
  | 0, _ => 0
  | n + 1, v => if v % 2 = 1 then 0 else 1 + ctzN n (v / 2)
def popN : Nat → Nat → Nat
  | 0, _ => 0
  | n + 1, v => v % 2 + popN n (v / 2)
/-- The low n bits in reverse order. -/
def brevN : Nat → Nat → Nat
  | 0, _ => 0
  | n + 1, v => v % 2 * 2 ^ n + brevN n (v / 2)

def execClz (ty : Ty) (d a : GP) (s : State) := op1 s d a fun _ x => w64 (clzN (tyBits ty) (lowN ty x))
def execCtz (ty : Ty) (d a : GP) (s : State) := op1 s d a fun _ x => w64 (ctzN (tyBits ty) (lowN ty x))
def execPopc (ty : Ty) (d a : GP) (s : State) := op1 s d a fun _ x => w64 (popN (tyBits ty) (lowN ty x))
def execBrev (ty : Ty) (d a : GP) (s : State) := op1 s d a fun _ x => extTy ty (brevN (tyBits ty) (lowN ty x))
def execBswap (ty : Ty) (d a : GP) (s : State) :=
  op1 s d a fun _ x => extTy ty (leNat (leBytes (tyBits ty / 8) (lowN ty x)).reverse)

/-- R205: the field of A at a position. -/
def execBext (d a : GP) (pos : BitVec 6) (len : BitVec 7) (s : State) :=
  op1 s d a fun _ x => wInt (sintN len.toNat (fld x pos.toNat len.toNat))
def execBextu (d a : GP) (pos : BitVec 6) (len : BitVec 7) (s : State) :=
  op1 s d a fun _ x => w64 (fld x pos.toNat len.toNat)
/-- R205: other bits of D unchanged. -/
def insField (old v : Word) (pos len : Nat) : Word :=
  let m := w64 ((2 ^ len - 1) * 2 ^ pos)
  (old &&& ~~~m) ||| ((v <<< pos) &&& m)
def execBins (d : G) (a : GP) (pos : BitVec 6) (len : BitVec 7) (s : State) :=
  op1 s (.g d) a fun th x => insField (rdG th d) x pos.toNat len.toNat

end Sys2Proof.Machine
end

