-- ==== Sys2Proof/Machine/Vector.lean ====
section
/-! DEFINITION. Sys2Proof/Machine/Vector.lean: vector arithmetic, major 0x50 (12 R250 to R259). -/

namespace Sys2Proof.Machine

/-- W: the element width of a vector type (Table 12.1). -/
def elW (ty : Ty) : Nat :=
  match ty with
  | .i16x2 | .h16x2 | .b16x2 => 16
  | .i8x4 => 8
  | _ => 32
/-- Whether a vector type is floating. -/
def elFloat (ty : Ty) : Bool := match ty with | .f32 | .h16x2 | .b16x2 => true | _ => false
/-- An integer element read with sint() or uint() (R254). -/
def elNum (ty : Ty) (v : Nat) : Int := if tySigned ty then sintN (elW ty) v else (v : Int)
/-- The least and greatest value of an integer element. -/
def elLo (ty : Ty) : Int := if tySigned ty then -(2 ^ (elW ty - 1)) else 0
def elHi (ty : Ty) : Int := if tySigned ty then 2 ^ (elW ty - 1) - 1 else 2 ^ elW ty - 1
/-- An exact integer wrapped modulo 2^W or clamped to the element's range (R255). -/
def elFit (ty : Ty) (sat : Bool) (x : Int) : Nat := modPow (elW ty) (if sat then min (max x (elLo ty)) (elHi ty) else x)

/-- Element j of a lane, and a lane from its elements (R250). -/
def elAt (w : Nat) (x : BitVec 32) (j : Nat) : Nat := x.toNat / 2 ^ (w * j) % 2 ^ w
def elPack (w : Nat) : List Nat → Nat
  | [] => 0
  | v :: r => v % 2 ^ w + 2 ^ w * elPack w r
/-- An element operation on every element of a lane, with the flags of all. -/
def perEl (ty : Ty) (f : Nat → Nat → Nat → Nat × BitVec 5) (d a b : BitVec 32) : BitVec 32 × BitVec 5 :=
  let w := elW ty
  let r := (List.range (32 / w)).map fun j => f (elAt w d j) (elAt w a j) (elAt w b j)
  (BitVec.ofNat 32 (elPack w (r.map (·.1))), (r.map (·.2)).foldl (· ||| ·) 0)

/-- R251, R253: the destination lanes under a governing mask, and the flags of the active lanes. -/
def putLanesM (th : Thread) (k : K) (z : Bool) (d : V) (f : Nat → BitVec 32 × BitVec 5) : Thread :=
  let m := rdK th k
  let old := rdV th d
  orFst (wrV th d (lanes fun i => if m.getLsbD i then (f i).1 else if z then 0 else lane old i))
    ((active m).foldl (fun fl i => fl ||| (f i).2) 0)
/-- R251, R252: an element operation of operands D, A and B. -/
def vecOp (m : VMod) (ty : Ty) (d : V) (a : V) (b : VSrc) (f : Nat → Nat → Nat → Nat × BitVec 5) (s : State) :
    Host.Outcome State Fault Refusal :=
  let th := s.th
  .next (s.modTh fun _ => putLanesM th m.k m.z d fun i => perEl ty f (lane (rdV th d) i) (lane (rdV th a) i) (vsrcLane th b i)).retire
/-- A two-operand form: B is unused. -/
def vecOp1 (m : VMod) (ty : Ty) (d : V) (a : V) (f : Nat → Nat × BitVec 5) (s : State) : Host.Outcome State Fault Refusal :=
  vecOp m ty d a (.imm 0) (fun _ x _ => f x) s

/-- R254, R255: the arithmetic of an element: integers exact and then fitted, floats rounded once under FCR.RM. -/
def vArith (th : Thread) (ty : Ty) (sat : Bool) (fi : Int → Int → Int) (ff : Fmt → RM → FV → FV → Nat × BitVec 5) (a b : Nat) :
    Nat × BitVec 5 :=
  if elFloat ty then let f := tyFmt ty; ff f (rmOf th.rm) (fdec f a) (fdec f b)
  else (elFit ty sat (fi (elNum ty a) (elNum ty b)), 0)
/-- R256: a × b + d or a × b − d. -/
def vFused (th : Thread) (ty : Ty) (minus : Bool) (d a b : Nat) : Nat × BitVec 5 :=
  if elFloat ty then
    let f := tyFmt ty
    let c := fdec f d
    ffmaV f (rmOf th.rm) (fdec f a) (fdec f b) (if minus then c.neg else c)
  else (elFit ty false (elNum ty a * elNum ty b + (if minus then -(elNum ty d) else elNum ty d)), 0)
/-- R219, R254: the smaller or larger. -/
def elMinMax (ty : Ty) (mx : Bool) (a b : Nat) : Nat × BitVec 5 :=
  if elFloat ty then fminmax (tyFmt ty) mx a b
  else if elNum ty a ≤ elNum ty b then (if mx then b else a, 0) else (if mx then a else b, 0)
/-- R255, R256: absolute value and negation. -/
def vSign (ty : Ty) (sat neg : Bool) (a : Nat) : Nat × BitVec 5 :=
  if elFloat ty then ((if neg then fnegB else fabsB) (tyFmt ty) a, 0)
  else
    let x := elNum ty a
    (elFit ty sat (if neg || decide (x < 0) then -x else x), 0)
/-- R255: a shift amount. -/
def vCount (ty : Ty) (b : Nat) : Nat := b % elW ty
/-- R255: VDOT4 on one lane. -/
def dot4 (sat : Bool) (d a b : BitVec 32) : BitVec 32 :=
  let p (j : Nat) : Int := sintN 8 (elAt 8 a j) * sintN 8 (elAt 8 b j)
  BitVec.ofNat 32 (elFit .i32 sat (sintN 32 d.toNat + (p 0 + p 1 + p 2 + p 3)))
/-- R257: an estimate on f32. -/
def vEst (f : FV → Nat × BitVec 5) (a : Nat) : Nat × BitVec 5 := f (fdec f32F a)
/-- R258: the condition of one lane, with its flags. -/
def vCond (c : Cond) (ty : Ty) (a b : BitVec 32) : Bool × BitVec 5 :=
  if ty = .f32 then fcond c (fdec f32F a.toNat) (fdec f32F b.toNat) else (cmpCond c (elNum ty a.toNat) (elNum ty b.toNat), 0)
/-- A lane mask from a function of the lane number. -/
def maskOf (f : Nat → Bool) : BitVec 16 := BitVec.ofNat 16 (((List.range 16).map fun i => b2n (f i) * 2 ^ i).sum)

def execVadd (m : VMod) (ty : Ty) (d : V) (a : V) (b : VSrc) (s : State) : Host.Outcome State Fault Refusal :=
  vecOp m ty d a b (fun _ x y => vArith s.th ty m.sat (· + ·) faddV x y) s
def execVsub (m : VMod) (ty : Ty) (d : V) (a : V) (b : VSrc) (s : State) : Host.Outcome State Fault Refusal :=
  vecOp m ty d a b (fun _ x y => vArith s.th ty m.sat (· - ·) (fun f r p q => faddV f r p q.neg) x y) s
def execVmul (m : VMod) (ty : Ty) (d : V) (a : V) (b : VSrc) (s : State) : Host.Outcome State Fault Refusal :=
  vecOp m ty d a b (fun _ x y => vArith s.th ty false (· * ·) fmulV x y) s
def execVfma (m : VMod) (ty : Ty) (d : V) (a : V) (b : VSrc) (s : State) : Host.Outcome State Fault Refusal :=
  vecOp m ty d a b (vFused s.th ty false) s
def execVfms (m : VMod) (ty : Ty) (d : V) (a : V) (b : VSrc) (s : State) : Host.Outcome State Fault Refusal :=
  vecOp m ty d a b (vFused s.th ty true) s
def execVmin (m : VMod) (ty : Ty) (d : V) (a : V) (b : VSrc) (s : State) : Host.Outcome State Fault Refusal :=
  vecOp m ty d a b (fun _ x y => elMinMax ty false x y) s
def execVmax (m : VMod) (ty : Ty) (d : V) (a : V) (b : VSrc) (s : State) : Host.Outcome State Fault Refusal :=
  vecOp m ty d a b (fun _ x y => elMinMax ty true x y) s
def execVabs (m : VMod) (ty : Ty) (d : V) (a : V) (s : State) : Host.Outcome State Fault Refusal :=
  vecOp1 m ty d a (vSign ty m.sat false) s
def execVneg (m : VMod) (ty : Ty) (d : V) (a : V) (s : State) : Host.Outcome State Fault Refusal :=
  vecOp1 m ty d a (vSign ty m.sat true) s
def execVand (m : VMod) (ty : Ty) (d : V) (a : V) (b : VSrc) (s : State) : Host.Outcome State Fault Refusal :=
  vecOp m ty d a b (fun _ x y => (x &&& y, 0)) s
def execVor (m : VMod) (ty : Ty) (d : V) (a : V) (b : VSrc) (s : State) : Host.Outcome State Fault Refusal :=
  vecOp m ty d a b (fun _ x y => (x ||| y, 0)) s
def execVxor (m : VMod) (ty : Ty) (d : V) (a : V) (b : VSrc) (s : State) : Host.Outcome State Fault Refusal :=
  vecOp m ty d a b (fun _ x y => (x ^^^ y, 0)) s
def execVshl (m : VMod) (ty : Ty) (d : V) (a : V) (b : VSrc) (s : State) : Host.Outcome State Fault Refusal :=
  vecOp m ty d a b (fun _ x y => (x * 2 ^ vCount ty y % 2 ^ elW ty, 0)) s
def execVshr (m : VMod) (ty : Ty) (d : V) (a : V) (b : VSrc) (s : State) : Host.Outcome State Fault Refusal :=
  vecOp m ty d a b (fun _ x y => (x / 2 ^ vCount ty y, 0)) s
def execVsra (m : VMod) (ty : Ty) (d : V) (a : V) (b : VSrc) (s : State) : Host.Outcome State Fault Refusal :=
  vecOp m ty d a b (fun _ x y => (modPow (elW ty) (sintN (elW ty) x / 2 ^ vCount ty y), 0)) s
/-- R258. -/
def execVcmp (c : Cond) (ty : Ty) (d : K) (a : V) (b : VSrc) (s : State) : Host.Outcome State Fault Refusal :=
  let th := s.th
  let r (i : Nat) : Bool × BitVec 5 := vCond c ty (lane (rdV th a) i) (vsrcLane th b i)
  .next (s.modTh fun _ => orFst (wrK th d (maskOf fun i => (r i).1)) ((List.range 16).foldl (fun fl i => fl ||| (r i).2) 0)).retire
/-- R259. -/
def execVsel (k : K) (_ty : Ty) (d : V) (a : V) (b : VSrc) (s : State) : Host.Outcome State Fault Refusal :=
  let th := s.th
  .next (s.modTh fun _ => wrV th d (lanes fun i => if (rdK th k).getLsbD i then lane (rdV th a) i else vsrcLane th b i)).retire
def execVrcp (m : VMod) (ty : Ty) (d : V) (a : V) (s : State) : Host.Outcome State Fault Refusal := vecOp1 m ty d a (vEst frcp) s
def execVrsq (m : VMod) (ty : Ty) (d : V) (a : V) (s : State) : Host.Outcome State Fault Refusal := vecOp1 m ty d a (vEst frsq) s
def execVexp2 (m : VMod) (ty : Ty) (d : V) (a : V) (s : State) : Host.Outcome State Fault Refusal := vecOp1 m ty d a (vEst fexp2) s
def execVlog2 (m : VMod) (ty : Ty) (d : V) (a : V) (s : State) : Host.Outcome State Fault Refusal := vecOp1 m ty d a (vEst flog2) s
def execVdiv (m : VMod) (ty : Ty) (d : V) (a : V) (b : VSrc) (s : State) : Host.Outcome State Fault Refusal :=
  vecOp m ty d a b (fun _ x y => fdivV f32F (rmOf s.th.rm) (fdec f32F x) (fdec f32F y)) s
def execVsqrt (m : VMod) (ty : Ty) (d : V) (a : V) (s : State) : Host.Outcome State Fault Refusal :=
  vecOp1 m ty d a (fun x => fsqrtV f32F (rmOf s.th.rm) (fdec f32F x)) s
def execVpopc (m : VMod) (ty : Ty) (d : V) (a : V) (s : State) : Host.Outcome State Fault Refusal :=
  vecOp1 m ty d a (fun x => ((List.range 32).countP fun i => x.testBit i, 0)) s
/-- R255. -/
def execVdot4 (m : VMod) (_ty : Ty) (d : V) (a : V) (b : VSrc) (s : State) : Host.Outcome State Fault Refusal :=
  let th := s.th
  .next (s.modTh fun _ => putLanesM th m.k m.z d fun i => (dot4 m.sat (lane (rdV th d) i) (lane (rdV th a) i) (vsrcLane th b i), 0)).retire

end Sys2Proof.Machine
end

