-- ==== Sys2Proof/Machine/Masks.lean ====
section
/-! DEFINITION. Sys2Proof/Machine/Masks.lean: lane masks, major 0x53 (12 R266, R267). -/

namespace Sys2Proof.Machine

/-- A mask result written and the instruction retired. -/
def putMask (s : State) (d : K) (v : BitVec 16) : Host.Outcome State Fault Refusal := .next (s.modTh fun th => wrK th d v).retire

def execKand (d a b : K) (s : State) : Host.Outcome State Fault Refusal := putMask s d (rdK s.th a &&& rdK s.th b)
def execKor (d a b : K) (s : State) : Host.Outcome State Fault Refusal := putMask s d (rdK s.th a ||| rdK s.th b)
def execKnot (d a : K) (s : State) : Host.Outcome State Fault Refusal := putMask s d (~~~(rdK s.th a))
/-- R267. -/
def execKmov (f : KForm) (s : State) : Host.Outcome State Fault Refusal :=
  match f with
  | .kk d a => putMask s d (rdK s.th a)
  | .gk d a => putMask s d ((rdG s.th a).setWidth 16)
  | .kg d a => .next (s.modTh fun th => wrG th d ((rdK th a).setWidth 64)).retire
  | .imm d v => putMask s d v
def execKpopc (d : G) (a : K) (s : State) : Host.Outcome State Fault Refusal :=
  .next (s.modTh fun th => wrG th d (w64 (active (rdK th a)).length)).retire

end Sys2Proof.Machine
end

