-- ==== Sys2Proof/Machine/Memory.lean ====
section
/-! DEFINITION. Sys2Proof/Machine/Memory.lean: loads, stores and remote requests, major 0x20 (11 R228 to R231). -/

namespace Sys2Proof.Machine

def execLd (ty : Ty) (d : G) (m : MemX) (s : State) : Host.Outcome State Fault Refusal :=
  finish s (loadOp s true ty d (eaX s.th m))
def execSt (ty : Ty) (d : G) (m : MemX) (s : State) : Host.Outcome State Fault Refusal :=
  finish s (storeOp s true (eaX s.th m) (storeBytes s.th ty d))
def execGet (ty : Ty) (d : G) (m : MemX) (s : State) : Host.Outcome State Fault Refusal :=
  finish s (loadOp s false ty d (eaX s.th m))
def execPut (ty : Ty) (d : G) (m : MemX) (s : State) : Host.Outcome State Fault Refusal :=
  finish s (storeOp s false (eaX s.th m) (storeBytes s.th ty d))

/-- R230: PUT, then the increment, which is performed after the data write (R95). -/
def putcOp (s : State) (va : Word) (l : List Byte) (cnt : Word) (n : Nat) : Except Stop State :=
  match homeFor s va aWrite l.length, guardE (vaultAddr s s.cur.t 8 cnt) .address cnt, relGate s with
  | .error e, _, _ => .error e
  | _, .error e, _ => .error e
  | _, _, .error e => .error e
  | .ok (.tile h off), _, _ =>
    if h = s.cur.t ∨ inSys off = true then
      match sysGate s h off, writeAt s h va l with
      | .error e, _ => .error e
      | _, .error e => .error e
      | _, .ok s1 => .ok (sendIncr s1.nextReq s.cur.t s.cur.t (some (mkReq s)) cnt n).retire
    else .ok (sendPut s (.tile h off) va l (some (cnt, n))).retire
  | .ok (.edge o), _, _ => .ok (sendPut s (.edge o) va l (some (cnt, n))).retire
def execPutc (ty : Ty) (d : G) (m : MemB) (cnt : G) (inc : BitVec 4) (s : State) : Host.Outcome State Fault Refusal :=
  finish s (putcOp s (eaB s.th m) (storeBytes s.th ty d) (rdG s.th cnt) (inc.toNat + 1))

/-- R231. -/
def execMigr (pn : P) (m : MemB) (s : State) : Host.Outcome State Fault Refusal :=
  finish s <| match homeFor s (eaB s.th m) aRead 1 with
    | .error e => .error e
    | .ok (.edge _) => .error (.trap { cause := .address, addr := eaB s.th m })
    | .ok (.tile h _) =>
      if h = s.cur.t then .ok (s.modTh fun th => wrP th pn true).retire
      else if pinnedTo s s.cur.t s.cur.c h then .ok (s.modTh fun th => wrP th pn false).retire
      else .error (.migrate h 1 pn.val)
def execPin (s : State) : Host.Outcome State Fault Refusal := .next (s.modTh fun th => { th with epin := true }).retire
def execUnpin (s : State) : Host.Outcome State Fault Refusal := .next (s.modTh fun th => { th with epin := false }).retire

end Sys2Proof.Machine
end

