-- ==== Sys2Proof/Machine/Module.lean ====
section
/-! DEFINITION. Sys2Proof/Machine/Module.lean: the module's own services: host requests (18 R385), bring-up (R390), retirement of tiles
and links (01 R14, R23, 05 R99 to R101, 03 R58), retention and scrubbing (03 R55, R417), power and cooling (18 R388), the crown
lease (R387), module links (R386), attestation. -/

namespace Sys2Proof.Machine

-- The crescent switches (01 R17).
/-- R17: the credits of a partition's own pool for requests in the crescent switches (log 95). A request holds one while it stands there;
what goes back holds none. -/
def ioPool : Nat := 64
def ioAsks : Body → Bool
  | .edge _ _ _ _ | .elem _ _ _ _ _ | .host _ _ | .peerIn _ _ => true
  | _ => false
def ioUsed (s : State) (pid : Nat) : Nat := (((List.range 4).flatMap (s.ioQueue pid)).filter fun p => ioAsks p.body).length

-- Host requests (R371, R385).
/-- A request's granules read in ascending address, or written, each performed at its home. -/
def barRead (s : State) (p : Part) : List (Word × Nat) → Except Trap (State × List Byte)
  | [] => .ok (s, [])
  | (a, n) :: r =>
    let one : Except Trap (State × List Byte) := match resolve s (p.at 0 0) false a aRead n with
      | .error e => .error e
      | .ok (.edge o) => (match edgeRead s p o n with | .ok l => .ok (s, l) | .error e => .error { e with addr := a })
      | .ok (.tile h off) => (match readHome s h off n aRead with | .ok x => .ok x | .error e => .error { e with addr := a })
    match one with
    | .error e => .error e
    | .ok (s, l) => match barRead s p r with
      | .error e => .error e
      | .ok (s, m) => .ok (s, l ++ m)
def barWrite (s : State) (p : Part) : List (Word × Nat) → List Byte → Except Trap State
  | [], _ => .ok s
  | (a, n) :: r, l =>
    let one : Except Trap State := match resolve s (p.at 0 0) false a aWrite n with
      | .error e => .error e
      | .ok (.edge o) => (match edgeWrite s p o (l.take n) with | .ok s => .ok s | .error e => .error { e with addr := a })
      | .ok (.tile h off) => (match writeHome s h off (l.take n) aWrite with | .ok s => .ok s | .error e => .error { e with addr := a })
    match one with
    | .error e => .error e
    | .ok s => barWrite s p r (l.drop n)
/-- R371: a refused host request: the report, and the stop of the partition's queues in the quadrant of the service core. -/
def hostRefuse (s : State) (sc pid : Nat) (tr : Trap) : State :=
  let s := hostReport (learnPoison s tr) true 1 (causeCode tr.cause) pid 0 tr.addr 0 0 0
  s.queues.foldl (fun s (e : Nat × Queue) =>
    match s.part pid with
    | some p => if e.2.pid = pid ∧ quadOf (wakeHome p e.2) = sc then queueStop s e.1 8 (causeCode tr.cause) e.2.r tr.addr else s
    | none => s) s
/-- R384: what one request of the host may carry: 512 bytes written, 4,096 read. A partition that is not served takes none (01 R14, R23). -/
def barFits (s : State) (p : Part) (sc off : Nat) (data : Option (List Byte)) (len : Nat) : Bool :=
  let n := match data with | some l => l.length | none => len
  p.scs.contains sc && partUp s p && decide (0 < n) && decide (n ≤ if data.isSome then 512 else 4096) && decide (off + n ≤ 2 ^ 34)
/-- A request performed at its home, granule by granule (R385). -/
def barRequest (s : State) (sc pid off : Nat) (data : Option (List Byte)) (len : Nat) : State :=
  match s.part pid with
  | none => s
  | some p =>
    let n := match data with | some l => l.length | none => len
    if !barFits s p sc off data len then s
    else
      let ps := pieces (aget p.apb sc 0 + w64 off) (n / 16 + 2) n
      match data with
      | none => (match barRead s p ps with
        | .ok (s, l) => { s with out := s.out ++ [HostOut.read sc (some l)] }
        | .error tr => let s := hostRefuse s sc pid tr; { s with out := s.out ++ [HostOut.read sc none] })
      | some l => (match barWrite s p ps l with
        | .ok s => s
        | .error tr => hostRefuse s sc pid tr)
def execBar2Request (sc : Nat) (pid : Nat) (off : Nat) (data : Option (List (BitVec 8))) (len : Nat) (s : State) :
    Host.Outcome State Fault Refusal := .next (barRequest s sc pid off data len)
/-- R129: a service core takes a request, behind those that it holds. -/
def hostTake (s : State) (sc pid off : Nat) (data : Option (List Byte)) (len : Nat) : State :=
  match s.part pid with
  | some p => if barFits s p sc off data len then { s with hostReqs := s.hostReqs ++ [⟨sc, pid, off, data, len, false⟩] } else s
  | none => s
/-- The oldest request that a service core holds; it is done with. -/
def hostHead (s : State) (sc : Nat) : Option HostReq := s.hostReqs.find? fun r => r.sc == sc
def hostPop (s : State) (sc : Nat) : State := { s with hostReqs := s.hostReqs.eraseP fun r => r.sc == sc }
def HostReq.addr (r : HostReq) (p : Part) : Word := aget p.apb r.sc 0 + w64 r.off
def HostReq.run (r : HostReq) (s : State) : State := barRequest s r.sc r.pid r.off r.data r.len
/-- The site of an address in the partition: its home tile, or its edge channel. -/
def unitSite (s : State) (p : Part) (a : Word) (k : Acc) : Option Nat :=
  match resolve s (p.at 0 0) false a k with
  | .ok (.tile h _) => some h
  | .ok (.edge o) => some (edgeSite (edgePlace p.chans o).1)
  | .error _ => none
/-- R17, R129: the oldest request of a service core sets out for the home of its first granule, by the ring and a spoke; one that R26
refuses goes no further than the service core. -/
def hostSend (s : State) (sc : Nat) : State :=
  match hostHead s sc with
  | none => s
  | some r =>
    match s.part r.pid with
    | none => s
    | some p =>
      if r.sent || !partUp s p then s
      else match unitSite s p (r.addr p) (if r.data.isSome then aWrite else aRead) with
        | none => hostPop (r.run s) sc
        | some d =>
          if ioUsed s r.pid < ioPool then
            { s with hostReqs := s.hostReqs.map fun q => if q = r then { q with sent := true } else q }.ioBack r.pid (48 + sc) d 6 (.host sc r.data.isSome)
          else s
/-- Bytes of a request that a crossbar has poisoned on their way are stored poisoned (03 R58). -/
def hostPoison (s : State) (p : Part) (k : Packet) (a : Word) (n : Nat) : State :=
  k.poisonPieces (fun s a n => if k.dst < 20000 then poisonHome s k.dst (fld a 0 44) n else poisonEdge s p (fld a 0 57) n) s 0 [(a, n)]
/-- What a unit of the partition sends to a unit at the wafer's edge: from a tile by its spoke, from an edge channel by the ring (R17). -/
def edgeBack (s : State) (pid site unit : Nat) (b : Body) : State :=
  if site < 20000 then s.send site (ioSite site unit) 6 b else s.ioBack pid (chanOf site) (edgeSite unit) 6 b
/-- R385, R129: a request performed at its home. What is read goes back to its service core, which then begins the next. -/
def hostArrive (s : State) (n : Nat) : Host.Outcome State Fault Refusal :=
  withPkt s n fun s k => match k.body with
    | .host sc _ => match hostHead s sc with
      | some r => match s.part r.pid with
        | some p =>
          if !partUp s p then none
          else
          let u := hostPop (r.run s) sc
          some (match r.data, u.out.drop s.out.length, u.out.getLast? with
            | some l, [], _ => hostPoison u p k (r.addr p) l.length
            | none, _ :: _, some (.read _ d) => edgeBack { u with out := u.out.dropLast } r.pid k.dst (48 + sc) (.hostRe sc d)
            | _, _, _ => u)
        | none => some s
      | none => some s
    | .hostRe sc d => some { s with out := s.out ++ [HostOut.read sc (if k.poisoned then none else d)] }
    | _ => none
/-- R385: the host writes BAR0; an aperture base that is not 16 GiB aligned is ignored (log 91). -/
def barZero (s : State) (sc pid k : Nat) (v : Word) : State :=
  match s.part pid with
  | none => s
  | some p =>
    if !p.scs.contains sc then s
    else match k with
      | 0 => if fld v 0 34 = 0 then s.setPart { p with apb := aput p.apb sc v } else s
      | 1 => s.setPart { p with repBase := aput p.repBase sc v }
      | 2 => s.setPart { p with repSize := aput p.repSize sc v.toNat }
      | _ => s

-- What arrives over module links (R386, 01 R19).
/-- The partition that a module link belongs to, while it is served. -/
def linkPart (s : State) (link : Nat) : Option Part :=
  (s.parts.find? fun e => e.2.links.contains link && partUp s e.2).map (·.2)
/-- R344, R386: a peer's wake store over a module link of the partition, performed at its home. -/
def peerWake (s : State) (link : Nat) (a v : Word) : State :=
  match linkPart s link with
  | some p =>
    let wt := p.at (fld a 44 7) (fld a 51 6)
    if (s.tile wt).wakeTab.any fun e => e.1 == a then (match procWrite s p a (wBytes v) with | .ok s => s | .error _ => s) else s
  | none => s
def execPeerWakeStore (link : Nat) (addr : BitVec 64) (v : BitVec 64) (s : State) : Host.Outcome State Fault Refusal :=
  .next (peerWake s link addr v)
/-- R386: whether an address is one that a peer segment may stand for: edge bytes, or the first 1 GiB of vault space at a tile. -/
def peerNames (a : Word) : Bool := bit a 57 || decide (fld a 0 44 < 2 ^ 30)
/-- R386: an access of a peer's COPY, performed at its home here, where wake stores take effect (R344); and its answer. -/
def peerCopy (s : State) (p : Part) (a : Word) (n : Nat) (data : Option (List Byte)) : State × Option (List Byte) :=
  match data with
  | none => (match barRead s p (pieces a (n / 16 + 2) n) with
    | .ok (s, l) => (s, some l)
    | .error tr => (learnPoison s tr, none))
  | some l => (match barWrite s p (pieces a (l.length / 16 + 2) l.length) l with
    | .ok s => (s, some [])
    | .error tr => (learnPoison s tr, none))
-- The bytes of a frame's plain text, which the spec leaves open (log 114).
def listBytes (l : List Byte) : List Byte := leBytes 8 l.length ++ l
def dataBytes : Option (List Byte) → List Byte
  | none => leBytes 8 0
  | some l => leBytes 8 1 ++ listBytes l
def memberBytes (c : CollSt) : List Byte :=
  [c.grp, c.no, c.tile, c.rank, c.gsize, c.op, c.red, c.ty, c.count, c.root, b2n c.bad].flatMap (leBytes 8) ++ listBytes (wordsBytes c.src)
def msgBytes : PeerMsg → List Byte
  | .access tag a n d => leBytes 8 0 ++ leBytes 8 tag ++ wBytes a ++ leBytes 8 n ++ dataBytes d
  | .answer tag d => leBytes 8 1 ++ leBytes 8 tag ++ dataBytes d
  | .wake a v => leBytes 8 2 ++ wBytes a ++ wBytes v
  | .coll g no ents => leBytes 8 3 ++ leBytes 8 g ++ leBytes 8 no ++ leBytes 8 ents.length ++ ents.flatMap memberBytes
/-- R386: the next message that waits for a link is sealed under the link key and sent; the link keeps the frame until the peer has
taken it (R101). Without a key it waits for link training. -/
def frameOut (s : State) (link : Nat) : State :=
  match s.frameq.find? fun e => e.1 == link, afind s.linkKeys link with
  | some (_, m), some k =>
    let b := Config.gcmSeal k (msgBytes m)
    { s with frameq := s.frameq.eraseP (fun e => e.1 == link), frames := s.frames ++ [(link, b)], out := s.out ++ [HostOut.frame link b] }
  | _, _ => s
/-- R386, R101: the peer has taken the oldest frame; or its tag has failed there, and it is sent again. -/
def frameAck (s : State) (link : Nat) : State := { s with frames := s.frames.eraseP fun e => e.1 == link }
def frameNak (s : State) (link : Nat) : State :=
  match s.frames.find? fun e => e.1 == link with
  | some (_, b) => { s with out := s.out ++ [HostOut.frame link b] }
  | none => s
/-- R386: where what a peer asks of a partition is performed. -/
def peerSite (s : State) (p : Part) (link : Nat) : PeerMsg → Option Nat
  | .access _ a _ d => if peerNames a then unitSite s p a (if d.isSome then aWrite else aRead) else none
  | .wake a _ => unitSite s p a aWrite
  | .coll g _ _ => joinedRoot s p link g
  | .answer _ _ => none
/-- R386: a message that has come over a link: an answer to this module, or a request, which goes to its home by the ring and a spoke
(R17); one that no home serves is refused. -/
def peerTake (s : State) (p : Part) (link : Nat) (m : PeerMsg) : State :=
  match m, peerSite s p link m with
  | .answer tag d, _ => peerAnswer s link tag d
  | m, some d => s.ioBack p.pid (32 + link) d 6 (.peerIn link m)
  | .access tag _ _ _, none => { s with frameq := s.frameq ++ [(link, .answer tag none)] }
  | _, none => s
/-- R386: a frame arrives over a module link. One whose tag fails under the link key is discarded, and the peer sends it again; one for
which the partition's pool has no credit is not taken yet (R17). -/
def frameIn (s : State) (link : Nat) (bytes : List Byte) (m : PeerMsg) : State :=
  match afind s.linkKeys link, linkPart s link with
  | some k, some p => if Config.gcmOpen k bytes = some (msgBytes m) ∧ ioUsed s p.pid < ioPool then peerTake s p link m else s
  | _, _ => s
/-- R386: a peer's request performed at its home, its answer on its way back, or a message at the link that takes it. -/
def peerArrive (s : State) (n : Nat) : Host.Outcome State Fault Refusal :=
  withPkt s n fun s k => match k.body with
    | .peerIn link m => match linkPart s link with
      | some p => (match m with
        | .access tag a n d =>
          let (s, l) := peerCopy s p a n d
          let s := match d, l with | some b, some _ => hostPoison s p k a b.length | _, _ => s
          some (edgeBack s p.pid k.dst (32 + link) (.peerOut link (.answer tag l)))
        | .wake a v => some (peerWake s link a v)
        | .coll g no ents => some (peerColl s k.dst g no (if k.poisoned then collPoison k.bad 0 ents else ents))
        | .answer _ _ => some s)
      | none => none
    | .peerOut link m =>
      let m := match m with
        | .answer tag (some l) => if k.poisoned then .answer tag none else .answer tag (some l)
        | .coll g no ents => .coll g no (if k.poisoned then collPoison k.bad 0 ents else ents)
        | m => m
      some { s with frameq := s.frameq ++ [(link, m)] }
    | _ => none
/-- R386: firmware joins the tree of a group to a peer's over a link of the partition, or ends that. -/
def joinGroup (s : State) (pid grp : Nat) (link : Option Nat) : State :=
  match s.part pid with
  | none => s
  | some p =>
    match link with
    | some l => if p.links.contains l && decide (grp < 64) then s.setPart { p with joins := aput p.joins grp l } else s
    | none => s.setPart { p with joins := adel p.joins grp }

-- Reports of the module (R383).
/-- A report to the physical function alone, with the PID 63 of R383. -/
def moduleReport (s : State) (kind arg : Nat) : State := hostReport s false kind 0 63 0 0 arg 0 0
/-- R58, R383: a corrected error is counted at its tile, and the field's firmware core, which hears of it, reports the tile's count. -/
def corrected (s : State) (t : Tile) : State :=
  let s := s.modTile t fun x => { x with cecnt := x.cecnt + 1 }
  moduleReport s 8 (s.tile t).cecnt.toNat

-- Bring-up (R390).
/-- R14: the row of the spares below a tile's field; whether a spare's column is of the tile's block. -/
def spareRow (t : Nat) : Nat := 9 * (t / 128 / 8) + 8
def ownSpare (t px : Nat) : Bool := decide (px / 8 = t % 128 / 8)
/-- R14: the columns of a block's spares that are in use or bad. -/
def takenSpares (s : State) (b : Nat) : List Nat := aget s.retired b [] ++ aget s.badSpares b []
/-- R14: a tile stands, from the embedding on, at a free good spare of its block. -/
def moveTile (s : State) (e : Nat × Nat) : State :=
  let b := blockOf e.1
  if ownSpare e.1 e.2 && decide (e.1 < 8192) && !(takenSpares s b).contains e.2 && (s.tile e.1).py % 9 != 8 then
    { s with retired := aput s.retired b (aget s.retired b [] ++ [e.2]) }.modTile e.1 fun x =>
      { x with px := e.2, py := spareRow e.1, ex := e.2, ey := spareRow e.1 }
  else s
/-- R14: the defect map's bad spares, each its block and column. -/
def markBad (s : State) (e : Nat × Nat) : State := { s with badSpares := aput s.badSpares e.1 (sadd (aget s.badSpares e.1 []) e.2) }
/-- R389: a band of the map, in its range and step. -/
def bandOk (b : Nat) : Bool := decide (2200 ≤ b) && decide (b ≤ 2800) && b % 50 == 0
/-- R390: a field whose bring-up a failing step stops: it stays down, and the physical function is told by a record whose KIND the
spec does not give (log 90). -/
def failField (s : State) (f : Nat) : State :=
  (moduleReport s ((Config.freeWord s.fresh).toNat % 256) 0).nextFresh.modField f fun x => { x with down := true }
/-- R390, R389, R268: the fields' firmware cores bring the module up: defects, the embedding, the fields' bands, reduced tiles, and
the fields that a step stops. -/
def bringUp (s : State) (m : SpareMap) (bands : List Nat) (tests : TestMap) : State :=
  if s.up then s
  else
    let s := m.moved.foldl moveTile (m.bad.foldl markBad s)
    let s := tests.reduced.foldl (fun s t => s.modTile t fun x => { x with lanes := 8 }) s
    let band (f d : Nat) : Nat := if bandOk (lget bands f d) then lget bands f d else d
    let s := (List.range 64).foldl (fun s f => s.modField f fun x =>
      { Field.zero with band := band f x.band, cyc := x.cyc, timer := x.cyc, allot := s.budget / 64 }) s
    { tests.failed.foldl failField s with up := true }
/-- R390: the module is reset: its partitions are destroyed (R379), and every tile is held in reset at the site where it stands, until
the fields are brought up again. What R15 has retained while the module is powered, what firmware has recorded of spares and blocks
(R14), the host driver's budget and the numbers of reports stay; a module that a thermal stop has stopped runs again (log 115). -/
def moduleReset (s : State) : State :=
  let s := (s.parts.map (·.1)).foldl dropPart s
  let bare (t : Nat) (x : TileSt) : TileSt := { TileSt.zero t with px := x.px, py := x.py, ex := x.px, ey := x.py }
  { State.reset with
    mem := s.mem, full := s.full, poison := s.poison, latent := s.latent, tiles := s.tiles.map fun e => (e.1, bare e.1 e.2)
    fields := s.fields.map fun e => (e.1, { Field.zero with band := e.2.band }), retired := s.retired, badSpares := s.badSpares
    spareVaults := s.spareVaults, unavailable := s.unavailable, cooling := s.cooling, budget := s.budget, out := s.out
    pfSeq := s.pfSeq, fresh := s.fresh, reqNo := s.reqNo, agenda := s.agenda }
def execBringUp (spares : SpareMap) (bands : List Nat) (reduced : TestMap) (s : State) : Host.Outcome State Fault Refusal :=
  .next (bringUp s spares bands reduced)

-- Links (R58, R101).
def State.link (s : State) (a b : Nat) : Link := aget s.links (16384 * a + b) Link.zero
def State.setLink (s : State) (a b : Nat) (x : Link) : State := { s with links := aput s.links (16384 * a + b) x }
/-- R13: the number of a router, by its site. -/
def routerAt (px py : Nat) : Nat := 128 * py + px
/-- R39, R416: whether a mesh or folded link joins two routers. -/
def linked (a b : Nat) : Bool :=
  let dx := dist (a % 128) (b % 128)
  let dy := dist (a / 128) (b / 128)
  decide (a < 9216) && decide (b < 9216) && ((dy == 0 && decide (0 < dx) && decide (dx ≤ 2)) || (dx == 0 && decide (0 < dy) && decide (dy ≤ 3)))
/-- R378: whether a router stands among those of a partition's blocks, spare rows included. -/
def Part.hasRouter (p : Part) (r : Nat) : Bool :=
  decide (p.x0 ≤ r % 128) && decide (r % 128 < p.x0 + p.w) && decide (9 * (p.y0 / 8) ≤ r / 128) && decide (r / 128 < 9 * ((p.y0 + p.h) / 8))
/-- R17: the corner tile of a block, at block-local position (0, 0), where its spoke begins. -/
def cornerOf (b : Nat) : Tile := 128 * (8 * (b / 16)) + 8 * (b % 16)
/-- The routers between which a packet takes its least route: from where its sender stands to the site that the embedding gave its
destination, and on from there by the stub (R100). Its ends on the mesh are tiles, a spoke's the corner tile of its block (R17). -/
def legsOf (s : State) (p : Packet) : List (Nat × Nat) :=
  let onMesh (n : Nat) : Option Tile := if n < 8192 then some n else if 30000 ≤ n ∧ n < 40000 then some (cornerOf ((n - 30000) % 128)) else none
  match onMesh p.src, onMesh p.dst with
  | some a, some b =>
    let built := routerAt (s.tile b).ex (s.tile b).ey
    [(routerAt (s.tile a).px (s.tile a).py, built), (built, routerAt (s.tile b).px (s.tile b).py)]
  | _, _ => []
/-- R416: least hops between two routers. -/
def routerHops (full : Bool) (a b : Nat) : Nat := siteHops full (a % 128) (a / 128) (b % 128) (b / 128)
/-- R378, R416, R17: whether a packet may cross from router a to router b: both stand in its tiles' partition, and the link lies on its
least route, over mesh links alone in a partition smaller than the wafer. Traffic between a spoke and a crescent, of an edge channel and
of the management buses crosses no link of the mesh. -/
def mayCross (s : State) (p : Packet) (a b : Nat) : Bool :=
  match s.partOf (if p.src < 8192 then p.src else p.dst) with
  | some q =>
    let full := decide (q.w = 128) && decide (q.h = 64)
    linked a b && q.hasRouter a && q.hasRouter b && (legsOf s p).any fun e =>
      routerHops full e.1 a + 1 + routerHops full b e.2 == routerHops full e.1 e.2
  | none => false
/-- The tile that stands at a router. -/
def standsAt (s : State) (r : Nat) : Option Tile :=
  let here (t : Tile) : Bool := routerAt (s.tile t).px (s.tile t).py == r
  let f := r / 128 / 9
  ((List.range 8).map fun y => 128 * (8 * f + y) + r % 128).find? here <|>
    (((List.range 64).map fun i => 128 * (8 * f + i / 8) + (r % 128 / 8 * 8 + i % 8)).find? here)
/-- A field of one virtual channel of a link. -/
def Link.vc (x : Link) (v : Nat) : LinkVc := lget x.vcs v ⟨0, 0, 0⟩
def Link.setVc (x : Link) (v : Nat) (c : LinkVc) : Link := { x with vcs := x.vcs.set v c }
/-- R101: a packet that may move crosses from router a to router b: a keeps a copy with its sequence number until b confirms it.
Its place in the order of R84 stands meanwhile in the network's list. -/
def linkSend (s : State) (a b n : Nat) : State :=
  match deliverable s n with
  | none => s
  | some p =>
    let x := s.link a b
    let c := x.vc p.vc
    if !mayCross s p a b || decide (8 ≤ p.vc) || decide (127 ≤ c.used) then s
    else
      let f : Flight := ⟨c.next, p⟩
      s.setLink a b ({ x with kept := x.kept ++ [f], wire := x.wire ++ [f] }.setVc p.vc { c with next := c.next + 1, used := c.used + 1 })
/-- R101: the head of the wire arrives: delivered if it is the next of its channel, and discarded if it has been delivered already. A
packet that has crossed ends the count of retries (R58). -/
def linkTake (s : State) (a b : Nat) : State :=
  let x := s.link a b
  match x.wire with
  | [] => s
  | f :: r =>
    let c := x.vc f.pkt.vc
    if f.no = c.due then s.setLink a b ({ x with wire := r, retries := 0 }.setVc f.pkt.vc { c with due := c.due + 1 })
    else s.setLink a b { x with wire := r }
/-- R101: the oldest copy that has been delivered is confirmed, and its buffer slot is granted again. -/
def linkConfirm (s : State) (a b : Nat) : State :=
  let x := s.link a b
  match x.kept with
  | [] => s
  | f :: r =>
    let c := x.vc f.pkt.vc
    if x.pending f then s else s.setLink a b ({ x with kept := r }.setVc f.pkt.vc { c with used := c.used - 1 })
/-- R101, steps 2 to 5, of one direction: what is on the wire is discarded, every slot and channel is as at reset but for the sequence
numbers, and the unconfirmed packets are sent again in order. -/
def Link.reset (x : Link) : Link :=
  let again (v : Nat) : Nat := (x.kept.filter fun f => f.pkt.vc == v).length
  { vcs := (List.range 8).map fun v => { x.vc v with used := again v }, kept := x.kept, wire := x.kept, retries := 0, resets := x.resets + 1 }
/-- R101: both ends of a link reset; no packet is lost or delivered twice. -/
def resetLink (s : State) (a b : Nat) : State :=
  let s := s.setLink a b (s.link a b).reset
  if a = b then s else s.setLink b a (s.link b a).reset
def execLinkReset (a : Nat) (b : Nat) (s : State) : Host.Outcome State Fault Refusal := .next (resetLink s a b)
/-- R58: a flit or packet that fails its check is sent again, with what follows it, up to 8 times in a row; each retry is a corrected
error of the tile at the sending router. -/
def retryLink (s : State) (a b : Nat) : State :=
  let x := s.link a b
  if 8 ≤ x.retries then resetLink s a b
  else
    let s := s.setLink a b { x with wire := x.kept.filter x.pending, retries := x.retries + 1 }
    match standsAt s a with
    | some t => corrected s t
    | none => s
def execLinkRetry (a : Nat) (b : Nat) (s : State) : Host.Outcome State Fault Refusal := .next (retryLink s a b)
/-- R23: a router failure takes its field down until reboot. -/
def execRouterFailure (f : Nat) (s : State) : Host.Outcome State Fault Refusal := .next (s.modField f fun x => { x with down := true })
/-- R58: a crossbar finds a parity error: in flit i of a payload, whose words are poisoned and delivered, or in a header flit, which is
a failure of the router of field f. -/
def crossbar (s : State) (n : Nat) (flit : Option Nat) (f : Nat) : State :=
  match flit, s.net[n]? with
  | none, _ => s.modField f fun x => { x with down := true }
  | some i, some p => if hasPayload p.body then { s with net := s.net.set n { p with bad := sadd p.bad i } } else s
  | _, _ => s
/-- R14, R23: the partition that holds a tile stops. -/
def stopPart (s : State) (t : Nat) : State :=
  match s.partOf t with
  | some p => s.setPart { p with halted := true }
  | none => s

-- Retirement (R14, R99).
/-- R14: the free spare of a block nearest a column, the lower on a tie. -/
def pickSpare (used : List Nat) (col : Nat) : List Nat → Option Nat
  | [] => none
  | c :: r =>
    if used.contains c then pickSpare used col r
    else match pickSpare used col r with
      | some d => if dist c col ≤ dist d col then some c else some d
      | none => some c
/-- R14: the spare that a tile retires onto. -/
def spareFor (s : State) (t : Nat) : Option Nat :=
  pickSpare (takenSpares s (blockOf t)) (t % 128) ((List.range 8).map (t % 128 / 8 * 8 + ·))
/-- R15: what the vault of a tile holds, by its own offsets. -/
def vaultOf (s : State) (t : Nat) : SpareVault :=
  let words (l : List Nat) : List Nat := (l.filter fun w => decide (vKey t 0 / 8 ≤ w) && decide (w < vKey t 0 / 8 + 2 ^ 27)).map (· - vKey t 0 / 8)
  { cells := (s.mem.filter fun e => decide (vKey t 0 ≤ e.1) && decide (e.1 < vKey t 0 + 2 ^ 30)).map fun e => (e.1 - vKey t 0, e.2)
    full := words s.full, poison := words s.poison, latent := words s.latent }
/-- R15, R99: the vault is copied to the new spare; a spare that the tile leaves retains its contents, tags and poison with them. -/
def moveVault (s : State) (t c : Nat) : State :=
  let key (col : Nat) : Nat := 8 * blockOf t + col % 8
  let x := s.tile t
  let left := if x.py % 9 = 8 then aput s.spareVaults (key x.px) (vaultOf s t) else s.spareVaults
  { s with spareVaults := adel left (key c) }
/-- R99, step 6: the links of some routers reset. A link that has carried nothing is as a reset leaves it. -/
def resetLinksOf (s : State) (rs : List Nat) : State :=
  s.links.foldl (fun s e => if rs.contains (e.1 / 16384) || rs.contains (e.1 % 16384) then s.setLink (e.1 / 16384) (e.1 % 16384) e.2.reset else s) s
/-- R99: a tile moves to a spare of its block, once its job window has drained, with a link reset at the routers of its new site, of the
one it leaves, and of its stub, whose routes change; without a spare its block is unavailable and its
partition stops (R14). -/
def retire (s : State) (t : Nat) : State :=
  let b := blockOf t
  let x := s.tile t
  match spareFor s t with
  | none => stopPart { s with unavailable := sadd s.unavailable b } t
  | some c =>
    if !x.jobs.isEmpty then s
    else
      let s := flushWhere s t fun _ => true
      let s := x.dirty.foldl (fun s e => writeBack s t e.1) s
      let s := { moveVault s t c with retired := aput s.retired b (aget s.retired b [] ++ [c]) }.modTile t fun x => { x with px := c, py := spareRow t }
      let s := resetLinksOf s [routerAt x.px x.py, routerAt x.ex x.ey, routerAt c (spareRow t)]
      match s.parts.find? fun e => e.2.tiles.contains t with
      | some (_, p) => hostReport (p.tiles.foldl (setNbrs p) s) true 4 0 p.pid 0 0 0 x.lx x.ly
      | none => moduleReport s 4 0
def execRetireTile (t : Nat) (s : State) : Host.Outcome State Fault Refusal := .next (retire s t)

-- Retention and scrubbing (R52, R55, R417).
/-- R52, R55: whether an array may enter retention: a way group, while no locked line stands in one of its ways. -/
def mayRetain (x : TileSt) : Arr → Bool
  | .pane h => (x.pane h.val).mode != 2
  | .l2 g => x.locks.all fun e => e.2.way / 3 != g.val
  | .bank _ => true
/-- R55: an array enters retention; the re-encoding checks every sector, and poisons those whose error it cannot correct. -/
def retain (s : State) (t : Tile) (a : Arr) : State :=
  let x := s.tile t
  if mayRetain x a && !x.retained.contains a then
    let ws := s.latent.filter fun w => match wordHome w with | some (u, r, b) => u == t && inArr x r b 8 a && !inDirty s w | none => false
    (meetErrors s ws).modTile t fun x => { x with retained := x.retained ++ [a] }
  else s
def execRetentionEntry (t : Nat) (a : Arr) (s : State) : Host.Outcome State Fault Refusal := .next (retain s t a)
def execRetentionExit (t : Nat) (a : Arr) (s : State) : Host.Outcome State Fault Refusal := .next (exitArr s t a)
/-- R417, R58: the vault's words of a sector read; an uncorrectable one is poisoned, beneath a dirty line too. -/
def scrub (s : State) (t sector : Nat) : State :=
  let ws := wordsOf (vKey t (32 * sector)) 32
  if sector < 2 ^ 25 then
    let s := wakeArrays s t 0 (32 * sector) 32 false
    match afind (s.tile t).dirty (sector / 4) with
    | some d => s.modTile t fun x => { x with dirty := aput x.dirty (sector / 4) (clearBeneath d ws []) }
    | none => meetErrors s ws
  else s
def execScrub (t : Nat) (sector : Nat) (s : State) : Host.Outcome State Fault Refusal := .next (scrub s t sector)

-- Power and cooling (R388).
/-- R388: what a field may draw now. -/
def allotment (s : State) (f : Nat) : Nat := if s.cooling then (s.field f).allot / 2 else (s.field f).allot
/-- R22: the crown is told of a cooling fault, and reports it (R383). -/
def tellCrown (s : State) (f : Nat) : State := moduleReport (s.modField f fun x => { x with cool := true }) 6 0
/-- R22, R388: a cooling fault halves the allotments; a crown that acts is told. -/
def coolingFault (s : State) : State :=
  if s.cooling then s
  else match crownOf s with
    | some f => tellCrown { s with cooling := true } f
    | none => { s with cooling := true }
def execCoolingFault (s : State) : Host.Outcome State Fault Refusal := .next (coolingFault s)
def execCoolingClear (s : State) : Host.Outcome State Fault Refusal :=
  .next (if s.cooling then { s with cooling := false, fields := s.fields.map fun e => (e.1, { e.2 with cool := false }) } else s)
def execThermalStop (s : State) : Host.Outcome State Fault Refusal := .next { s with stopped := true }
-- The crown lease (R387).
/-- A message to every firmware core. -/
def toAll (s : State) (f : Nat) (b : Body) : State := (List.range 64).foldl (fun s g => s.send (fwSite f) (fwSite g) 7 b) s
/-- R388: every field's 150 W, and of the rest what the crown gives it by demand, a free value within what is left (log 51). -/
def shares : Nat → Nat → Nat → List Nat
  | 0, _, _ => []
  | n + 1, rest, k =>
    let give := (Config.freeWord k).toNat % (rest + 1)
    (150 + give) :: shares n (rest - give) (k + 1)
/-- R388: every 2^20 of its cycles the crown, told each field's demand, sends each its share under its epoch. -/
def shareBudget (s : State) (f : Nat) (demand : List Nat) : State :=
  let x := s.field f
  let s := (List.range 64).foldl (fun s g => s.modField g fun y => { y with demand := lget demand g 0 }) s
  let l := shares 64 (s.budget - 9600) s.fresh
  let s := { s with fresh := s.fresh + 64 }.modField f fun y => { y with shareAt := x.cyc + 2 ^ 20 }
  (List.range 64).foldl (fun s g => s.send (fwSite f) (fwSite g) 7 (.share f x.epoch (lget l g 150))) s
def execBudgetShare (demand : List Nat) (s : State) : Host.Outcome State Fault Refusal :=
  .next (match crownOf s with
    | some f => if (s.field f).shareAt ≤ (s.field f).cyc then shareBudget s f demand else s
    | none => s)
/-- R387: time passes, in which no firmware core counts more than 1.25 times the cycles of another. -/
def fwTick (s : State) (ds : List Nat) : State :=
  let ns := (List.range 64).map fun f => lget ds f 0
  if ns.all fun a => ns.all fun b => decide (4 * a ≤ 5 * b) then
    (List.range 64).foldl (fun s f => s.modField f fun x => { x with cyc := x.cyc + lget ds f 0 }) s
  else s
/-- A core asks for votes at the next epoch. -/
def askVotes (s : State) (f : Nat) : State :=
  let e := (s.field f).epoch + 1
  toAll (s.modField f fun x => { x with lease := .candidate, epoch := e, votes := [], timer := x.cyc }) f (.voteReq f e)
def execLeaseTimeout (f : Nat) (s : State) : Host.Outcome State Fault Refusal :=
  let x := s.field f
  .next (if x.lease = .follower ∧ x.down = false ∧ x.timer + 2 ^ 24 ≤ x.cyc then askVotes s f else s)
def execCandidateTimeout (f : Nat) (s : State) : Host.Outcome State Fault Refusal :=
  let x := s.field f
  .next (if x.lease = .candidate ∧ x.down = false ∧ x.timer + 2 ^ 20 * (1 + f) ≤ x.cyc then askVotes s f else s)
/-- A message of an epoch at a core: rejected below its own; a higher one makes it a follower. -/
def sawEpoch (x : Field) (e : Nat) : Field :=
  if x.epoch < e then { x with epoch := e, lease := .follower, timer := x.cyc } else x
def execVoteRequest (n : Nat) (s : State) : Host.Outcome State Fault Refusal :=
  withPkt s n fun s p => match p.body with
    | .voteReq f e =>
      let g := p.dst - 10000
      let x := s.field g
      some (if e < x.epoch ∨ x.down = true then s
        else
          let s := s.modField g fun x => sawEpoch x e
          if x.voted < e then (s.modField g fun x => { x with voted := e }).send p.dst (fwSite f) 7 (.vote g e) else s)
    | _ => none
/-- A core becomes crown with its 33rd vote; a cooling fault that lasts is reported to it (R22). -/
def countVote (s : State) (f g : Nat) : State :=
  let x := s.field f
  let votes := sadd x.votes g
  if 33 ≤ votes.length then
    let s := moduleReport (s.modField f fun x => { x with lease := .crown, votes := votes, acks := [], timer := x.cyc, renewAt := x.cyc, shareAt := x.cyc }) 7 x.epoch
    if s.cooling then tellCrown s f else s
  else s.modField f fun x => { x with votes := votes }
def execVote (n : Nat) (s : State) : Host.Outcome State Fault Refusal :=
  withPkt s n fun s p => match p.body with
    | .vote g e =>
      let f := p.dst - 10000
      let x := s.field f
      some (if e < x.epoch then s
        else if x.epoch < e then s.modField f fun x => sawEpoch x e
        else if x.lease = .candidate ∧ x.down = false then countVote s f g else s)
    | _ => none
/-- R387: the crown renews every 2^22 of its own cycles. -/
def execCrownRenewal (f : Nat) (s : State) : Host.Outcome State Fault Refusal :=
  let x := s.field f
  .next (if x.acts = true ∧ x.renewAt ≤ x.cyc then
    toAll (s.modField f fun x => { x with acks := [], renewAt := x.cyc + 2 ^ 22, renewNo := x.renewNo + 1 }) f (.renew f x.epoch (x.renewNo + 1)) else s)
/-- The crown has an acknowledgement of its latest renewal; the 33rd begins its lease anew. -/
def Field.acked (x : Field) (g : Nat) : Field :=
  let acks := sadd x.acks g
  { x with acks := acks, timer := if acks.length = 33 ∧ x.acks.length < 33 then x.cyc else x.timer }
/-- A renewal or a share of the budget at a core, or a renewal's acknowledgement at the crown. -/
def execRenewal (n : Nat) (s : State) : Host.Outcome State Fault Refusal :=
  withPkt s n fun s p =>
    let g := p.dst - 10000
    let x := s.field g
    match p.body with
    | .renew f e no =>
      some (if e < x.epoch ∨ x.down = true then s
        else (s.modField g fun x =>
          let x := sawEpoch x e
          if x.lease = .follower then { x with timer := x.cyc } else x).send p.dst (fwSite f) 7 (.renewAck g e no))
    | .share _ e w => some (if e < x.epoch ∨ x.down = true then s else s.modField g fun x => { sawEpoch x e with allot := w })
    | .renewAck h e no =>
      some (if e < x.epoch ∨ x.down = true then s
        else if x.acts = true ∧ e = x.epoch then (if no = x.renewNo then s.modField g fun x => x.acked h else s)
        else s.modField g fun x => sawEpoch x e)
    | _ => none
def execCrownExpiry (f : Nat) (s : State) : Host.Outcome State Fault Refusal :=
  let x := s.field f
  .next (if x.lease = .crown ∧ x.timer + 2 ^ 23 ≤ x.cyc then s.modField f fun x => { x with lease := .follower, timer := x.cyc } else s)

-- Module links and attestation (R386, R390).
/-- R386: the two modules' crowns agree a link key. -/
def execLinkTraining (link : Nat) (s : State) : Host.Outcome State Fault Refusal :=
  .next (if link < 16 ∧ (crownOf s).isSome = true then { s.nextFresh with linkKeys := aput s.linkKeys link (Config.sm2Key s.fresh) } else s)
/-- The configuration of a partition as bytes: what it owns (Table 18.1), and the band that its fields run at. -/
def partConfig (p : Part) : List Byte :=
  let nums (l : List Nat) : List Byte := listBytes (l.flatMap (leBytes 8))
  [p.pid, p.x0, p.y0, p.w, p.h, p.band].flatMap (leBytes 8) ++ nums p.chans ++ nums p.links ++ nums p.scs
/-- R14: the defect map as bytes: for each block the positions in use and the spares that remain. -/
def defectMap (s : State) : List Byte :=
  (List.range 128).flatMap fun b =>
    let tiles := (List.range 64).map fun i => cornerOf b + 128 * (i / 8) + i % 8
    let left := ((List.range 8).map (8 * (b % 16) + ·)).filter fun c => !(takenSpares s b).contains c
    (tiles.flatMap fun t => leBytes 1 (s.tile t).px ++ leBytes 1 (s.tile t).py) ++ listBytes (left.flatMap (leBytes 1))
/-- R390: the crown's signature of a report over the firmware hashes, a free value, the defect map's hash and the configuration. -/
def execAttestationReport (pid : Nat) (s : State) : Host.Outcome State Fault Refusal :=
  .next (match s.part pid, crownOf s with
    | some p, some _ =>
      let d := Config.sm3 (wBytes (Config.freeWord s.fresh) ++ leBytes 32 (Config.sm3 (defectMap s)).toNat ++ partConfig p)
      { s.nextFresh with out := s.out ++ [HostOut.attest d (Config.sm2Sign d)] }
    | _, _ => s)

end Sys2Proof.Machine
end

