-- ==== Sys2Proof/Machine/Move.lean ====
section
/-! DEFINITION. Sys2Proof/Machine/Move.lean: moves and selects, major 0x05 (10 R206), address composition, major 0x06
(R207 to R210), and compares and predicates, major 0x08 (R211, R212). -/

namespace Sys2Proof.Machine

def execMov (ty : Ty) (d a : GP) (s : State) := op1 s d a fun _ x => extTy ty x.toNat
def execMovi (d : GP) (zx : Bool) (v : BitVec 32) (s : State) := op0 s d (immExt zx v)
def execMovh (d : G) (v : BitVec 32) (s : State) :=
  opTh s fun th => wrG th d (w64 (v.toNat * 2 ^ 32 + (rdG th d).toNat % 2 ^ 32))
/-- Both sources are read, whichever is selected (R206). -/
def execSel (ty : Ty) (d a : GP) (b : Src) (pn : P) (s : State) :=
  op2 s d a b fun th x y => extTy ty (if rdP th pn then x else y).toNat
def execSext (d a : GP) (w : BitVec 32) (s : State) := op1 s d a fun _ x => wInt (sintN w.toNat x.toNat)
def execZext (d a : GP) (w : BitVec 32) (s : State) := op1 s d a fun _ x => w64 (x.toNat % 2 ^ w.toNat)

def execLea (d : G) (m : MemX) (s : State) := opTh s fun th => wrG th d (eaX th m)
/-- R208: coordinates from B, local offset from A. -/
def gaddrWord (a b : Word) : Word := gaddrOf (fld b 8 7) (fld b 0 6) (fld a 0 44)
def execGaddr (d a b : G) (s : State) := opTh s fun th => wrG th d (gaddrWord (rdG th a) (rdG th b))
/-- Table 10.4, R209. -/
def homeWord (s : State) (t : Tile) (priv : Bool) (a : Word) : Word :=
  match resolve s t priv a aRead with
  | .error _ => w64 (2 ^ 18)
  | .ok (.edge _) => w64 (2 ^ 16)
  | .ok (.tile h _) => w64 (b2n (h == t) * 2 ^ 17 + fld a 44 7 * 2 ^ 8 + fld a 51 6)
def execHome (d a : G) (s : State) :=
  opTh s fun th => wrG th d (homeWord s s.cur.t (s.cur.c == 30) (rdG th a))
/-- R210. -/
def nbrWord (np a : Word) : Word := if bit np 63 then BitVec.allOnes 64 else gaddrOf (fld np 32 7) (fld np 40 6) (fld a 0 44)
def execNbr (d a : G) (dir : Dir) (s : State) := opTh s fun th => wrG th d (nbrWord ((s.tile s.cur.t).np dir) (rdG th a))

def execCmp (c : Cond) (ty : Ty) (d : P) (a : G) (b : GSrc) (s : State) :=
  opTh s fun th => wrP th d (cmpCond c (valTy ty (rdG th a)) (valTy ty (gsrcVal th b)))
def execTst (c : Cond) (ty : Ty) (d : P) (a : G) (b : GSrc) (s : State) :=
  opTh s fun th => wrP th d (tstCond c ((rdG th a &&& gsrcVal th b).toNat % 2 ^ tyBits ty))
def execPand (d a b : P) (s : State) := opTh s fun th => wrP th d (rdP th a && rdP th b)
def execPor (d a b : P) (s : State) := opTh s fun th => wrP th d (rdP th a || rdP th b)
def execPxor (d a b : P) (s : State) := opTh s fun th => wrP th d (xor (rdP th a) (rdP th b))
def execPnot (d a : P) (s : State) := opTh s fun th => wrP th d (!rdP th a)
def execPmov (d a : P) (s : State) := opTh s fun th => wrP th d (rdP th a)
def execPset (d : P) (v : Bool) (s : State) := opTh s fun th => wrP th d v

end Sys2Proof.Machine
end

