-- ==== Sys2Proof/Machine/ScalarFp.lean ====
section
/-! DEFINITION. Sys2Proof/Machine/ScalarFp.lean: scalar floating point, major 0x10 (10 R216 to R223). -/

namespace Sys2Proof.Machine

/-- A scalar float result and its flags, written as the instruction retires (R216, R223). -/
def fpOut (s : State) (d : G) (f : Thread → Nat × BitVec 5) : Host.Outcome State Fault Refusal :=
  .next (s.modTh fun th => orFst (wrG th d (w64 (f th).1)) (f th).2).retire
/-- The decoded value of a register operand. -/
def fvA (th : Thread) (ty : Ty) (a : G) : FV := fdec (tyFmt ty) (fregBits th ty a)
def fvB (th : Thread) (ty : Ty) (b : FSrc) : FV := fdec (tyFmt ty) (fsrcBits th ty b)

def execFadd (rm : RSel) (ty : Ty) (d a : G) (b : FSrc) (s : State) :=
  fpOut s d fun th => faddV (tyFmt ty) (rselMode th rm) (fvA th ty a) (fvB th ty b)
def execFsub (rm : RSel) (ty : Ty) (d a : G) (b : FSrc) (s : State) :=
  fpOut s d fun th => faddV (tyFmt ty) (rselMode th rm) (fvA th ty a) (fvB th ty b).neg
def execFmul (rm : RSel) (ty : Ty) (d a : G) (b : FSrc) (s : State) :=
  fpOut s d fun th => fmulV (tyFmt ty) (rselMode th rm) (fvA th ty a) (fvB th ty b)
/-- D := A × B + D with one rounding. -/
def execFfma (rm : RSel) (ty : Ty) (d a : G) (b : FSrc) (s : State) :=
  fpOut s d fun th => ffmaV (tyFmt ty) (rselMode th rm) (fvA th ty a) (fvB th ty b) (fvA th ty d)
def execFdiv (rm : RSel) (ty : Ty) (d a : G) (b : FSrc) (s : State) :=
  fpOut s d fun th => fdivV (tyFmt ty) (rselMode th rm) (fvA th ty a) (fvB th ty b)
def execFsqrt (rm : RSel) (ty : Ty) (d a : G) (s : State) :=
  fpOut s d fun th => fsqrtV (tyFmt ty) (rselMode th rm) (fvA th ty a)
def execFmin (ty : Ty) (d a : G) (b : FSrc) (s : State) :=
  fpOut s d fun th => fminmax (tyFmt ty) false (fregBits th ty a) (fsrcBits th ty b)
def execFmax (ty : Ty) (d a : G) (b : FSrc) (s : State) :=
  fpOut s d fun th => fminmax (tyFmt ty) true (fregBits th ty a) (fsrcBits th ty b)
def execFabs (ty : Ty) (d a : G) (s : State) := fpOut s d fun th => (fabsB (tyFmt ty) (fregBits th ty a), 0)
def execFneg (ty : Ty) (d a : G) (s : State) := fpOut s d fun th => (fnegB (tyFmt ty) (fregBits th ty a), 0)
def execFcmp (c : Cond) (ty : Ty) (d : P) (a : G) (b : FSrc) (s : State) : Host.Outcome State Fault Refusal :=
  .next (s.modTh fun th =>
    let r := fcond c (fvA th ty a) (fvB th ty b)
    orFst (wrP th d r.1) r.2).retire
/-- R221: the range of an integer type. -/
def tyLo (ty : Ty) : Int := if tySigned ty then -(2 ^ (tyBits ty - 1)) else 0
def tyHi (ty : Ty) : Int := if tySigned ty then 2 ^ (tyBits ty - 1) - 1 else 2 ^ tyBits ty - 1
def isF (ty : Ty) : Bool := ty == .f32 || ty == .f64
/-- R221: a conversion, the 64 bits written and the flags. -/
def fcvtBits (rm : RM) (dt st : Ty) (a : Word) : Word × BitVec 5 :=
  let src (n : Nat) : FV := fdec (tyFmt st) (a.toNat % 2 ^ n)
  if isF dt then
    let r := if isF st then fcvtF (tyFmt dt) rm (src (tyBits st)) else fcvtI (tyFmt dt) rm (valTy st a)
    (w64 r.1, r.2)
  else
    let r := fcvtToI rm (tyLo dt) (tyHi dt) (src (tyBits st))
    (extTy dt (modPow (tyBits dt) r.1), r.2)
def execFcvt (rm : RSel) (dt sty : Ty) (d a : G) (s : State) : Host.Outcome State Fault Refusal :=
  fpOut s d fun th => let r := fcvtBits (rselMode th rm) dt sty (rdG th a); (r.1.toNat, r.2)
def execFclass (ty : Ty) (d a : G) (s : State) := fpOut s d fun th => (2 ^ fclassBit (tyFmt ty) (fregBits th ty a), 0)

end Sys2Proof.Machine
end

