-- ==== Sys2Proof/Machine/SysInstr.lean ====
section
/-! DEFINITION. Sys2Proof/Machine/SysInstr.lean: system instructions, major 0x70 (13 R288 to R290, 09 R176 to R178, 15 R318). -/

namespace Sys2Proof.Machine

/-- Table 9.7: TFL; a tuber context reads every pin bit zero (R318). -/
def tflWord (s : State) (t c : Nat) : Word :=
  let x := s.ctx t c
  let lead := match x.gang with | .leading _ => true | _ => false
  let fol := match x.gang with | .following _ _ _ => true | _ => false
  let pins :=
    b2n ((s.tile t).ports.any fun e => e.2.owner == some c) * 64 + b2n (!x.pend.isEmpty) * 32 + b2n fol * 16 + b2n lead * 8 +
      b2n (!(streamsOf s t c).isEmpty) * 4 + b2n x.th.apin * 2 + b2n x.th.epin
  w64 (x.th.pspan.toNat * 2 ^ 48 + x.th.bcnt.toNat * 2 ^ 16 + (if 32 ≤ c then 0 else b2n (pins != 0) * 128 + pins))
/-- Table 9.6: the value of a special register at the tile where the thread stands. -/
def srValue (s : State) (r : Sr) : Word :=
  let t := s.cur.t
  let x := s.tile t
  let th := s.th
  match r with
  | .pc => th.pc
  | .tfl => tflWord s t s.cur.c
  | .tid => th.tid.setWidth 64
  | .hop => th.hop.setWidth 64
  | .org => if s.onTuber then w64 (x.lx * 64 + x.ly) else w64 (th.ox.toNat * 64 + th.oy.toNat)
  | .vlive => w64 (th.klive.toNat * 256 + th.vlive.toNat)
  | .fcr => th.rm.setWidth 64
  | .fst => th.fst.setWidth 64
  | .prt => x.prt
  | .tco => x.tco
  | .np d => x.np d
  | .lcyc => w64 (if s.onTuber then x.tcyc else x.lcyc)
  | .rpc i => lget x.mx.rpc i.val 0
  | .msat => x.mx.msat
  | .munf => x.mx.munf
  | .movf => x.mx.movf
  | .mcan => x.mx.mcan
  | .win n w => winWord (x.win n.val) w.val
/-- R176: window registers are c30's alone. -/
def srOk (s : State) (r : Sr) : Except Stop Unit :=
  match r with
  | .win _ _ => guardE (priv s) .sysSpace
  | _ => .ok ()
/-- R288. -/
def execSrd (d : G) (sr : Sr) (s : State) : Host.Outcome State Fault Refusal :=
  finish s (match srOk s sr with
    | .error e => .error e
    | .ok _ => .ok (s.modTh fun th => wrG th d (srValue s sr)).retire)
/-- R176, R177: the bits of a register that are reserved, and the thread after a write. -/
def srWidth : Sr → Nat | .hop => 32 | .vlive => 11 | .fcr => 2 | .fst => 5 | _ => 64
def srPut (r : Sr) (v : Word) (th : Thread) : Thread :=
  match r with
  | .hop => { th with hop := v.setWidth 32 }
  | .vlive => podLive { th with klive := BitVec.ofNat 3 (fld v 8 3), vlive := v.setWidth 8 }
  | .fcr => { th with rm := v.setWidth 2 }
  | .fst => { th with fst := v.setWidth 5 }
  | _ => th
/-- R288, R176. -/
def execSwr (sr : Sr) (a : G) (s : State) : Host.Outcome State Fault Refusal :=
  let v := rdG s.th a
  finish s (match srOk s sr with
    | .error e => .error e
    | .ok _ => match sr with
      | .win n w => (match writeWin s s.cur.t n.val w.val v with
        | .ok s => .ok s.retire
        | .error c => .error (.trap { cause := c }))
      | r => if v.toNat < 2 ^ srWidth r then .ok (s.modTh (srPut r v)).retire else .error (.trap { cause := .sreg }))
/-- R289: TRAP retires, then freezes; its packet carries its own address and word. -/
def execTrap (_code : BitVec 16) (s : State) : Host.Outcome State Fault Refusal :=
  let pc := s.th.pc
  .next (freeze (s.modMe fun c => { c with stepping := false }).retire s.cur.t s.cur.c { cause := .trap } pc s.cur.iw)
/-- R289: BKPT freezes at its own address. -/
def execBkpt (s : State) : Host.Outcome State Fault Refusal := finish s (.error (.trap { cause := .bkpt }))
/-- R290: once nothing of the thread is due, the tile's instruction cache is emptied. -/
def execIsync (s : State) : Host.Outcome State Fault Refusal :=
  let s1 := flushCtx s s.cur.t s.cur.c
  if drained s1 s.cur.t s.cur.c then .next (s1.modTile s.cur.t fun x => { x with icache := [] }).retire
  else .next (s1.modMe fun c => { c with st := .waiting, wait := .retry })

end Sys2Proof.Machine
end

