-- ==== Sys2Proof/Machine/VectorConv.lean ====
section
/-! DEFINITION. Sys2Proof/Machine/VectorConv.lean: conversion and graded forms, major 0x51 (12 R260 to R262). -/

namespace Sys2Proof.Machine

/-- R260: one element from a source type to a destination type. -/
def vConvert (rm : RM) (st dt : Ty) (x : Nat) : Nat × BitVec 5 :=
  if elFloat st then
    let v := fdec (tyFmt st) x
    if elFloat dt then fcvtF (tyFmt dt) rm v
    else let r := fcvtToI rm (elLo dt) (elHi dt) v; (modPow (elW dt) r.1, r.2)
  else if elFloat dt then fcvtI (tyFmt dt) rm (elNum st x)
  else (elFit dt true (elNum st x), 0)
/-- R260: element j of a lane replaced. -/
def elSet (w : Nat) (x : BitVec 32) (j v : Nat) : BitVec 32 :=
  BitVec.ofNat 32 (x.toNat - elAt w x j * 2 ^ (w * j) + v % 2 ^ w * 2 ^ (w * j))
/-- R260: one lane. -/
def cvtLane (rm : RM) (dt st : Ty) (part : Nat) (d a : BitVec 32) : BitVec 32 × BitVec 5 :=
  let ws := elW st
  let wd := elW dt
  if ws = wd then perEl dt (fun _ x _ => vConvert rm st dt x) d a 0
  else if ws < wd then let r := vConvert rm st dt (elAt ws a part); (BitVec.ofNat 32 r.1, r.2)
  else let r := vConvert rm st dt a.toNat; (elSet wd d part r.1, r.2)
def execVcvt (rm : RSel) (k : K) (z : Bool) (dt : Ty) (sty : Ty) (part : BitVec 2) (d : V) (a : V) (s : State) :
    Host.Outcome State Fault Refusal :=
  let th := s.th
  .next (s.modTh fun _ => putLanesM th k z d fun i =>
    cvtLane (rselMode th rm) dt sty part.toNat (lane (rdV th d) i) (lane (rdV th a) i)).retire

/-- R261: the second register of a pair. -/
def nextV (x : V) : V := Fin.ofNat 8 (x.val + 1)
/-- The 32 lanes of a pair. -/
def pairLanes (th : Thread) (a : V) : List (BitVec 32) := (rdV th a).toList ++ (rdV th (nextV a)).toList
/-- A pair written from 128 bytes. -/
def wrPair (th : Thread) (d : V) (l : List Byte) : Thread := wrV (wrV th d (bytesV (l.take 64))) (nextV d) (bytesV (l.drop 64))
/-- R261: the block's elements. -/
def qntEls (ty : Ty) (l : List (BitVec 32)) : List El :=
  l.map fun x => if ty = .f32 then fvEl (fdec f32F x.toNat) else .val (sintN 32 x.toNat) 0 false
/-- R261, R69: the scale of the block. -/
def qntScale (ty : Ty) (tier : Nat) (sc : Option Word) (els : List El) : Nat :=
  if ty = .f32 then match sc with
    | some e => fld e 0 8
    | none => derivedE els
  else 127 + tierF tier
def execVqnt (ty : Ty) (d : V) (a : V) (tier : BitVec 3) (scale : Option G) (s : State) : Host.Outcome State Fault Refusal :=
  let els := qntEls ty (pairLanes s.th a)
  let u := quantUnit tier.toNat (qntScale ty tier.toNat (scale.map (rdG s.th)) els) els
  .next (s.modTh fun th => wrPair th d (u ++ List.replicate (128 - u.length) 0)).retire

/-- R262: one element of a lane unit as binary32. -/
def dqtEl (tier E : Nat) (sig : Int) : BitVec 32 :=
  BitVec.ofNat 32 (if E = 0 then 0 else if E = 255 ∨ sig = -(2 ^ (tierS tier - 1)) then f32F.nan
    else (fround f32F .rne (decide (sig < 0)) sig.natAbs ((E : Int) - 127 - tierF tier)).1)
def execVdqt (d : V) (a : V) (tier : BitVec 3) (s : State) : Host.Outcome State Fault Refusal :=
  let u := (pairLanes s.th a).flatMap fun x => leBytes 4 x.toNat
  let l := (unitSigs tier.toNat u).flatMap fun x => leBytes 4 (dqtEl tier.toNat (unitE u) x).toNat
  .next (s.modTh fun th => wrPair th d l).retire

end Sys2Proof.Machine
end

