-- ==== Sys2Proof/Machine/VectorRed.lean ====
section
/-! DEFINITION. Sys2Proof/Machine/VectorRed.lean: reduction and permutation, major 0x52 (12 R263 to R265). -/

namespace Sys2Proof.Machine

/-- R264: one combination, with its flags. -/
def redOne (op : RedOp) (ty : Ty) (a b : Nat) : Nat × BitVec 5 :=
  match op with
  | .sum => if ty = .f32 then faddV f32F .rne (fdec f32F a) (fdec f32F b) else ((a + b) % 2 ^ 32, 0)
  | .min => elMinMax ty false a b
  | .max => elMinMax ty true a b
  | .and => (a &&& b, 0)
  | .or => (a ||| b, 0)
  | .xor => (a ^^^ b, 0)
/-- A combination of values that carry the flags met so far. -/
def redComb (op : RedOp) (ty : Ty) (a b : Nat × BitVec 5) : Nat × BitVec 5 :=
  let r := redOne op ty a.1 b.1
  (r.1, a.2 ||| b.2 ||| r.2)
/-- R264: the identity of an operation. -/
def redId (op : RedOp) (ty : Ty) : Nat :=
  match op with
  | .sum | .or | .xor => 0
  | .and => 2 ^ 32 - 1
  | .min => if ty = .f32 then f32F.inf false else modPow 32 (elHi ty)
  | .max => if ty = .f32 then f32F.inf true else modPow 32 (elLo ty)
/-- R264. -/
def redVal (op : RedOp) (ty : Ty) (k : BitVec 16) (v : VReg) : Nat × BitVec 5 :=
  reduceTree (redComb op ty) (redId op ty, 0) ((active k).map fun i => ((lane v i).toNat, 0))
def execVred (op : RedOp) (ty : Ty) (k : K) (d : G) (a : V) (s : State) : Host.Outcome State Fault Refusal :=
  let r := redVal op ty (rdK s.th k) (rdV s.th a)
  .next (s.modTh fun th => orFst (wrG th d (extTy ty r.1)) r.2).retire

/-- R265: the combination of the active lanes of a list, in order; none when there is none. -/
def scanFold (op : RedOp) (ty : Ty) (v : VReg) : List Nat → Option (Nat × BitVec 5)
  | [] => none
  | i :: r => some (r.foldl (fun acc j => redComb op ty acc ((lane v j).toNat, 0)) ((lane v i).toNat, 0))
def scanLane (op : RedOp) (ty : Ty) (excl : Bool) (k : BitVec 16) (v : VReg) (i : Nat) : BitVec 32 × BitVec 5 :=
  let r := (scanFold op ty v ((active k).filter fun j => if excl then decide (j < i) else decide (j ≤ i))).getD (redId op ty, 0)
  (BitVec.ofNat 32 r.1, r.2)
def execVscan (op : RedOp) (excl : Bool) (ty : Ty) (k : K) (z : Bool) (d : V) (a : V) (s : State) : Host.Outcome State Fault Refusal :=
  let th := s.th
  .next (s.modTh fun _ => putLanesM th k z d fun i => scanLane op ty excl (rdK th k) (rdV th a) i).retire
def execVperm (_ty : Ty) (k : K) (z : Bool) (d : V) (a : V) (b : V) (s : State) : Host.Outcome State Fault Refusal :=
  let th := s.th
  .next (s.modTh fun _ => putLanesM th k z d fun i => (lane (rdV th a) ((lane (rdV th b) i).toNat % 16), 0)).retire
/-- The value that VBCAST gives every lane. -/
def bcastVal (th : Thread) : BSrc → BitVec 32
  | .g x => (rdG th x).setWidth 32
  | .v x l => lane (rdV th x) l.toNat
def execVbcast (_ty : Ty) (k : K) (z : Bool) (d : V) (src : BSrc) (s : State) : Host.Outcome State Fault Refusal :=
  let th := s.th
  .next (s.modTh fun _ => putLanesM th k z d fun _ => (bcastVal th src, 0)).retire
def execVext (ty : Ty) (d : G) (a : V) (l : BitVec 4) (s : State) : Host.Outcome State Fault Refusal :=
  let x := lane (rdV s.th a) l.toNat
  .next (s.modTh fun th => wrG th d (if ty = .i32 then x.signExtend 64 else x.setWidth 64)).retire
def execVins (_ty : Ty) (d : V) (a : G) (l : BitVec 4) (s : State) : Host.Outcome State Fault Refusal :=
  .next (s.modTh fun th => wrV th d (setLane (rdV th d) l.toNat ((rdG th a).setWidth 32))).retire

end Sys2Proof.Machine
end

