-- ==== Sys2Proof/Machine/Dispatch.lean ====
section
/-! DEFINITION. Sys2Proof/Machine/Dispatch.lean: one meaning for each instruction and event, one arm each. -/

namespace Sys2Proof.Machine

/-- What an instruction, or an event of another agent, does to the state. -/
def exec (i : Instr) (s : State) : Host.Outcome State Fault Refusal :=
  match i with
  | .add ty d a b => Sys2Proof.Machine.execAdd ty d a b s
  | .sub ty d a b => Sys2Proof.Machine.execSub ty d a b s
  | .mul ty d a b => Sys2Proof.Machine.execMul ty d a b s
  | .mulh ty d a b => Sys2Proof.Machine.execMulh ty d a b s
  | .mulhu ty d a b => Sys2Proof.Machine.execMulhu ty d a b s
  | .div ty d a b => Sys2Proof.Machine.execDiv ty d a b s
  | .divu ty d a b => Sys2Proof.Machine.execDivu ty d a b s
  | .rem ty d a b => Sys2Proof.Machine.execRem ty d a b s
  | .remu ty d a b => Sys2Proof.Machine.execRemu ty d a b s
  | .neg ty d a => Sys2Proof.Machine.execNeg ty d a s
  | .abs ty d a => Sys2Proof.Machine.execAbs ty d a s
  | .min ty d a b => Sys2Proof.Machine.execMin ty d a b s
  | .max ty d a b => Sys2Proof.Machine.execMax ty d a b s
  | .minu ty d a b => Sys2Proof.Machine.execMinu ty d a b s
  | .maxu ty d a b => Sys2Proof.Machine.execMaxu ty d a b s
  | .and ty d a b => Sys2Proof.Machine.execAnd ty d a b s
  | .or ty d a b => Sys2Proof.Machine.execOr ty d a b s
  | .xor ty d a b => Sys2Proof.Machine.execXor ty d a b s
  | .andn ty d a b => Sys2Proof.Machine.execAndn ty d a b s
  | .orn ty d a b => Sys2Proof.Machine.execOrn ty d a b s
  | .xnor ty d a b => Sys2Proof.Machine.execXnor ty d a b s
  | .not ty d a => Sys2Proof.Machine.execNot ty d a s
  | .shl ty d a b => Sys2Proof.Machine.execShl ty d a b s
  | .shr ty d a b => Sys2Proof.Machine.execShr ty d a b s
  | .sra ty d a b => Sys2Proof.Machine.execSra ty d a b s
  | .rol ty d a b => Sys2Proof.Machine.execRol ty d a b s
  | .ror ty d a b => Sys2Proof.Machine.execRor ty d a b s
  | .clz ty d a => Sys2Proof.Machine.execClz ty d a s
  | .ctz ty d a => Sys2Proof.Machine.execCtz ty d a s
  | .popc ty d a => Sys2Proof.Machine.execPopc ty d a s
  | .brev ty d a => Sys2Proof.Machine.execBrev ty d a s
  | .bswap ty d a => Sys2Proof.Machine.execBswap ty d a s
  | .bext d a pos len => Sys2Proof.Machine.execBext d a pos len s
  | .bextu d a pos len => Sys2Proof.Machine.execBextu d a pos len s
  | .bins d a pos len => Sys2Proof.Machine.execBins d a pos len s
  | .mov ty d a => Sys2Proof.Machine.execMov ty d a s
  | .movi d zx v => Sys2Proof.Machine.execMovi d zx v s
  | .movh d v => Sys2Proof.Machine.execMovh d v s
  | .sel ty d a b pn => Sys2Proof.Machine.execSel ty d a b pn s
  | .sext d a w => Sys2Proof.Machine.execSext d a w s
  | .zext d a w => Sys2Proof.Machine.execZext d a w s
  | .lea d m => Sys2Proof.Machine.execLea d m s
  | .gaddr d a b => Sys2Proof.Machine.execGaddr d a b s
  | .home d a => Sys2Proof.Machine.execHome d a s
  | .nbr d a dir => Sys2Proof.Machine.execNbr d a dir s
  | .cmp c ty d a b => Sys2Proof.Machine.execCmp c ty d a b s
  | .tst c ty d a b => Sys2Proof.Machine.execTst c ty d a b s
  | .pand d a b => Sys2Proof.Machine.execPand d a b s
  | .por d a b => Sys2Proof.Machine.execPor d a b s
  | .pxor d a b => Sys2Proof.Machine.execPxor d a b s
  | .pnot d a => Sys2Proof.Machine.execPnot d a s
  | .pmov d a => Sys2Proof.Machine.execPmov d a s
  | .pset d v => Sys2Proof.Machine.execPset d v s
  | .br off => Sys2Proof.Machine.execBr off s
  | .brx a => Sys2Proof.Machine.execBrx a s
  | .call off => Sys2Proof.Machine.execCall off s
  | .callx a => Sys2Proof.Machine.execCallx a s
  | .ret => Sys2Proof.Machine.execRet s
  | .loop d off => Sys2Proof.Machine.execLoop d off s
  | .nop => Sys2Proof.Machine.execNop s
  | .exit => Sys2Proof.Machine.execExit s
  | .fadd rm ty d a b => Sys2Proof.Machine.execFadd rm ty d a b s
  | .fsub rm ty d a b => Sys2Proof.Machine.execFsub rm ty d a b s
  | .fmul rm ty d a b => Sys2Proof.Machine.execFmul rm ty d a b s
  | .ffma rm ty d a b => Sys2Proof.Machine.execFfma rm ty d a b s
  | .fdiv rm ty d a b => Sys2Proof.Machine.execFdiv rm ty d a b s
  | .fsqrt rm ty d a => Sys2Proof.Machine.execFsqrt rm ty d a s
  | .fmin ty d a b => Sys2Proof.Machine.execFmin ty d a b s
  | .fmax ty d a b => Sys2Proof.Machine.execFmax ty d a b s
  | .fabs ty d a => Sys2Proof.Machine.execFabs ty d a s
  | .fneg ty d a => Sys2Proof.Machine.execFneg ty d a s
  | .fcmp c ty d a b => Sys2Proof.Machine.execFcmp c ty d a b s
  | .fcvt rm dt sty d a => Sys2Proof.Machine.execFcvt rm dt sty d a s
  | .fclass ty d a => Sys2Proof.Machine.execFclass ty d a s
  | .ld ty d m => Sys2Proof.Machine.execLd ty d m s
  | .st ty d m => Sys2Proof.Machine.execSt ty d m s
  | .get ty d m => Sys2Proof.Machine.execGet ty d m s
  | .put ty d m => Sys2Proof.Machine.execPut ty d m s
  | .putc ty d m cnt inc => Sys2Proof.Machine.execPutc ty d m cnt inc s
  | .migr pn m => Sys2Proof.Machine.execMigr pn m s
  | .pin => Sys2Proof.Machine.execPin s
  | .unpin => Sys2Proof.Machine.execUnpin s
  | .vld ty k d m => Sys2Proof.Machine.execVld ty k d m s
  | .vst ty k d m => Sys2Proof.Machine.execVst ty k d m s
  | .vlds ty k sc d m b => Sys2Proof.Machine.execVlds ty k sc d m b s
  | .vsts ty k sc d m b => Sys2Proof.Machine.execVsts ty k sc d m b s
  | .vgath ty k sc d m b => Sys2Proof.Machine.execVgath ty k sc d m b s
  | .vscat ty k sc d m b => Sys2Proof.Machine.execVscat ty k sc d m b s
  | .aadd ty d m => Sys2Proof.Machine.execAadd ty d m s
  | .afadd ty d m => Sys2Proof.Machine.execAfadd ty d m s
  | .amin ty d m => Sys2Proof.Machine.execAmin ty d m s
  | .amax ty d m => Sys2Proof.Machine.execAmax ty d m s
  | .aand ty d m => Sys2Proof.Machine.execAand ty d m s
  | .aor ty d m => Sys2Proof.Machine.execAor ty d m s
  | .axor ty d m => Sys2Proof.Machine.execAxor ty d m s
  | .xadd ty d m b => Sys2Proof.Machine.execXadd ty d m b s
  | .xchg ty d m b => Sys2Proof.Machine.execXchg ty d m b s
  | .cas ty d m b => Sys2Proof.Machine.execCas ty d m b s
  | .take d m => Sys2Proof.Machine.execTake d m s
  | .tryt d pn m => Sys2Proof.Machine.execTryt d pn m s
  | .give pn m b => Sys2Proof.Machine.execGive pn m b s
  | .peek d m => Sys2Proof.Machine.execPeek d m s
  | .sete m => Sys2Proof.Machine.execSete m s
  | .feq pn m => Sys2Proof.Machine.execFeq pn m s
  | .bind pn m base len => Sys2Proof.Machine.execBind pn m base len s
  | .unbind pn m base len => Sys2Proof.Machine.execUnbind pn m base len s
  | .fenceAcq sc => Sys2Proof.Machine.execFenceAcq sc s
  | .fenceRel sc => Sys2Proof.Machine.execFenceRel sc s
  | .fenceFull sc => Sys2Proof.Machine.execFenceFull sc s
  | .cwait m b => Sys2Proof.Machine.execCwait m b s
  | .ctest pn m b => Sys2Proof.Machine.execCtest pn m b s
  | .barr rel d pn a b => Sys2Proof.Machine.execBarr rel d pn a b s
  | .bara rel d a => Sys2Proof.Machine.execBara rel d a s
  | .barw pn a b => Sys2Proof.Machine.execBarw pn a b s
  | .pref m b d inc => Sys2Proof.Machine.execPref m b d inc s
  | .lockl d pn m b => Sys2Proof.Machine.execLockl d pn m b s
  | .unlockl m b => Sys2Proof.Machine.execUnlockl m b s
  | .wback m b => Sys2Proof.Machine.execWback m b s
  | .wbinv m b => Sys2Proof.Machine.execWbinv m b s
  | .inval m b => Sys2Proof.Machine.execInval m b s
  | .spawn pn off a b => Sys2Proof.Machine.execSpawn pn off a b s
  | .spawnIndirect pn d a b => Sys2Proof.Machine.execSpawnIndirect pn d a b s
  | .spawnx pn off a b d => Sys2Proof.Machine.execSpawnx pn off a b d s
  | .join m => Sys2Proof.Machine.execJoin m s
  | .yield => Sys2Proof.Machine.execYield s
  | .lead k dir => Sys2Proof.Machine.execLead k dir s
  | .follow => Sys2Proof.Machine.execFollow s
  | .unlead => Sys2Proof.Machine.execUnlead s
  | .pclaim pn port => Sys2Proof.Machine.execPclaim pn port s
  | .pfree port => Sys2Proof.Machine.execPfree port s
  | .pcfg h a => Sys2Proof.Machine.execPcfg h a s
  | .sopen h m => Sys2Proof.Machine.execSopen h m s
  | .sclose h => Sys2Proof.Machine.execSclose h s
  | .pwait d h n => Sys2Proof.Machine.execPwait d h n s
  | .padvP h n => Sys2Proof.Machine.execPadvP h n s
  | .padvC h n => Sys2Proof.Machine.execPadvC h n s
  | .pfill d h n => Sys2Proof.Machine.execPfill d h n s
  | .pstat c d h => Sys2Proof.Machine.execPstat c d h s
  | .vpop ty d h => Sys2Proof.Machine.execVpop ty d h s
  | .vpush ty h a => Sys2Proof.Machine.execVpush ty h a s
  | .job pool m => Sys2Proof.Machine.execJob pool m s
  | .ncmd pool d m => Sys2Proof.Machine.execNcmd pool d m s
  | .mlds a b nc => Sys2Proof.Machine.execMlds a b nc s
  | .mswp => Sys2Proof.Machine.execMswp s
  | .mmul pool m => Sys2Proof.Machine.execMmul pool m s
  | .mmulg pool m => Sys2Proof.Machine.execMmulg pool m s
  | .mred pool m => Sys2Proof.Machine.execMred pool m s
  | .msto pool m => Sys2Proof.Machine.execMsto pool m s
  | .mzero b => Sys2Proof.Machine.execMzero b s
  | .mstat w d which => Sys2Proof.Machine.execMstat w d which s
  | .vadd m ty d a b => Sys2Proof.Machine.execVadd m ty d a b s
  | .vsub m ty d a b => Sys2Proof.Machine.execVsub m ty d a b s
  | .vmul m ty d a b => Sys2Proof.Machine.execVmul m ty d a b s
  | .vfma m ty d a b => Sys2Proof.Machine.execVfma m ty d a b s
  | .vfms m ty d a b => Sys2Proof.Machine.execVfms m ty d a b s
  | .vmin m ty d a b => Sys2Proof.Machine.execVmin m ty d a b s
  | .vmax m ty d a b => Sys2Proof.Machine.execVmax m ty d a b s
  | .vabs m ty d a => Sys2Proof.Machine.execVabs m ty d a s
  | .vneg m ty d a => Sys2Proof.Machine.execVneg m ty d a s
  | .vand m ty d a b => Sys2Proof.Machine.execVand m ty d a b s
  | .vor m ty d a b => Sys2Proof.Machine.execVor m ty d a b s
  | .vxor m ty d a b => Sys2Proof.Machine.execVxor m ty d a b s
  | .vshl m ty d a b => Sys2Proof.Machine.execVshl m ty d a b s
  | .vshr m ty d a b => Sys2Proof.Machine.execVshr m ty d a b s
  | .vsra m ty d a b => Sys2Proof.Machine.execVsra m ty d a b s
  | .vcmp c ty d a b => Sys2Proof.Machine.execVcmp c ty d a b s
  | .vsel k ty d a b => Sys2Proof.Machine.execVsel k ty d a b s
  | .vrcp m ty d a => Sys2Proof.Machine.execVrcp m ty d a s
  | .vrsq m ty d a => Sys2Proof.Machine.execVrsq m ty d a s
  | .vexp2 m ty d a => Sys2Proof.Machine.execVexp2 m ty d a s
  | .vlog2 m ty d a => Sys2Proof.Machine.execVlog2 m ty d a s
  | .vdiv m ty d a b => Sys2Proof.Machine.execVdiv m ty d a b s
  | .vsqrt m ty d a => Sys2Proof.Machine.execVsqrt m ty d a s
  | .vpopc m ty d a => Sys2Proof.Machine.execVpopc m ty d a s
  | .vdot4 m ty d a b => Sys2Proof.Machine.execVdot4 m ty d a b s
  | .vcvt rm k z dt sty part d a => Sys2Proof.Machine.execVcvt rm k z dt sty part d a s
  | .vqnt ty d a tier scale => Sys2Proof.Machine.execVqnt ty d a tier scale s
  | .vdqt d a tier => Sys2Proof.Machine.execVdqt d a tier s
  | .vred op ty k d a => Sys2Proof.Machine.execVred op ty k d a s
  | .vscan op excl ty k z d a => Sys2Proof.Machine.execVscan op excl ty k z d a s
  | .vperm ty k z d a b => Sys2Proof.Machine.execVperm ty k z d a b s
  | .vbcast ty k z d src => Sys2Proof.Machine.execVbcast ty k z d src s
  | .vext ty d a lane => Sys2Proof.Machine.execVext ty d a lane s
  | .vins ty d a lane => Sys2Proof.Machine.execVins ty d a lane s
  | .kand d a b => Sys2Proof.Machine.execKand d a b s
  | .kor d a b => Sys2Proof.Machine.execKor d a b s
  | .knot d a => Sys2Proof.Machine.execKnot d a s
  | .kmov f => Sys2Proof.Machine.execKmov f s
  | .kpopc d a => Sys2Proof.Machine.execKpopc d a s
  | .bscan a b d => Sys2Proof.Machine.execBscan a b d s
  | .hamm d a => Sys2Proof.Machine.execHamm d a s
  | .filt ne d a b => Sys2Proof.Machine.execFilt ne d a b s
  | .topk a b => Sys2Proof.Machine.execTopk a b s
  | .topkInit k => Sys2Proof.Machine.execTopkInit k s
  | .tkrd d m => Sys2Proof.Machine.execTkrd d m s
  | .bdot d a b c => Sys2Proof.Machine.execBdot d a b c s
  | .badd d a b c => Sys2Proof.Machine.execBadd d a b c s
  | .baxpy d a b c => Sys2Proof.Machine.execBaxpy d a b c s
  | .bfill d b c => Sys2Proof.Machine.execBfill d b c s
  | .bcopy d a c => Sys2Proof.Machine.execBcopy d a c s
  | .srd d sr => Sys2Proof.Machine.execSrd d sr s
  | .swr sr a => Sys2Proof.Machine.execSwr sr a s
  | .trap code => Sys2Proof.Machine.execTrap code s
  | .bkpt => Sys2Proof.Machine.execBkpt s
  | .isync => Sys2Proof.Machine.execIsync s
  | .illegal => Sys2Proof.Machine.execIllegal s
  | .poolexec => Sys2Proof.Machine.execPoolexec s
  | .returnTrap => Sys2Proof.Machine.execReturnTrap s
  | .returnPodSend t c => Sys2Proof.Machine.execReturnPodSend t c s
  | .podArrival n => Sys2Proof.Machine.execPodArrival n s
  | .accept n => Sys2Proof.Machine.execAccept n s
  | .refuse n => Sys2Proof.Machine.execRefuse n s
  | .contextFreeNotice n => Sys2Proof.Machine.execContextFreeNotice n s
  | .park t c => Sys2Proof.Machine.execPark t c s
  | .parkDeposit n => Sys2Proof.Machine.execParkDeposit n s
  | .chargeRelease n => Sys2Proof.Machine.execChargeRelease n s
  | .contextFill t => Sys2Proof.Machine.execContextFill t s
  | .pinSpanExpiry t c => Sys2Proof.Machine.execPinSpanExpiry t c s
  | .getRequest t => Sys2Proof.Machine.execGetRequest t s
  | .putRequest t => Sys2Proof.Machine.execPutRequest t s
  | .putcRequest t => Sys2Proof.Machine.execPutcRequest t s
  | .handlerMessage t => Sys2Proof.Machine.execHandlerMessage t s
  | .bindingQuery t => Sys2Proof.Machine.execBindingQuery t s
  | .bindingSnapshot n => Sys2Proof.Machine.execBindingSnapshot n s
  | .getReply n => Sys2Proof.Machine.execGetReply n s
  | .putAck n => Sys2Proof.Machine.execPutAck n s
  | .counterIncrement n => Sys2Proof.Machine.execCounterIncrement n s
  | .combiningFlush t e => Sys2Proof.Machine.execCombiningFlush t e s
  | .atomicFlush t => Sys2Proof.Machine.execAtomicFlush t s
  | .atomicAck n => Sys2Proof.Machine.execAtomicAck n s
  | .waitRecordDeposit n => Sys2Proof.Machine.execWaitRecordDeposit n s
  | .linkUpdate n => Sys2Proof.Machine.execLinkUpdate n s
  | .wake n => Sys2Proof.Machine.execWake n s
  | .wakeReturn n => Sys2Proof.Machine.execWakeReturn n s
  | .spawnxRecord t => Sys2Proof.Machine.execSpawnxRecord t s
  | .spawnxReply n => Sys2Proof.Machine.execSpawnxReply n s
  | .balancePeriod t => Sys2Proof.Machine.execBalancePeriod t s
  | .depthReport n => Sys2Proof.Machine.execDepthReport n s
  | .balanceShipment t => Sys2Proof.Machine.execBalanceShipment t s
  | .shipmentReply n => Sys2Proof.Machine.execShipmentReply n s
  | .edgeRequest n => Sys2Proof.Machine.execEdgeRequest n s
  | .edgeReply n => Sys2Proof.Machine.execEdgeReply n s
  | .portWord n => Sys2Proof.Machine.execPortWord n s
  | .portCredit n => Sys2Proof.Machine.execPortCredit n s
  | .leadReservation n => Sys2Proof.Machine.execLeadReservation n s
  | .gangForm t c => Sys2Proof.Machine.execGangForm t c s
  | .paneClaimGrant t h => Sys2Proof.Machine.execPaneClaimGrant t h s
  | .copyUnitFill t h => Sys2Proof.Machine.execCopyUnitFill t h s
  | .barrierPhaseComplete t u => Sys2Proof.Machine.execBarrierPhaseComplete t u s
  | .barrierTimeout t c => Sys2Proof.Machine.execBarrierTimeout t c s
  | .jobStart t kind => Sys2Proof.Machine.execJobStart t kind s
  | .jobCompletion t j => Sys2Proof.Machine.execJobCompletion t j s
  | .elementRequest n => Sys2Proof.Machine.execElementRequest n s
  | .elementReply n => Sys2Proof.Machine.execElementReply n s
  | .vc6Credit n => Sys2Proof.Machine.execVc6Credit n s
  | .collContribution t j => Sys2Proof.Machine.execCollContribution t j s
  | .collResult t j => Sys2Proof.Machine.execCollResult t j s
  | .mredContribution n => Sys2Proof.Machine.execMredContribution n s
  | .matrixStart t upset => Sys2Proof.Machine.execMatrixStart t upset s
  | .matrixComplete t => Sys2Proof.Machine.execMatrixComplete t s
  | .tuberContextFill t => Sys2Proof.Machine.execTuberContextFill t s
  | .tuberPreempt t c => Sys2Proof.Machine.execTuberPreempt t c s
  | .tuberSave t c => Sys2Proof.Machine.execTuberSave t c s
  | .bankAccessComplete t c => Sys2Proof.Machine.execBankAccessComplete t c s
  | .agedRequest t c => Sys2Proof.Machine.execAgedRequest t c s
  | .ncmdReply n => Sys2Proof.Machine.execNcmdReply n s
  | .wakeNotice n => Sys2Proof.Machine.execWakeNotice n s
  | .packetTake q => Sys2Proof.Machine.execPacketTake q s
  | .packetPrefetch q => Sys2Proof.Machine.execPacketPrefetch q s
  | .launch q j => Sys2Proof.Machine.execLaunch q j s
  | .tileVacated t li => Sys2Proof.Machine.execTileVacated t li s
  | .jobPacket q j => Sys2Proof.Machine.execJobPacket q j s
  | .graph q j => Sys2Proof.Machine.execGraph q j s
  | .graphNodeStart q j nd => Sys2Proof.Machine.execGraphNodeStart q j nd s
  | .waitPacket q j => Sys2Proof.Machine.execWaitPacket q j s
  | .signal q j => Sys2Proof.Machine.execSignal q j s
  | .barrierPacket q j => Sys2Proof.Machine.execBarrierPacket q j s
  | .launchEnd pid li => Sys2Proof.Machine.execLaunchEnd pid li s
  | .promoteExpiry q => Sys2Proof.Machine.execPromoteExpiry q s
  | .queueResetRetry q => Sys2Proof.Machine.execQueueResetRetry q s
  | .queueResetSkip q => Sys2Proof.Machine.execQueueResetSkip q s
  | .createQueue pid desc => Sys2Proof.Machine.execCreateQueue pid desc s
  | .faultPacket n => Sys2Proof.Machine.execFaultPacket n s
  | .service w t c => Sys2Proof.Machine.execService w t c s
  | .resume w t c rls => Sys2Proof.Machine.execResume w t c rls s
  | .step w t c rls => Sys2Proof.Machine.execStep w t c rls s
  | .stop w t c => Sys2Proof.Machine.execStop w t c s
  | .kill w t c => Sys2Proof.Machine.execKill w t c s
  | .relocate w t c => Sys2Proof.Machine.execRelocate w t c s
  | .pslotKill w t v => Sys2Proof.Machine.execPslotKill w t v s
  | .pslotRelocate w t v => Sys2Proof.Machine.execPslotRelocate w t v s
  | .tlbiAll w t v => Sys2Proof.Machine.execTlbiAll w t v s
  | .tlbiPage w t v => Sys2Proof.Machine.execTlbiPage w t v s
  | .windowEnable w t wn v => Sys2Proof.Machine.execWindowEnable w t wn v s
  | .windowDisable w t wn v => Sys2Proof.Machine.execWindowDisable w t wn v s
  | .windowGeometryWrite w t wn k v => Sys2Proof.Machine.execWindowGeometryWrite w t wn k v s
  | .registerWrite w t off v => Sys2Proof.Machine.execRegisterWrite w t off v s
  | .bar2Request sc pid off data len => Sys2Proof.Machine.execBar2Request sc pid off data len s
  | .createPartition r => Sys2Proof.Machine.execCreatePartition r s
  | .destroyPartition pid => Sys2Proof.Machine.execDestroyPartition pid s
  | .keyLoad pid k wrapped => Sys2Proof.Machine.execKeyLoad pid k wrapped s
  | .keyRevoke pid k unit => Sys2Proof.Machine.execKeyRevoke pid k unit s
  | .revocationDone pid k => Sys2Proof.Machine.execRevocationDone pid k s
  | .edgeSegmentKey pid seg k => Sys2Proof.Machine.execEdgeSegmentKey pid seg k s
  | .peerSegment pid seg link tgt => Sys2Proof.Machine.execPeerSegment pid seg link tgt s
  | .groupTableWrite t ix v => Sys2Proof.Machine.execGroupTableWrite t ix v s
  | .loadImage pid image places => Sys2Proof.Machine.execLoadImage pid image places s
  | .setParameter t p v => Sys2Proof.Machine.execSetParameter t p v s
  | .setBudget w => Sys2Proof.Machine.execSetBudget w s
  | .retireTile t => Sys2Proof.Machine.execRetireTile t s
  | .linkReset a b => Sys2Proof.Machine.execLinkReset a b s
  | .linkRetry a b => Sys2Proof.Machine.execLinkRetry a b s
  | .routerFailure f => Sys2Proof.Machine.execRouterFailure f s
  | .retentionEntry t a => Sys2Proof.Machine.execRetentionEntry t a s
  | .retentionExit t a => Sys2Proof.Machine.execRetentionExit t a s
  | .scrub t sector => Sys2Proof.Machine.execScrub t sector s
  | .coolingFault => Sys2Proof.Machine.execCoolingFault s
  | .coolingClear => Sys2Proof.Machine.execCoolingClear s
  | .thermalStop => Sys2Proof.Machine.execThermalStop s
  | .budgetShare demand => Sys2Proof.Machine.execBudgetShare demand s
  | .leaseTimeout f => Sys2Proof.Machine.execLeaseTimeout f s
  | .candidateTimeout f => Sys2Proof.Machine.execCandidateTimeout f s
  | .voteRequest n => Sys2Proof.Machine.execVoteRequest n s
  | .vote n => Sys2Proof.Machine.execVote n s
  | .crownRenewal f => Sys2Proof.Machine.execCrownRenewal f s
  | .renewal n => Sys2Proof.Machine.execRenewal n s
  | .crownExpiry f => Sys2Proof.Machine.execCrownExpiry f s
  | .linkTraining link => Sys2Proof.Machine.execLinkTraining link s
  | .bringUp spares bands reduced => Sys2Proof.Machine.execBringUp spares bands reduced s
  | .prefFillComplete t ix => Sys2Proof.Machine.execPrefFillComplete t ix s
  | .abortJob t j => Sys2Proof.Machine.execAbortJob t j s
  | .peerWakeStore link addr v => Sys2Proof.Machine.execPeerWakeStore link addr v s
  | .attestationReport pid => Sys2Proof.Machine.execAttestationReport pid s

end Sys2Proof.Machine
end

