-- ==== Sys2Proof/Machine/Sched.lean ====
section
/-! DEFINITION. Sys2Proof/Machine/Sched.lean: issue (08 R149, R150, 09 R168, R182, 15 R316), gangs' forwarding (08 R160,
R161), and the agents of the module, one act of one agent at a time (log 3). -/

namespace Sys2Proof.Machine

/-- The outcome of a step. -/
abbrev Out' := Host.Outcome State Fault Refusal

/-- R14, R23: a tile whose field is down or whose partition has stopped does nothing. -/
def alive (s : State) (t : Nat) : Bool :=
  !(s.field (fieldOf t)).down && !(match s.part (s.tile t).pid with | some p => p.halted | none => false)

/-- R226: whether a pending destination covers a register the instruction names. -/
def interlocked (x : Ctx) (i : Instr) : Bool :=
  let due := x.pend.flatMap fun p => destRegs p.dest
  (regsOf i).any fun r => due.contains r
/-- R168: whether the guard predicate is pending. -/
def guardPending (x : Ctx) (p : P) : Bool := x.pend.any fun q => (destRegs q.dest).contains (2, p.val)

/-- A selected context that may not issue yet stays where it is. -/
def stall (s : State) (t c : Nat) : Out' := .next (s.modCtx t c fun x => { x with st := .waiting, wait := .retry })

/-- R149: an issue begins: the context runs until its next eligible cycle, and other contexts' yields end. -/
def beginIssue (s : State) (t c : Nat) (w : BitVec 96) (h : Hdr) : State :=
  let x := s.tile t
  let now := if 32 ≤ c then x.tcyc else x.lcyc
  let side (k : Nat) : Bool := decide (32 ≤ k) == decide (32 ≤ c)
  let ctxs := x.ctxs.map fun (e : Nat × Ctx) =>
    if e.1 = c then (e.1, { e.2 with st := .running, wait := .none, iw := w, nextOk := now + max 4 h.st.toNat, yieldSkip := h.yld })
    else if side e.1 then (e.1, { e.2 with yieldSkip := false }) else e
  { s.setTile t { x with ctxs := ctxs } with cur := ⟨t, c, w⟩ }

/-- R182 after decoding, and R168: profile, guard, interlock, meaning. ctl is the leader's outcome for a follower. -/
def issueInstr (s : State) (t c : Nat) (w : BitVec 96) (ctl : Option Bool) : Out' :=
  let s := { s with cur := ⟨t, c, w⟩ }
  match decodeWord w with
  | .pool => exec .poolexec (beginIssue s t c w Hdr.plain)
  | .illegal => exec .illegal (beginIssue s t c w Hdr.plain)
  | .instr h i =>
    let bank := w.extractLsb' 88 8 == 0x60#8
    if bank && decide (c < 32) then exec .illegal (beginIssue s t c w h)
    else if decide (32 ≤ c) && !inProfile i then exec .returnTrap (beginIssue s t c w h)
    else if guardPending (s.ctx t c) h.gp then stall s t c
    else
      let g := match ctl with
        | some l => if isControl i || actsOnce i then l else xor (rdP (s.ctx t c).th h.gp) h.gn
        | none => xor (rdP (s.ctx t c).th h.gp) h.gn
      if !g then .next (beginIssue s t c w h).retire
      else if interlocked (s.ctx t c) i then stall s t c
      else exec i (beginIssue s t c w h)

/-- A state's follow-up, where the outcome is a next state. -/
def Out'.andThen (o : Out') (f : State → State) : Out' :=
  match o with
  | .next s => .next (f s)
  | .fault r => .fault r
  | .refused r => .refused r

/-- R160: the instruction that the leader has issued goes into every follower's queue with its outcome, unless it acts
once for the gang, faulted, or is to issue again (log 30). LEAD and FOLLOW, which raise GANG at each follower, go there though they fault
at the leader. An UNLEAD or EXIT whose guard is false passes in every follower too. -/
def forward (t c : Nat) (before : State) (w : BitVec 96) (after : State) : State :=
  match (before.ctx t c).gang, (after.ctx t c).gang with
  | .leading l, .leading _ =>
    let x := after.ctx t c
    let pc := (before.ctx t c).th.pc
    let again := x.th.pc == pc && (x.st == .frozen || (x.st == .waiting && x.wait == .retry))
    match decodeWord w with
    | .instr h i =>
      let live := xor (rdP (before.ctx t c).th h.gp) h.gn
      if (again && !gangWord i) || (actsOnce i && live) then after
      else
        let next := if x.st = .waiting ∨ x.st = .frozen then pc + 12 else x.th.pc
        l.foldl (fun s f => s.modCtx f 29 fun y =>
          { y with fq := y.fq ++ [⟨w, pc, next, live⟩], st := (if y.st = .waiting ∧ y.wait = .none then .ready else y.st) }) after
    | _ => after
  | _, _ => after

/-- One issue of a context: stops at a boundary first (R161, R365), then fetch or the follower's queue. -/
def issueCtx (s : State) (t c : Nat) : Out' :=
  let x := s.ctx t c
  let s := { s with cur := ⟨t, c, 0⟩ }
  match x.gang with
  | .following _ _ _ =>
    match x.fq with
    | [] => .next s
    | f :: _ =>
      let s := s.modCtx t c fun x => { x with th := { x.th with pc := f.pc } }
      issueInstr s t c f.iw (some f.live)
  | .leading l =>
    if x.stopReq then .next (freeze s t c { cause := .gangStop } x.th.pc 0)
    else if l.any fun f => decide (16 ≤ (s.ctx f 29).fq.length) then .next s
    else match fetchTile s t c x.th.pc with
      | .error e => finish (beginIssue s t c 0 Hdr.plain) (.error e)
      | .ok (s1, w) => (issueInstr s1 t c w none).andThen (forward t c s w)
  | _ =>
    if 32 ≤ c then
      match fetchTuber s t x.th.pc with
      | .error e => finish (beginIssue s t c 0 Hdr.plain) (.error e)
      | .ok (s, w) => issueInstr s t c w none
    else
      match fetchTile s t c x.th.pc with
      | .error e => finish (beginIssue s t c 0 Hdr.plain) (.error e)
      | .ok (s, w) => issueInstr s t c w none

/-- R148, R149: whether a context may be selected at a cycle. -/
def mayIssue (x : Ctx) (now : Nat) : Bool := x.st == .ready && decide (x.nextOk ≤ now)

-- What a cycle changes of the contexts' states (Tables 8.3 and 15.3).
/-- The clock of a context's core. -/
def clockOf (x : TileSt) (c : Nat) : Nat := if 32 ≤ c then x.tcyc else x.lcyc
/-- Table 8.3: whether the instruction of a context that tests a condition when it issues would wait again. -/
def waitsStill (s : State) (t c : Nat) : Bool :=
  match issueCtx (s.modCtx t c fun x => { x with st := .ready, wait := .none }) t c with
  | .next u => (u.ctx t c).st == .waiting && (u.ctx t c).wait == .retry && (u.ctx t c).th.pc == (s.ctx t c).th.pc
  | _ => false
/-- Table 8.3: a running context is ready at its next eligible cycle, and a waiting one when its condition is met. A follower with
nothing forwarded waits, and stops when its gang does (R161). -/
def settleCtx (t : Nat) (s : State) (c : Nat) : State :=
  let x := s.ctx t c
  match x.st, x.wait with
  | .waiting, .retry => if waitsStill s t c then s else s.modCtx t c fun x => { x with st := .ready, wait := .none }
  | .waiting, .dcmd h d => if dcmdDue s h d then s else retireNext s t c
  | .waiting, .none | .ready, _ | .running, _ =>
    (match x.gang, x.fq with
    | .following _ _ _, [] =>
      if x.stopReq then freeze s t c { cause := .gangStop } x.th.pc 0 else s.modCtx t c fun x => { x with st := .waiting, wait := .none }
    | _, _ => if x.st = .running ∧ x.nextOk ≤ clockOf (s.tile t) c then s.modCtx t c fun x => { x with st := .ready } else s)
  | _, _ => s
/-- R149: a context's yield ends when no other context of its core is ready. -/
def clearYield (s : State) (t : Nat) (tub : Bool) : State :=
  let x := s.tile t
  let here (c : Nat) : Bool := decide (32 ≤ c) == tub
  let alone (c : Nat) : Bool := !x.ctxs.any fun e => here e.1 && e.1 != c && e.2.st == .ready
  let ends (e : Nat × Ctx) : Bool := here e.1 && e.2.yieldSkip && alone e.1
  if x.ctxs.any ends then s.setTile t { x with ctxs := x.ctxs.map fun e => if ends e then (e.1, { e.2 with yieldSkip := false }) else e } else s
/-- The contexts of a tile core, or of a tuber core. -/
def cycleCtxs (s : State) (t : Nat) (tub : Bool) : State :=
  clearYield ((((s.tile t).ctxs.map (·.1)).filter fun c => decide (32 ≤ c) == tub).foldl (settleCtx t) s) t tub

/-- R149: the first context in turn that may issue and does not yield. -/
def selectCtx (x : TileSt) (base n ptr now : Nat) : Option Nat :=
  let turn := (List.range n).map fun i => (ptr + i) % n
  let may (k : Nat) : Bool := match afind x.ctxs (base + k) with | some y => mayIssue y now | none => false
  let skips (k : Nat) : Bool := match afind x.ctxs (base + k) with | some y => y.yieldSkip | none => false
  turn.find? fun k => may k && !skips k

/-- n cycles pass at a core: the queues' ages count from the cycle in which they pass (16 R353), and the contexts whose eligible cycle has
come are ready. -/
def passCore (t n : Nat) (s : State) : State :=
  let s := if alive s t then refreshSince s t else s
  let s := s.modTile t fun x => { x with lcyc := x.lcyc + n }
  if alive s t then cycleCtxs s t false else s
/-- R327: the tuber cycles until the request of a context has waited 512. -/
def agesIn (s : State) (t : Nat) : Option Nat :=
  (s.tile t).ctxs.foldl (fun m e => match e.2.st, e.2.wait, e.2.tub.prog with
    | .waiting, .bank, some p => let n := p.asked + 512 - (s.tile t).tcyc
      some (match m with | some k => min k n | none => n)
    | _, _, _ => m) none
/-- n tuber cycles pass. A request that has waited 512 of them takes its bank's next slot, before any other access of the tile (R327). -/
def passTuberBy (t : Nat) : Nat → Nat → State → State
  | 0, n, s => s.modTile t fun x => { x with tcyc := x.tcyc + n }
  | k + 1, n, s =>
    match (if alive s t then agesIn s t else none) with
    | some m =>
      if m ≤ n then passTuberBy t k (n - m) (serveAged (s.modTile t fun x => { x with tcyc := x.tcyc + m }) t)
      else s.modTile t fun x => { x with tcyc := x.tcyc + n }
    | none => s.modTile t fun x => { x with tcyc := x.tcyc + n }
def passTuber (t n : Nat) (s : State) : State :=
  let s := passTuberBy t (n + 1) n s
  if alive s t then cycleCtxs s t true else s

/-- R149: one tile cycle. -/
def coreCycle (s : State) (t : Nat) : Out' :=
  let up := alive s t
  let s := if up then cycleCtxs s t false else s
  let x := s.tile t
  match (if up then selectCtx x 0 32 x.ptr x.lcyc else none) with
  | some c => (issueCtx (s.setTile t { x with ptr := (c + 1) % 32 }) t c).andThen (passCore t 1)
  | none => .next (passCore t 1 s)

/-- R316: one tuber cycle. -/
def tuberCycle (s : State) (t : Nat) : Out' :=
  let up := alive s t
  let s := if up then cycleCtxs s t true else s
  let x := s.tile t
  match (if up then selectCtx x 32 8 x.tptr x.tcyc else none) with
  | some c => (issueCtx (s.setTile t { x with tptr := (c + 1) % 8 }) t (32 + c)).andThen (passTuber t 1)
  | none => .next (passTuber t 1 s)

/-- R158: the cycles that may pass at a core before a context is to be selected; none where no context will be. -/
def idleCycles (x : TileSt) (tub : Bool) : Option Nat :=
  x.ctxs.foldl (fun m (e : Nat × Ctx) =>
    if decide (32 ≤ e.1) == tub && (e.2.st == .ready || e.2.st == .running) then
      let n := e.2.nextOk - clockOf x e.1
      some (match m with | some k => min k n | none => n)
    else m) none
/-- R158: cycles pass while nothing may issue, at most n. -/
def tickTile (s : State) (t n : Nat) : State :=
  let up := alive s t
  let s := if up then cycleCtxs (cycleCtxs s t false) t true else s
  let room (tub : Bool) : Nat := if up then min n ((idleCycles (s.tile t) tub).getD n) else n
  passTuber t (room true) (passCore t (room false) s)

/-- Cycles pass until a context may issue, and the cycle runs if that context is the named one (R149). -/
def issueNamed (s : State) (t c : Nat) : Out' :=
  let tub := decide (32 ≤ c)
  if !alive s t then .next s
  else
    let s := cycleCtxs s t tub
    let n := (idleCycles (s.tile t) tub).getD 0
    let s := if tub then passTuber t n s else passCore t n s
    let x := s.tile t
    if tub then (if selectCtx x 32 8 x.tptr x.tcyc = some (c - 32) then tuberCycle s t else .next s)
    else if selectCtx x 0 32 x.ptr x.lcyc = some c then coreCycle s t else .next s

/-- R94: the home's handler queue takes a packet of VC3 while it has room. -/
def enqPacket (s : State) (n : Nat) : State :=
  match deliverable s n with
  | some p =>
    if p.vc = 3 ∧ p.dst < 8192 ∧ (s.tile p.dst).hq.length < 64 then
      (s.dropPkt n).modTile p.dst fun x => { x with hq := x.hq ++ [p] }
    else s
  | none => s

/-- R58, R417: a soft error strikes: an uncorrectable error in a stored word stays latent until an access meets it. -/
def strike (s : State) (a : Nat) : State := { s with latent := sadd s.latent a }
/-- R58, 06 R126: one in a word as the vault holds it beneath a dirty line. -/
def strikeBeneath (s : State) (t a : Nat) : State :=
  let line := a % 2 ^ 27 / 16
  match afind (s.tile t).dirty line with
  | some d => s.modTile t fun x => { x with dirty := aput x.dirty line { d with latent := sadd d.latent (vKey t 0 / 8 + a % 2 ^ 27) } }
  | none => strike s (vKey t 0 / 8 + a % 2 ^ 27)
/-- R58: a register parity error of an occupied context. -/
def regStrike (s : State) (t c : Nat) : State :=
  match (s.ctx t c).st with
  | .ready | .running | .waiting => freeze s t c { cause := .regParity } (s.ctx t c).th.pc 0
  | _ => s

/-- R14, R23: whether a site takes packets. -/
def siteAlive (s : State) (d : Nat) : Bool :=
  if d < 8192 then alive s d
  else if d < 20000 then !(s.field (d - 10000)).down
  else if 30000 ≤ d ∧ d < 40000 then alive s (cornerOf ((d - 30000) % 128))
  else true
/-- R14, R23: whether what a packet brings is served: its site is, and at the wafer's edge its partition. -/
def arrives (s : State) (p : Packet) : Bool :=
  siteAlive s p.dst && (p.dst < 20000 || match p.body with
    | .edge r _ _ _ => alive s r.t
    | .elem t _ _ _ _ => alive s t
    | _ => true)

-- The way of edge traffic outside the mesh (01 R17).
/-- R123: whether an edge request of the same tile that shares a granule with one has still to be performed, beyond the spokes. -/
def edgeAhead (s : State) (p : Packet) : Bool :=
  let clash (q : Packet) : Bool := match q.body, p.body with
    | .edge r _ _ _, .edge r' _ _ _ => r.t == r'.t && edgeClash q.body p.body
    | _, _ => false
  (s.net.any fun q => decide (40000 ≤ q.src) && clash q) || s.ioq.any fun e => e.2.any clash
/-- R17: a packet at its block's corner tile takes the spoke to the crescent of its quadrant, into its partition's own queue there; a
request takes a credit of the partition's pool. -/
def takeSpoke (n : Nat) (s : State) : Out' :=
  match deliverable s n with
  | none => .next s
  | some p =>
    let pid := (s.tile p.src).pid
    let cr := quadOf p.src
    if edgeAhead s p ∨ (ioAsks p.body = true ∧ ioPool ≤ ioUsed s pid) then .next s
    else .next ((s.dropPkt n).setIo pid cr (s.ioQueue pid cr ++ [{ p with dst := edgeSite ((p.dst - 30000) / 128) }]))
/-- R17: the next switch of the ring, north to east to south to west (log 95). -/
def nextSwitch (cr : Nat) : Nat := match cr with | 0 => 1 | 1 => 3 | 3 => 2 | _ => 0
/-- R17: the crescent at which a packet leaves the ring: its edge channel's, or that of the quadrant of the tile it goes to. -/
def leavesAt (p : Packet) : Nat := if p.dst < 8192 then quadOf p.dst else crescentOf (p.dst - 20000)
/-- R17: the next slot of the ring passes a crescent's switch. Slot k of 64 is partition k's share, which no other uses (log 95); it takes
the head of the partition's queue along the ring. -/
def ringPass (s : State) (cr : Nat) : State :=
  let pid := aget s.ringSlot cr 0
  let s := { s with ringSlot := aput s.ringSlot cr ((pid + 1) % 64) }
  match s.ioQueue pid cr with
  | [] => s
  | p :: r => if leavesAt p = cr then s else let s := s.setIo pid cr r; s.setIo pid (nextSwitch cr) (s.ioQueue pid (nextSwitch cr) ++ [p])
/-- R17: the head of a partition's queue in a crescent's switch leaves for its edge channel, module link or service core, or by the spoke
of the block of its tile. -/
def ioLeave (s : State) (pid cr : Nat) : State :=
  match s.ioQueue pid cr with
  | [] => s
  | p :: r =>
    if leavesAt p ≠ cr then s
    else
      let src := if p.dst < 8192 then ioSite p.dst (p.src - 20000) else switchSite cr
      { s.setIo pid cr r with net := s.net ++ [{ p with src := src }] }
/-- Whether a head of a queue in a crescent's switch waits for its slot of the ring. -/
def ringWaits (s : State) (cr : Nat) : Bool :=
  s.ioq.any fun e => e.1 % 4 == cr && match e.2 with | p :: _ => leavesAt p != cr | [] => false

/-- The event of a packet's kind. -/
def arrival (p : Packet) : Nat → State → Out' :=
  match p.body with
  | .pod _ _ _ _ => execPodArrival
  | .accept _ | .acceptSlot _ => execAccept
  | .refuse _ | .refuseSlot _ => execRefuse
  | .freeNotice => execContextFreeNotice
  | .parkDeposit _ _ _ _ => execParkDeposit
  | .chargeRelease _ => execChargeRelease
  | .get _ _ | .put _ _ _ | .putc _ _ _ _ _ | .msg _ _ _ | .bquery _ _ | .flush _ | .spawnx _ _ | .ship _ =>
    fun n s => .next (enqPacket s n)
  | .bsnap _ _ => execBindingSnapshot
  | .data _ _ | .bad _ _ false => if p.src < 20000 then execGetReply else execEdgeReply
  | .ack _ | .bad _ _ true => if p.src < 20000 then execPutAck else execEdgeReply
  | .incr _ _ _ _ | .incrFor _ _ _ => execCounterIncrement
  | .incrBad _ _ => execPutAck
  | .atomicAck _ => execAtomicAck
  | .waitDeposit _ _ => execWaitRecordDeposit
  | .link _ _ _ => execLinkUpdate
  | .wake _ _ => execWake
  | .wakeRet _ _ => execWakeReturn
  | .spawnxRe _ _ => execSpawnxReply
  | .depth _ => execDepthReport
  | .shipRe _ => execShipmentReply
  | .edge _ _ _ _ => execEdgeRequest
  | .portWord _ _ => execPortWord
  | .portCredit _ => execPortCredit
  | .lead _ _ _ _ | .leadRe _ _ => execLeadReservation
  | .elem _ _ _ _ _ => execElementRequest
  | .elemRe _ _ _ => execElementReply
  | .credit _ => execVc6Credit
  | .coll g _ _ true _ => fun _ s => execCollContribution p.dst g s
  | .coll g _ _ false _ => fun _ s => execCollResult p.dst g s
  | .mred _ _ _ _ _ _ _ _ | .mredRe _ _ => execMredContribution
  | .ncmdRe _ _ _ => execNcmdReply
  | .wakeNotice _ => execWakeNotice
  | .faultPkt _ _ _ => execFaultPacket
  | .launchDone pid no => fun _ s => execLaunchEnd pid (no % 64) s
  | .voteReq _ _ => execVoteRequest
  | .vote _ _ => execVote
  | .renew _ _ _ | .renewAck _ _ _ | .share _ _ _ => execRenewal
  | .host _ _ | .hostRe _ _ => fun n s => hostArrive s n
  | .peerIn _ _ | .peerOut _ _ => fun n s => peerArrive s n

/-- Packet n arrives: the event of its kind, or its place in a handler queue (R94). -/
def deliverAct (s : State) (n : Nat) : Out' :=
  match deliverable s n with
  | none => .next s
  | some p =>
    if !arrives s p then .next s
    else if 30000 ≤ p.dst ∧ p.dst < 40000 then takeSpoke n s
    else arrival p n s

/-- The event of a request's kind at its home's handler (Table 5.5). -/
def service (b : Body) : Nat → State → Out' :=
  match b with
  | .get _ _ => execGetRequest
  | .put _ _ _ => execPutRequest
  | .putc _ _ _ _ _ => execPutcRequest
  | .msg _ _ _ => execHandlerMessage
  | .bquery _ _ => execBindingQuery
  | .flush _ => execAtomicFlush
  | .spawnx _ _ => execSpawnxRecord
  | .ship _ => execBalanceShipment
  | _ => fun t s => .next (s.modTile t fun x => { x with hq := x.hq.drop 1 })
/-- The head of a handler queue is served. -/
def serveAct (s : State) (t : Nat) : Out' :=
  match (s.tile t).hq with
  | [] => .next s
  | p :: _ => if alive s t then service p.body t s else .next s

/-- The events of a tile's context that wait for a condition only. -/
def ctxEvents (t c : Nat) : List (State → Out') :=
  [execBankAccessComplete t c, (fun s => .next (lineStep s t c)), execGangForm t c, execBarrierTimeout t c, execPark t c, execPinSpanExpiry t c, execReturnPodSend t c,
   execTuberPreempt t c, execTuberSave t c]
/-- Those of a tile. -/
def tileEvents (t : Nat) (x : TileSt) : List (State → Out') :=
  [fun s => serveAct s t] ++ (x.ctxs.flatMap fun e => ctxEvents t e.1) ++
  (x.panes.flatMap fun e => [execPaneClaimGrant t (Fin.ofNat 16 e.1), execCopyUnitFill t (Fin.ofNat 16 e.1)]) ++
  [execBarrierPhaseComplete t 0, execBarrierPhaseComplete t 1] ++
  ((List.range x.comb.length).map fun i => execCombiningFlush t i) ++
  ((List.range x.prefs.length).map fun i => execPrefFillComplete t i) ++
  (x.groups.flatMap fun e => [execCollContribution t e.1, execCollResult t e.1]) ++ (x.jobs.map fun j => execJobCompletion t j.order) ++
  (if x.jobs.isEmpty then [] else [execJobStart t 0, execJobStart t 1, execJobStart t 2, execJobStart t 3]) ++
  [execMatrixStart t [], execMatrixComplete t, execContextFill t, execTuberContextFill t, execBalancePeriod t]
/-- Those of the command processors (16 R343). -/
def queueEvents (q : Nat) (x : Queue) : List (State → Out') :=
  [execPacketTake q, execPromoteExpiry q] ++
  x.pkts.flatMap fun p =>
    [execLaunch q p.num, execJobPacket q p.num, execWaitPacket q p.num, execSignal q p.num, execBarrierPacket q p.num, execGraph q p.num] ++
    (List.range p.nodes.length).map fun k => execGraphNodeStart q p.num k
/-- Those of the rectangles held against victims (17 R373). -/
def heldEvents (s : State) (p : Part) : List (State → Out') :=
  p.launches.flatMap fun e => if e.2.holds then ((p.rectTiles e.2.rect).filter (alive s)).map fun t => execTileVacated t e.1 else []
/-- Those of the firmware cores (18 R387). -/
def fieldEvents (f : Nat) : List (State → Out') := [execLeaseTimeout f, execCandidateTimeout f, execCrownRenewal f, execCrownExpiry f]
/-- Every event that may be due, in a fixed order (log 3). -/
def dueEvents (s : State) : List (State → Out') :=
  ((List.range s.net.length).map fun n s => deliverAct s n) ++
  (s.tiles.flatMap fun e => if alive s e.1 then tileEvents e.1 e.2 else []) ++
  (s.ioq.map fun e s => .next (ioLeave s (e.1 / 4) (e.1 % 4))) ++
  (((List.range 4).filter (ringWaits s)).map fun c s => .next (ringPass s c)) ++
  (s.hostReqs.map fun r s => .next (hostSend s r.sc)) ++ (s.frameq.map fun e s => .next (frameOut s e.1)) ++ (s.queues.flatMap fun e => queueEvents e.1 e.2) ++ (s.parts.flatMap fun e => heldEvents s e.2) ++
  (s.fields.flatMap fun e => fieldEvents e.1)
/-- An event that changes the state. -/
def happens (s : State) (f : State → Out') : Option Out' :=
  match f s with
  | .next t => if t = s then none else some (.next t)
  | o => some o
/-- Whether a core has an occupied context: a tile core, or a tuber core. -/
def busySide (x : TileSt) (tub : Bool) : Bool := x.ctxs.any fun e => decide (32 ≤ e.1) == tub && e.2.st != .free
/-- The live cores with their clocks. -/
def clocks (s : State) : List (Nat × Nat × Bool) :=
  s.tiles.flatMap fun e =>
    if alive s e.1 then
      (if busySide e.2 false then [(e.2.lcyc, e.1, false)] else []) ++ (if busySide e.2 true then [(e.2.tcyc, e.1, true)] else [])
    else []
/-- The core whose clock is the least, the first on a tie. -/
def lagging : List (Nat × Nat × Bool) → Option (Nat × Nat × Bool)
  | [] => none
  | e :: r => match lagging r with
    | some f => if e.1 ≤ f.1 then some e else some f
    | none => some e
/-- Who moves when the agenda names nobody (log 3): bring-up first, then the first event that is due, then one cycle of
the core whose clock is the least. -/
def defaultTurn (s : State) : Out' :=
  if !s.up then execBringUp ⟨[], []⟩ [] ⟨[], []⟩ s
  else match (dueEvents s).findSome? (happens s) with
    | some o => o
    | none => match lagging (clocks s) with
      | some (_, t, false) => coreCycle s t
      | some (_, t, true) => tuberCycle s t
      | none => .next s

/-- R14, R23: whether the site of packet n, and the processor of queue q, act. -/
def packetUp (s : State) (n : Nat) : Bool := match s.net[n]? with | some p => arrives s p | none => true
def queueUp (s : State) (q : Nat) : Bool :=
  match s.queue q with
  | some x => (match s.part x.pid with | some p => procUp s p x | none => true)
  | none => true
def writerUp (s : State) (w : Writer) : Bool := match w with | .ctx t _ => alive s t | _ => true
/-- R14, R23: whether the agent of an event acts: its partition has not stopped, and its field is up. -/
def actorUp (s : State) (i : Instr) : Bool :=
  match i with
  | .returnPodSend t _ | .park t _ | .contextFill t | .pinSpanExpiry t _ | .getRequest t | .putRequest t | .putcRequest t | .handlerMessage t
  | .bindingQuery t | .combiningFlush t _ | .atomicFlush t | .spawnxRecord t | .balancePeriod t | .balanceShipment t | .gangForm t _
  | .paneClaimGrant t _ | .copyUnitFill t _ | .barrierPhaseComplete t _ | .barrierTimeout t _ | .jobStart t _ | .jobCompletion t _
  | .collContribution t _ | .collResult t _ | .matrixStart t _ | .matrixComplete t | .tuberContextFill t | .tuberPreempt t _ | .tuberSave t _
  | .bankAccessComplete t _ | .agedRequest t _ | .prefFillComplete t _ | .abortJob t _ | .retentionEntry t _ | .retentionExit t _ | .scrub t _
  | .tileVacated t _ => alive s t
  | .podArrival n | .accept n | .refuse n | .contextFreeNotice n | .parkDeposit n | .chargeRelease n | .bindingSnapshot n | .getReply n | .putAck n
  | .counterIncrement n | .atomicAck n | .waitRecordDeposit n | .linkUpdate n | .wake n | .wakeReturn n | .spawnxReply n | .depthReport n
  | .shipmentReply n | .edgeRequest n | .edgeReply n | .portWord n | .portCredit n | .leadReservation n | .elementRequest n | .elementReply n
  | .vc6Credit n | .mredContribution n | .ncmdReply n | .wakeNotice n | .faultPacket n | .voteRequest n | .vote n | .renewal n => packetUp s n
  | .packetTake q | .packetPrefetch q | .launch q _ | .jobPacket q _ | .graph q _ | .graphNodeStart q _ _ | .waitPacket q _ | .signal q _
  | .barrierPacket q _ | .promoteExpiry q | .queueResetRetry q | .queueResetSkip q => queueUp s q
  | .service w _ _ | .resume w _ _ _ | .step w _ _ _ | .stop w _ _ | .kill w _ _ | .relocate w _ _ | .pslotKill w _ _ | .pslotRelocate w _ _
  | .tlbiAll w _ _ | .tlbiPage w _ _ | .windowEnable w _ _ _ | .windowDisable w _ _ _ | .windowGeometryWrite w _ _ _ _
  | .registerWrite w _ _ _ => writerUp s w
  | .leaseTimeout f | .candidateTimeout f | .crownRenewal f | .crownExpiry f => !(s.field f).down
  | _ => true

/-- What one entry of the agenda does. -/
def runAct (s : State) (a : Act) : Out' :=
  match a with
  | .core t => coreCycle s t
  | .tuber t => tuberCycle s t
  | .issue t c => issueNamed s t c
  | .event i =>
    match i with
    | .illegal | .poolexec | .returnTrap => .next s
    | .bar2Request sc pid off data len => .next (hostTake s sc pid off data len)
    | .peerWakeStore link a v =>
      (match s.net.findIdx? fun p => p.body == .peerIn link (.wake a v) with
      | some n => deliverAct s n
      | none => .next s)
    | i => if (encodeFields i).isSome || !actorUp s i then .next s else exec i s
  | .enq n => .next (if packetUp s n then enqPacket s n else s)
  | .deliver n => deliverAct s n
  | .serve t => serveAct s t
  | .tick t n => .next (tickTile s t n)
  | .fwTick ds => .next (fwTick s ds)
  | .evictTlb t i => .next (s.modTile t fun x => { x with tlb := ldel x.tlb i })
  | .evictCode t k => .next (s.modTile t fun x => { x with icache := adel x.icache k })
  | .evictConst t k => .next (s.modTile t fun x => { x with ccache := adel x.ccache k })
  | .fillConst t w => .next (constFill s t w)
  | .writeBack t l => .next (if (afind (s.tile t).locks l).isSome then s else writeBack s t l)
  | .upset a => .next (strike s a)
  | .regUpset t c => .next (regStrike s t c)
  | .corrected t => .next (corrected s t)
  | .upsetBeneath t a => .next (strikeBeneath s t a)
  | .crossbar n flit f => .next (crossbar s n flit f)
  | .uncontained t => .next (stopPart s t)
  | .linkSend a b n => .next (linkSend s a b n)
  | .linkTake a b => .next (linkTake s a b)
  | .linkConfirm a b => .next (linkConfirm s a b)
  | .ring cr => .next (if cr < 4 then ringPass s cr else s)
  | .ioLeave pid cr => .next (ioLeave s pid cr)
  | .line t c => .next (if alive s t then lineStep s t c else s)
  | .readSys w t o n => .next (sysLook s w t o n)
  | .writeSys w t o l => .next (if writerUp s w then sysPut s w t o l else s)
  | .evictTuber t k => .next (s.modTile t fun x => { x with ibuf := adel x.ibuf k })
  | .joinGroup pid grp link => .next (joinGroup s pid grp link)
  | .frame link bytes m => .next (frameIn s link bytes m)
  | .frameAck link => .next (frameAck s link)
  | .frameNak link => .next (frameNak s link)
  | .frameOut link => .next (frameOut s link)
  | .hostSend sc => .next (hostSend s sc)
  | .moduleReset => .next (moduleReset s)
  | .bar0 sc pid k v => .next (barZero s sc pid k v)

/-- One step: the head of the agenda, or the default act. A thermal stop ends every run (18 R388) until the module is reset (R390). -/
def runStep (s : State) : Out' :=
  match s.stopped, s.agenda with
  | true, .moduleReset :: r => runAct { s with agenda := r } .moduleReset
  | true, _ => .fault .moduleStopped
  | false, a :: r => runAct { s with agenda := r } a
  | false, [] => defaultTurn s

-- Where a word is placed so that the next step runs it (log 6).
/-- The level-1 pointer, level-2 pointer and leaf of page 0, in physical vault memory at 0x10000. -/
def seedTables : List (Nat × Word) := [(0x10000, 0x12002), (0x12000, 0x14002), (0x14000, 0x0270000000001001)]

/-- A partition of one block at the origin whose tile 0 maps offset 0 to physical page 1 with R, W, X and TV, the word at
offset 0, and a ready thread there, in c0 or, for a bank operator, in t0 under a started TUBER job. -/
def placeWord (s : State) (w : BitVec 96) : State :=
  let bank := w.extractLsb' 88 8 == 0x60#8
  let c := if bank then 32 else 0
  let job : Job :=
    { ent := 0, order := 0, kind := 3, pri := 0, rd := [⟨0, 4096, false⟩], wr := [⟨0, 4096, false⟩], inc := 0, cnt := 0, sta := 0
      prm := [], tid := 0, c := 0, pc := 0, iw := 0, launch := none, q := none, card := 0, deps := [], edges := [], started := true, slots := []
      next := 1, phase := .idle, buf := [], idx := 0, finished := false, cause := 0, faddr := 0, live := 1, collNo := none, req := 0 }
  let th := { Thread.zero with tjob := if bank then some (0, 0) else none }
  let x : TileSt :=
    { TileSt.zero 0 with prt := 0x0000080800000000, vtb := 0x10001, ctxs := [(c, Ctx.ofThread th 0)], slots := [0]
                         jobs := if bank then [job] else [] }
  let part : Part :=
    { pid := 0, x0 := 0, y0 := 0, w := 8, h := 8, chans := [], links := [], segKey := [], peers := [], edgeKeys := [], tkey := 0, scs := [], apb := []
      repBase := [], repSize := [], repSeq := 0, launches := [], launchSeq := 0, collSeq := [], joins := [], revoking := [], band := 0, halted := false }
  let mem := cputs (seedTables.foldl (fun m e => cputs m (vKey 0 e.1) (wBytes e.2)) s.mem) (vKey 0 0x1000) (wordBytes w)
  { s with mem := mem, tiles := aput s.tiles 0 x, parts := aput s.parts 0 part, up := true, stopped := false
           agenda := [.issue 0 c] }

end Sys2Proof.Machine
end

