-- ==== Sys2Proof/Machine/Step.lean ====
section
/-! DEFINITION. Sys2Proof/Machine/Step.lean: one step of the module, and the placing of one instruction word. -/

namespace Sys2Proof.Machine

/-- One step: one act of one agent (log 3). -/
def step (s : State) : Host.Outcome State Fault Refusal := runStep s

/-- The instruction whose bits are w, placed where the next step fetches and runs it (log 6). Every word is 96 bits long,
so bits above nbits are 0. -/
def State.withFetchWord (s : State) (nbits w : Nat) : State := placeWord s (BitVec.ofNat 96 (w % 2 ^ nbits))

end Sys2Proof.Machine
end

