-- ==== Sys2Proof/Safety.lean ====
section
/-! DEFINITION. Sys2Proof/Safety.lean: what a well-kept state of the module is, and the forms in which statements give the
next state of an instruction. -/

namespace Sys2Proof.Machine

/-- The memory of a state is in canonical form. -/
abbrev State.memOk (s : State) : Prop := Memory.wf s.mem

/-- The events of Instr that a step runs as they stand when the agenda names them: all but those that only an instruction word or a fetch
brings about, and the two that a unit at the wafer's edge takes first and its home performs later (01 R17). -/
def directEvent (i : Instr) : Bool :=
  (encodeFields i).isNone && match i with
    | .illegal | .poolexec | .returnTrap | .bar2Request _ _ _ _ _ | .peerWakeStore _ _ _ => false
    | _ => true

/-- The low n bits of a source, n the size of a type (R197). -/
def lowBits (ty : Ty) (x : Word) : BitVec (tyBits ty) := x.setWidth (tyBits ty)
/-- An n-bit result extended to 64 bits by the signedness of its type (R197). -/
def extBits (ty : Ty) (x : BitVec (tyBits ty)) : Word := if tySigned ty then x.signExtend 64 else x.setWidth 64

/-- The next state of an instruction with one source and one result: A is read, D written, the instruction retired. -/
def after1 (s : State) (d a : GP) (f : Word → Word) : State :=
  (writeGP (readGP s a).1 d (f (readGP s a).2)).retire
/-- The next state of an instruction with two sources and one result. -/
def after2 (s : State) (d a : GP) (b : Src) (f : Word → Word → Word) : State :=
  let r := readSrc (readGP s a).1 b
  (writeGP r.1 d (f (readGP s a).2 r.2)).retire
/-- The next state of an instruction that changes its thread alone. -/
def afterTh (s : State) (f : Thread → Thread) : State := (s.modTh f).retire
/-- The next state of a scalar floating-point instruction: the bits into D, the flags into FST (R216, R223). -/
def afterFp (s : State) (d : G) (r : Nat × BitVec 5) : State :=
  afterTh s fun th => { wrG th d (w64 r.1) with fst := th.fst ||| r.2 }

/-- The exact rational value of a decoded finite operand. -/
def FV.rat : FV → ℚ
  | .fin neg m e => (if neg then -1 else 1) * (m : ℚ) * 2 ^ e
  | _ => 0
/-- Whether a decoded operand is finite. -/
def FV.isFin : FV → Bool | .fin _ _ _ => true | _ => false
/-- The sign of a decoded operand that is not a NaN. -/
def FV.sign : FV → Bool | .fin n _ _ => n | .inf n => n | .nan _ => false
/-- The order of decoded operands that are not NaNs: -0 equals +0. -/
def FV.below : FV → FV → Bool
  | .inf x, .inf y => x && !y
  | .inf x, _ => x
  | _, .inf y => !y
  | a, b => decide (a.rat < b.rat)
/-- Equality of decoded operands that are not NaNs. -/
def FV.same : FV → FV → Bool
  | .inf x, .inf y => x == y
  | .inf _, _ => false
  | _, .inf _ => false
  | a, b => decide (a.rat = b.rat)
/-- The smaller of two operands that are not NaNs is the first: -0 lies below +0 (R219). -/
def FV.first (a b : FV) : Bool := a.below b || (a.same b && a.sign && !b.sign)
/-- An access of n bytes by the executing context whose home is its own tile, outside system space and within one granule
(R26, R120): off is the local offset. -/
def ownPiece (s : State) (va : Word) (k : Acc) (n off : Nat) : Prop :=
  homeFor s va k n = .ok (.tile s.cur.t off) ∧ off / 2 ^ 40 ≠ 3 ∧ 1 ≤ n ∧ va.toNat % 16 + n ≤ 16
/-- The executing context is one of the tile core's. -/
def onCore (s : State) : Prop := s.cur.c < 32
/-- An access of n bytes whose home is another tile, outside system space. -/
def remotePiece (s : State) (va : Word) (k : Acc) (n : Nat) (h : Tile) (off : Nat) : Prop :=
  homeFor s va k n = .ok (.tile h off) ∧ off / 2 ^ 40 ≠ 3 ∧ h ≠ s.cur.t
/-- The executing thread has nothing to wait for or to flush: no entry of the combining buffer, no pending destination, no
outstanding write. -/
def settled (s : State) : Prop :=
  (∀ e ∈ (s.tile s.cur.t).comb, contributes s.th.tid e = false) ∧ s.me.pend = [] ∧ s.me.outs = []

/-- Element j of width w of a lane (R250). -/
def elOf (w : Nat) (x : BitVec 32) (j : Nat) : BitVec w := x.extractLsb' (w * j) w
/-- What a vector instruction on elements of width w leaves in a thread: g i j is element j of lane i with its flags; an active
lane takes its elements, another keeps its value or becomes zero, and the flags of the active lanes enter FST (R251, R253). -/
def vecLeaves (s : State) (th : Thread) (d : V) (k : K) (z : Bool) (w : Nat) (g : Nat → Nat → BitVec w × BitVec 5) : Prop :=
  (∀ i, i < 16 → if (rdK s.th k).getLsbD i then ∀ j, j < 32 / w → elOf w (lane th.v[d] i) j = (g i j).1
    else lane th.v[d] i = if z then 0 else lane s.th.v[d] i) ∧
  (∀ r : V, r ≠ d → th.v[r] = s.th.v[r]) ∧ th.vlive = s.th.vlive ||| 1#8 <<< d.val ∧
  th.fst = s.th.fst ||| ((List.range 16).filter fun i => (rdK s.th k).getLsbD i).foldl
    (fun fl i => fl ||| ((List.range (32 / w)).map fun j => (g i j).2).foldl (· ||| ·) 0) 0 ∧
  th = { s.th with v := th.v, vlive := th.vlive, fst := th.fst }
/-- A vector instruction retires with a thread that vecLeaves describes. -/
def vecDone (s : State) (i : Instr) (d : V) (k : K) (z : Bool) (w : Nat) (g : Nat → Nat → BitVec w × BitVec 5) : Prop :=
  ∃ th : Thread, exec i s = .next (afterTh s fun _ => th) ∧ vecLeaves s th d k z w g

/-- The destination of an instruction that reads g registers and immediates and writes one register, as file (0 g, 1 v, 2 p, 3 k)
and number (R169); none where an operand names a port. -/
def gpDest (d : GP) (l : List GP) : Option (List RegId) :=
  match d with
  | .g r => if (portsOf l).isEmpty then some [(0, r.val)] else none
  | .port _ => none
/-- The registers that a register instruction names as its destinations: the instructions of chapters 10 and 12 that touch neither
memory nor a port, and SRD of a register that is no window. None for every other instruction. -/
def regDest : Instr → Option (List RegId)
  | .add _ d a b | .sub _ d a b | .mul _ d a b | .mulh _ d a b | .mulhu _ d a b | .div _ d a b | .divu _ d a b | .rem _ d a b
  | .remu _ d a b | .min _ d a b | .max _ d a b | .minu _ d a b | .maxu _ d a b | .and _ d a b | .or _ d a b | .xor _ d a b
  | .andn _ d a b | .orn _ d a b | .xnor _ d a b | .shl _ d a b | .shr _ d a b | .sra _ d a b | .rol _ d a b | .ror _ d a b
  | .sel _ d a b _ => gpDest d (a :: srcGps b)
  | .neg _ d a | .abs _ d a | .not _ d a | .clz _ d a | .ctz _ d a | .popc _ d a | .brev _ d a | .bswap _ d a | .bext d a _ _
  | .bextu d a _ _ | .mov _ d a | .sext d a _ | .zext d a _ => gpDest d [a]
  | .bins d a _ _ => gpDest (.g d) [a]
  | .movi d _ _ => gpDest d []
  | .movh d _ | .lea d _ | .gaddr d _ _ | .home d _ | .nbr d _ _ => some [(0, d.val)]
  | .cmp _ _ d _ _ | .tst _ _ d _ _ | .pand d _ _ | .por d _ _ | .pxor d _ _ | .pnot d _ | .pmov d _ | .pset d _
  | .fcmp _ _ d _ _ => some [(2, d.val)]
  | .fadd _ _ d _ _ | .fsub _ _ d _ _ | .fmul _ _ d _ _ | .ffma _ _ d _ _ | .fdiv _ _ d _ _ | .fsqrt _ _ d _ | .fmin _ d _ _
  | .fmax _ d _ _ | .fabs _ d _ | .fneg _ d _ | .fcvt _ _ _ d _ | .fclass _ d _ => some [(0, d.val)]
  | .vadd _ _ d _ _ | .vsub _ _ d _ _ | .vmul _ _ d _ _ | .vfma _ _ d _ _ | .vfms _ _ d _ _ | .vmin _ _ d _ _ | .vmax _ _ d _ _
  | .vabs _ _ d _ | .vneg _ _ d _ | .vand _ _ d _ _ | .vor _ _ d _ _ | .vxor _ _ d _ _ | .vshl _ _ d _ _ | .vshr _ _ d _ _
  | .vsra _ _ d _ _ | .vsel _ _ d _ _ | .vrcp _ _ d _ | .vrsq _ _ d _ | .vexp2 _ _ d _ | .vlog2 _ _ d _ | .vdiv _ _ d _ _
  | .vsqrt _ _ d _ | .vpopc _ _ d _ | .vdot4 _ _ d _ _ | .vcvt _ _ _ _ _ _ d _ | .vscan _ _ _ _ _ d _
  | .vperm _ _ _ d _ _ | .vbcast _ _ _ d _ | .vins _ d _ _ => some [(1, d.val)]
  | .vqnt _ d _ _ _ | .vdqt d _ _ => some [(1, d.val), (1, (nextV d).val)]
  | .vred _ _ _ d _ | .vext _ d _ _ | .kpopc d _ => some [(0, d.val)]
  | .vcmp _ _ d _ _ | .kand d _ _ | .kor d _ _ | .knot d _ => some [(3, d.val)]
  | .kmov (.kk d _) | .kmov (.gk d _) | .kmov (.imm d _) => some [(3, d.val)]
  | .kmov (.kg d _) => some [(0, d.val)]
  | .srd _ (.win _ _) => none
  | .srd d _ => some [(0, d.val)]
  | _ => none
/-- Whether an instruction may raise a flag of FST (R223, R253). -/
def mayFlag (i : Instr) : Bool :=
  match encodeFields i with
  | some f => f.opc == 0x10 || (decide (0x50 ≤ f.opc.toNat) && decide (f.opc.toNat ≤ 0x53))
  | none => false
/-- What an instruction that only writes registers l of its thread leaves as it was: memory, tags, poison, the network, other tiles
and contexts, the tile's own registers, and the thread but for l, the PC, FST, the liveness of l and the span of an automatic pin. -/
def regFrame (s u : State) (l : List RegId) : Prop :=
  let t := s.cur.t
  u.mem = s.mem ∧ u.full = s.full ∧ u.poison = s.poison ∧ u.latent = s.latent ∧ u.net = s.net ∧ u.parts = s.parts ∧
  u.queues = s.queues ∧ u.fields = s.fields ∧ u.out = s.out ∧ (∀ v, v ≠ t → u.tile v = s.tile v) ∧
  { u.tile t with ctxs := (s.tile t).ctxs } = s.tile t ∧ (∀ c, c ≠ s.cur.c → u.ctx t c = s.ctx t c) ∧
  (∀ r : G, (0, r.val) ∉ l → u.th.g[r] = s.th.g[r]) ∧ (∀ r : P, (2, r.val) ∉ l → u.th.p[r] = s.th.p[r]) ∧
  (∀ r : V, (1, r.val) ∉ l → u.th.v[r] = s.th.v[r] ∧ u.th.vlive.getLsbD r.val = s.th.vlive.getLsbD r.val) ∧
  (∀ r : K, (3, r.val) ∉ l → u.th.k[r] = s.th.k[r] ∧ (r ≠ 0 → u.th.klive.getLsbD (r.val - 1) = s.th.klive.getLsbD (r.val - 1))) ∧
  u.th = { s.th with pc := u.th.pc, g := u.th.g, v := u.th.v, p := u.th.p, k := u.th.k, vlive := u.th.vlive, klive := u.th.klive
                     fst := u.th.fst, apin := u.th.apin, pspan := u.th.pspan } ∧
  u.me = { s.me with th := u.th, st := u.me.st, wait := .none, snap := none, joined := none, fq := u.me.fq }

/-- A context of a tile core that neither waits, holds a second trap bank, leads or follows a gang nor runs under STEP. -/
def quiet (s : State) : Prop :=
  onCore s ∧ s.me.tb1 = none ∧ s.me.wait = .none ∧ s.me.gang = .none ∧ s.me.tub.isNcmd = false ∧ s.me.stepping = false
/-- Every byte of memory outside n bytes at a local offset of tile t is the same in both states. The offset's cells are those of its
physical address: in vault space by the translation that the access makes, in a pane directly. A page with a key is encrypted by
sectors of 32 bytes (R380), so there the cells of its sectors may change and the plain bytes outside the access may not. -/
def keptOutside (s u : State) (t off n : Nat) : Prop :=
  (off < 2 ^ 40 → ∀ s1 x, xlate s t off aWrite = .ok (s1, x) →
    let lo := if x.key = 0 then x.pa else x.pa / 32 * 32
    let hi := if x.key = 0 then x.pa + n else (x.pa + n + 31) / 32 * 32
    (∀ a, a < vKey t lo ∨ vKey t hi ≤ a → cget u.mem a = cget s.mem a) ∧
    (∀ b, b < x.pa ∨ x.pa + n ≤ b → vaultRead u t x.key b 1 = vaultRead s t x.key b 1)) ∧
  (off < 2 ^ 40 → ∀ c, xlate s t off aWrite = .error c → u.mem = s.mem) ∧
  (off / 2 ^ 40 = 2 → ∀ a, a < pKey t (off % 2 ^ 40) ∨ pKey t (off % 2 ^ 40) + n ≤ a → cget u.mem a = cget s.mem a)
/-- Stores made one after the other at local offsets of tile t, each placed by the state that those before it leave, and each leaving
every byte outside itself as it was; between two of them only the windows' generations may change (R76, R120). -/
def storeChain (t : Nat) : List (Nat × List Byte) → State → State → Prop
  | [], s, u => u = s
  | (off, l) :: r, s, u => ∃ s1 s2 : State, writeHome s t off l aWrite = .ok s1 ∧ keptOutside s s1 t off l.length ∧
      { s2 with tiles := s1.tiles } = s1 ∧ (∀ v, { s2.tile v with wins := (s1.tile v).wins } = s1.tile v) ∧ storeChain t r s2 u

end Sys2Proof.Machine
end

