-- ==== Sys2Proof/Certificates/Slice0/Obligations.lean ====
section
/-! DEFINITION. Sys2Proof/Certificates/Slice0/Obligations.lean: the statements about this model. Each docstring names the rules of
spec/ that it is about. -/

open Sys2Proof Sys2Proof.Machine

/-- R166, R168, R169, R174, R182, R183: words written out from Tables 9.1 to 9.9. -/
def Obligations.WrittenWordsDecode : Prop :=
  (∀ e ∈ ([(0x010000050304700000000000, .add .i64 (.g 5) (.g 3) (.reg (.g 4))),
      (0x0101400405005020FFFFFFF9, .div .i32 (.g 4) (.g 5) (.imm false 0xFFFFFFF9)),
      (0x010100810283600000000000, .mulhu .u64 (.port .e) (.g 2) (.reg (.port .w))),
      (0x03008001020050200000001F, .sra .i32 (.g 1) (.g 2) (.imm false 31)),
      (0x04014001020000000000013F, .bext (.g 1) (.g 2) 63 1),
      (0x0600000102030003FFFFFFF8, .lea 1 ⟨2, 3, 3, 0xFFFFFFF8⟩),
      (0x080000410100700100000000, .cmp .ne .i64 1 1 (.reg 0))] : List (BitVec 96 × Instr)), decodeWord e.1 = .instr Hdr.plain e.2) ∧
  -- fields of the header
  decodeWord 0x0130_1001_0200_7020_0000_0010 = .instr { gn := false, gp := 3, st := 4, yld := false } (.add .i64 (.g 1) (.g 2) (.imm false 16)) ∧
  decodeWord 0x0180_1001_0200_7020_0000_0010 = .illegal ∧
  -- OPC 0xFF whatever the rest, and the reserved bit 72
  decodeWord 0xFF01_0000_0000_FFFF_0000_FFFF = .pool ∧
  decodeWord 0x0101_0005_0304_7000_0000_0000 = .illegal

/-- R166 to R175, R182: an instruction's word decodes to it, and a word that decodes is its instruction's word. -/
def Obligations.DecodeEncodeAgree : Prop :=
  ∀ (h : Hdr) (i : Instr) (w : BitVec 96),
    (i.wf = true → (h.gn = true → h.gp ≠ 0) → encode h i = some w → decodeWord w = .instr h i) ∧
    (decodeWord w = .instr h i → i.wf = true ∧ (h.gn = true → h.gp ≠ 0) ∧ encode h i = some w)

/-- R37, R149, R166, R168, R182, R183, R226: what a step does with the word at the PC; that
an agenda names the act is the model's choice (log 3). -/
def Obligations.StepRunsDecoded : Prop :=
  ∀ (s s1 : State) (t c : Nat) (w : BitVec 96) (h : Hdr) (i : Instr) (r : List Act),
    let s0 : State := { s with agenda := r }
    let x := s.ctx t c
    -- a step is the act that the agenda names; after a thermal stop only a reset of the module is one
    (s.stopped = true → s.agenda.head? ≠ some .moduleReset → step s = .fault .moduleStopped) ∧
    (s.agenda = .moduleReset :: r → step s = .next (moduleReset s0)) ∧
    (s.stopped = false → s.agenda = .event i :: r → directEvent i = true →
      (actorUp s0 i = true → step s = exec i s0) ∧ (actorUp s0 i = false → step s = .next s0)) ∧
    (∀ sc pid o d k, s.stopped = false → s.agenda = .event (.bar2Request sc pid o d k) :: r → step s = .next (hostTake s0 sc pid o d k)) ∧
    (∀ link a v k, s.stopped = false → s.agenda = .event (.peerWakeStore link a v) :: r →
      s.net.findIdx? (fun p => p.body == .peerIn link (.wake a v)) = some k → step s = deliverAct s0 k) ∧
    -- a cycle of a tile core, and of a tuber core, issues the context that the rotation selects
    (s.stopped = false → s.agenda = .core t :: r → alive s0 t = true →
      let s2 := cycleCtxs s0 t false
      let y := s2.tile t
      (selectCtx y 0 32 y.ptr y.lcyc = some c →
        step s = Out'.andThen (issueCtx (s2.setTile t { y with ptr := (c + 1) % 32 }) t c) (passCore t 1)) ∧
      (selectCtx y 0 32 y.ptr y.lcyc = none → step s = .next (passCore t 1 s2))) ∧
    (s.stopped = false → s.agenda = .tuber t :: r → alive s0 t = true →
      let s2 := cycleCtxs s0 t true
      let y := s2.tile t
      (selectCtx y 32 8 y.tptr y.tcyc = some c →
        step s = Out'.andThen (issueCtx (s2.setTile t { y with tptr := (c + 1) % 8 }) t (32 + c)) (passTuber t 1)) ∧
      (selectCtx y 32 8 y.tptr y.tcyc = none → step s = .next (passTuber t 1 s2))) ∧
    -- the cycles pass until the named context may issue, and that is a cycle of its core
    (s.stopped = false → s.agenda = .issue t c :: r → alive s0 t = true → c < 32 →
      let s2 := cycleCtxs s0 t false
      let s3 := passCore t ((idleCycles (s2.tile t) false).getD 0) s2
      selectCtx (s3.tile t) 0 32 (s3.tile t).ptr (s3.tile t).lcyc = some c → step s = coreCycle s3 t) ∧
    -- an issue of a context of no gang runs the instruction at its PC
    (x.gang = .none → c < 32 → fetchTile { s with cur := ⟨t, c, 0⟩ } t c x.th.pc = .ok (s1, w) →
      (decodeWord w = .pool → issueCtx s t c = exec .poolexec (beginIssue s1 t c w Hdr.plain)) ∧
      (decodeWord w = .illegal → issueCtx s t c = exec .illegal (beginIssue s1 t c w Hdr.plain)) ∧
      (decodeWord w = .instr h i → w.extractLsb' 88 8 = 0x60#8 → issueCtx s t c = exec .illegal (beginIssue s1 t c w h)) ∧
      (decodeWord w = .instr h i → w.extractLsb' 88 8 ≠ 0x60#8 →
        (guardPending (s1.ctx t c) h.gp = true → ∃ u : State, issueCtx s t c = .next u ∧ (u.ctx t c).th = (s1.ctx t c).th ∧ u.mem = s1.mem) ∧
        (guardPending (s1.ctx t c) h.gp = false →
          (rdP (s1.ctx t c).th h.gp = h.gn → issueCtx s t c = .next (beginIssue s1 t c w h).retire) ∧
          (rdP (s1.ctx t c).th h.gp ≠ h.gn → interlocked (s1.ctx t c) i = false → issueCtx s t c = exec i (beginIssue s1 t c w h)) ∧
          (rdP (s1.ctx t c).th h.gp ≠ h.gn → interlocked (s1.ctx t c) i = true →
            ∃ u : State, issueCtx s t c = .next u ∧ (u.ctx t c).th = (s1.ctx t c).th ∧ u.mem = s1.mem)))) ∧
    (x.gang = .none → c < 32 → x.th.pc.toNat % 4 ≠ 0 →
      issueCtx s t c = .next (takeFault (beginIssue s t c 0 Hdr.plain) { cause := .address, addr := x.th.pc })) ∧
    -- the word is the one in memory at the PC
    (∀ pc off b, resolve s t (c == 30) pc aFetch 12 = .ok (.tile t off) → pc.toNat % 4 = 0 → pc.toNat % 16 ≤ 4 → off + 12 ≤ 2 ^ 40 →
      (s.tile t).icache = [] → readHome s t (fld pc 0 44) 12 aFetch = .ok (s1, b) →
      ∃ u : State, fetchTile s t c pc = .ok (u, bytesWord b) ∧ u.mem = s1.mem ∧ ∀ d, u.ctx t d = s1.ctx t d)

/-- R5, R71, R292, R305, R353, R387, R388, R390: the module right after reset; the unlisted bytes are
log 1's choice, the register values that no rule gives log 2's. -/
def Obligations.ResetLeaves : Prop :=
  Memory.wf State.reset.mem ∧ (∀ a, cget State.reset.mem a = 0) ∧ State.reset.full = [] ∧ State.reset.poison = [] ∧
  State.reset.up = false ∧ State.reset.stopped = false ∧ State.reset.cooling = false ∧ State.reset.net = [] ∧
  (∀ pid, State.reset.part pid = none) ∧ (∀ q, State.reset.queue q = none) ∧
  (∀ t, let x := State.reset.tile t
    x.holdLimit = 8192 ∧ x.bounceLim = 4 ∧ x.pinSpan = 256 ∧ x.drainInt = 2048 ∧ x.balInt = 4096 ∧ x.hq = [] ∧ x.jobs = [] ∧
    (∀ c, (State.reset.ctx t c).st = .free ∧ (State.reset.ctx t c).tb0 = none ∧ (State.reset.ctx t c).tb1 = none) ∧
    (∀ n, (x.win n).en = false ∧ (x.win n).gen = 0) ∧ x.mx.rpc = [0, 0, 0, 0, 0, 0] ∧ x.mx.msat = 0 ∧ x.mx.munf = 0 ∧ x.mx.movf = 0 ∧
    x.mx.mcan = 0 ∧ x.mx.active = none ∧ (∀ n, x.key n = .empty)) ∧
  (∀ f, let x := State.reset.field f
    x.lease = .follower ∧ x.epoch = 0 ∧ x.promoteInt = 65536 ∧ x.allot = State.reset.budget / 64) ∧
  10000 ≤ State.reset.budget ∧ State.reset.budget ≤ 25000 ∧
  step State.reset = exec (.bringUp ⟨[], []⟩ [] ⟨[], []⟩) State.reset

/-- R171, R175, R177: the registers that read as constants, and the others. -/
def Obligations.HardwiredRegisters : Prop :=
  (∀ (th : Thread) (w : Word) (b : Bool) (m : BitVec 16) (x : VReg),
    rdG th 0 = 0 ∧ rdP th 0 = true ∧ rdK th 0 = 0xFFFF ∧ wrG th 0 w = th ∧ wrP th 0 b = th ∧ wrK th 0 m = th ∧
    (∀ r : G, r ≠ 0 → rdG (wrG th r w) r = w ∧ (∀ q : G, q ≠ r → rdG (wrG th r w) q = rdG th q) ∧ (wrG th r w).vlive = th.vlive) ∧
    (∀ r : P, r ≠ 0 → rdP (wrP th r b) r = b ∧ ∀ q : P, q ≠ r → rdP (wrP th r b) q = rdP th q) ∧
    (∀ r : K, r ≠ 0 → rdK (wrK th r m) r = m ∧ (∀ q : K, q ≠ r → rdK (wrK th r m) q = rdK th q) ∧
      (wrK th r m).klive = th.klive ||| 1#3 <<< (r.val - 1)) ∧
    (∀ r : V, rdV (wrV th r x) r = x ∧ (∀ q : V, q ≠ r → rdV (wrV th r x) q = rdV th q) ∧ (wrV th r x).vlive = th.vlive ||| 1#8 <<< r.val)) ∧
  (∀ (s : State) (ty : Ty) (a : G) (b : GSrc) (v : BitVec 32) (m : BitVec 16) (x : Bool), ty.isInt = true →
    exec (.add ty (.g 0) (.g a) (.imm false v)) s = .next s.retire ∧ exec (.movi (.g 0) false v) s = .next s.retire ∧
    exec (.cmp .eq ty 0 a b) s = .next s.retire ∧ exec (.pset 0 x) s = .next s.retire ∧ exec (.kmov (.imm 0 m)) s = .next s.retire)

/-- R201: the results of the integer arithmetic family, on n-bit operands. -/
def Obligations.IntegerResults : Prop :=
  ∀ (s : State) (d a : GP) (b : Src),
    (checkPorts s [d] (a :: srcGps b) = .ok () →
      (∀ ty : Ty, ty.isInt = true →
        exec (.add ty d a b) s = .next (after2 s d a b fun x y => extBits ty (lowBits ty x + lowBits ty y)) ∧
        exec (.sub ty d a b) s = .next (after2 s d a b fun x y => extBits ty (lowBits ty x - lowBits ty y)) ∧
        exec (.mul ty d a b) s = .next (after2 s d a b fun x y => extBits ty (lowBits ty x * lowBits ty y))) ∧
      (∀ ty : Ty, ty.isSInt = true →
        exec (.mulh ty d a b) s = .next (after2 s d a b fun x y => extBits ty
          (((lowBits ty x).signExtend (tyBits ty + tyBits ty) * (lowBits ty y).signExtend (tyBits ty + tyBits ty)).extractLsb'
            (tyBits ty) (tyBits ty))) ∧
        exec (.min ty d a b) s = .next (after2 s d a b fun x y => extBits ty
          (if (lowBits ty y).slt (lowBits ty x) then lowBits ty y else lowBits ty x)) ∧
        exec (.max ty d a b) s = .next (after2 s d a b fun x y => extBits ty
          (if (lowBits ty y).slt (lowBits ty x) then lowBits ty x else lowBits ty y))) ∧
      (∀ ty : Ty, ty.isUInt = true →
        exec (.mulhu ty d a b) s = .next (after2 s d a b fun x y => extBits ty
          (((lowBits ty x).setWidth (tyBits ty + tyBits ty) * (lowBits ty y).setWidth (tyBits ty + tyBits ty)).extractLsb'
            (tyBits ty) (tyBits ty))) ∧
        exec (.minu ty d a b) s = .next (after2 s d a b fun x y => extBits ty
          (if (lowBits ty y).ult (lowBits ty x) then lowBits ty y else lowBits ty x)) ∧
        exec (.maxu ty d a b) s = .next (after2 s d a b fun x y => extBits ty
          (if (lowBits ty y).ult (lowBits ty x) then lowBits ty x else lowBits ty y)))) ∧
    (checkPorts s [d] [a] = .ok () →
      (∀ ty : Ty, ty.isInt = true → exec (.neg ty d a) s = .next (after1 s d a fun x => extBits ty (-lowBits ty x))) ∧
      (∀ ty : Ty, ty.isSInt = true → exec (.abs ty d a) s = .next (after1 s d a fun x => extBits ty
        (if (lowBits ty x).msb then -lowBits ty x else lowBits ty x))))

/-- R202: division and remainder, with the values the rule gives for a zero divisor and for the overflow. -/
def Obligations.DivisionResults : Prop :=
  ∀ (s : State) (d a : GP) (b : Src), checkPorts s [d] (a :: srcGps b) = .ok () →
    (∀ ty : Ty, ty.isSInt = true →
      exec (.div ty d a b) s = .next (after2 s d a b fun x y => extBits ty
        (if lowBits ty y = 0 then -1 else (lowBits ty x).sdiv (lowBits ty y))) ∧
      exec (.rem ty d a b) s = .next (after2 s d a b fun x y => extBits ty
        (if lowBits ty y = 0 then lowBits ty x else (lowBits ty x).srem (lowBits ty y)))) ∧
    (∀ ty : Ty, ty.isUInt = true →
      exec (.divu ty d a b) s = .next (after2 s d a b fun x y => extBits ty
        (if lowBits ty y = 0 then -1 else lowBits ty x / lowBits ty y)) ∧
      exec (.remu ty d a b) s = .next (after2 s d a b fun x y => extBits ty
        (if lowBits ty y = 0 then lowBits ty x else lowBits ty x % lowBits ty y)))

/-- R203: logic and shifts on n-bit operands; the shift count is the whole of B modulo n. -/
def Obligations.LogicShiftResults : Prop :=
  ∀ (s : State) (d a : GP) (b : Src) (ty : Ty), ty.isInt = true →
    (checkPorts s [d] (a :: srcGps b) = .ok () →
      exec (.and ty d a b) s = .next (after2 s d a b fun x y => extBits ty (lowBits ty x &&& lowBits ty y)) ∧
      exec (.or ty d a b) s = .next (after2 s d a b fun x y => extBits ty (lowBits ty x ||| lowBits ty y)) ∧
      exec (.xor ty d a b) s = .next (after2 s d a b fun x y => extBits ty (lowBits ty x ^^^ lowBits ty y)) ∧
      exec (.andn ty d a b) s = .next (after2 s d a b fun x y => extBits ty (lowBits ty x &&& ~~~lowBits ty y)) ∧
      exec (.orn ty d a b) s = .next (after2 s d a b fun x y => extBits ty (lowBits ty x ||| ~~~lowBits ty y)) ∧
      exec (.xnor ty d a b) s = .next (after2 s d a b fun x y => extBits ty (~~~(lowBits ty x ^^^ lowBits ty y))) ∧
      exec (.shl ty d a b) s = .next (after2 s d a b fun x y => extBits ty (lowBits ty x <<< (y.toNat % tyBits ty))) ∧
      exec (.shr ty d a b) s = .next (after2 s d a b fun x y => extBits ty (lowBits ty x >>> (y.toNat % tyBits ty))) ∧
      exec (.sra ty d a b) s = .next (after2 s d a b fun x y => extBits ty ((lowBits ty x).sshiftRight (y.toNat % tyBits ty))) ∧
      exec (.rol ty d a b) s = .next (after2 s d a b fun x y => extBits ty ((lowBits ty x).rotateLeft (y.toNat % tyBits ty))) ∧
      exec (.ror ty d a b) s = .next (after2 s d a b fun x y => extBits ty ((lowBits ty x).rotateRight (y.toNat % tyBits ty)))) ∧
    (checkPorts s [d] [a] = .ok () →
      exec (.not ty d a) s = .next (after1 s d a fun x => extBits ty (~~~lowBits ty x)))

/-- R204 to R206: counts, reversals, bit fields, moves and selects. -/
def Obligations.FieldMoveResults : Prop :=
  (∀ (s : State) (d a : GP),
    (checkPorts s [d] [a] = .ok () → ∀ ty : Ty, ty.isInt = true →
      (∃ n m p : Word → Nat,
        exec (.clz ty d a) s = .next (after1 s d a fun x => w64 (n x)) ∧
        exec (.ctz ty d a) s = .next (after1 s d a fun x => w64 (m x)) ∧
        exec (.popc ty d a) s = .next (after1 s d a fun x => w64 (p x)) ∧
        ∀ x : Word,
          n x ≤ tyBits ty ∧ (∀ i, tyBits ty - n x ≤ i → i < tyBits ty → bit x i = false) ∧
            (n x < tyBits ty → bit x (tyBits ty - 1 - n x) = true) ∧
          m x ≤ tyBits ty ∧ (∀ i, i < m x → bit x i = false) ∧ (m x < tyBits ty → bit x (m x) = true) ∧
          p x = ((List.range (tyBits ty)).filter fun i => bit x i).length) ∧
      exec (.brev ty d a) s = .next (after1 s d a fun x => extBits ty (lowBits ty x).reverse) ∧
      exec (.bswap ty d a) s = .next (after1 s d a fun x => extTy ty (leNat (leBytes (tyBits ty / 8) x.toNat).reverse))) ∧
    (∀ (pos : BitVec 6) (len : BitVec 7), 1 ≤ len.toNat → pos.toNat + len.toNat ≤ 64 →
      (checkPorts s [d] [a] = .ok () →
        exec (.bext d a pos len) s = .next (after1 s d a fun x => (x.extractLsb' pos.toNat len.toNat).signExtend 64) ∧
        exec (.bextu d a pos len) s = .next (after1 s d a fun x => (x.extractLsb' pos.toNat len.toNat).setWidth 64)) ∧
      (∀ r : G, checkPorts s [] [a] = .ok () →
        ∃ f : Word → Word, exec (.bins r a pos len) s = .next (after1 s (.g r) a f) ∧
          ∀ (x : Word) (i : Nat), i < 64 → (f x).getLsbD i =
            if pos.toNat ≤ i ∧ i < pos.toNat + len.toNat then x.getLsbD (i - pos.toNat) else (rdG s.th r).getLsbD i))) ∧
  (∀ (s : State) (d a : GP) (b : Src),
    (checkPorts s [d] [a] = .ok () →
      (∀ ty : Ty, ty.isInt = true → exec (.mov ty d a) s = .next (after1 s d a fun x => extBits ty (lowBits ty x))) ∧
      (∀ w : BitVec 32, 1 ≤ w.toNat → w.toNat ≤ 64 →
        exec (.sext d a w) s = .next (after1 s d a fun x => (x.setWidth w.toNat).signExtend 64) ∧
        exec (.zext d a w) s = .next (after1 s d a fun x => (x.setWidth w.toNat).setWidth 64))) ∧
    (checkPorts s [d] [] = .ok () → ∀ v : BitVec 32,
      exec (.movi d false v) s = .next (writeGP s d (v.signExtend 64)).retire ∧
      exec (.movi d true v) s = .next (writeGP s d (v.setWidth 64)).retire) ∧
    (∀ (r : G) (v : BitVec 32), exec (.movh r v) s = .next (afterTh s fun th => wrG th r (v ++ (rdG th r).setWidth 32))) ∧
    (checkPorts s [d] (a :: srcGps b) = .ok () → ∀ (ty : Ty) (p : P), ty.isInt = true →
      exec (.sel ty d a b p) s = .next (after2 s d a b fun x y => extBits ty (lowBits ty (if rdP s.th p then x else y)))))

/-- R207 to R210: addresses composed and taken apart. -/
def Obligations.AddressComposition : Prop :=
  ∀ (s : State) (d a b : G),
    (∀ m : MemX, exec (.lea d m) s = .next (afterTh s fun th =>
      wrG th d (rdG th m.base + rdG th m.index * 2 ^ m.scale.toNat + m.disp.signExtend 64))) ∧
    exec (.gaddr d a b) s = .next (afterTh s fun th =>
      wrG th d (0#7 ++ (rdG th b).extractLsb' 0 6 ++ (rdG th b).extractLsb' 8 7 ++ (rdG th a).extractLsb' 0 44)) ∧
    (∀ e, resolve s s.cur.t (s.cur.c == 30) (rdG s.th a) aRead = .error e →
      exec (.home d a) s = .next (afterTh s fun th => wrG th d (1#64 <<< 18))) ∧
    (∀ o, resolve s s.cur.t (s.cur.c == 30) (rdG s.th a) aRead = .ok (.edge o) →
      exec (.home d a) s = .next (afterTh s fun th => wrG th d (1#64 <<< 16))) ∧
    (∀ h o, resolve s s.cur.t (s.cur.c == 30) (rdG s.th a) aRead = .ok (.tile h o) →
      exec (.home d a) s = .next (afterTh s fun th => wrG th d
        (0#46 ++ BitVec.ofBool (h == s.cur.t) ++ 0#2 ++ (rdG th a).extractLsb' 44 7 ++ 0#2 ++ (rdG th a).extractLsb' 51 6))) ∧
    (∀ dir : Dir,
      (bit ((s.tile s.cur.t).np dir) 63 = true →
        exec (.nbr d a dir) s = .next (afterTh s fun th => wrG th d 0xFFFFFFFFFFFFFFFF)) ∧
      (bit ((s.tile s.cur.t).np dir) 63 = false →
        exec (.nbr d a dir) s = .next (afterTh s fun th => wrG th d
          (0#7 ++ ((s.tile s.cur.t).np dir).extractLsb' 40 6 ++ ((s.tile s.cur.t).np dir).extractLsb' 32 7 ++ (rdG th a).extractLsb' 0 44))))

/-- R211, R212: compares, tests and the predicate instructions. -/
def Obligations.CompareResults : Prop :=
  ∀ (s : State) (d : P),
    (∀ (ty : Ty) (a : G) (b : GSrc),
      (ty.isSInt = true →
        exec (.cmp .eq ty d a b) s = .next (afterTh s fun th => wrP th d (lowBits ty (rdG th a) == lowBits ty (gsrcVal th b))) ∧
        exec (.cmp .ne ty d a b) s = .next (afterTh s fun th => wrP th d (lowBits ty (rdG th a) != lowBits ty (gsrcVal th b))) ∧
        exec (.cmp .lt ty d a b) s = .next (afterTh s fun th => wrP th d ((lowBits ty (rdG th a)).slt (lowBits ty (gsrcVal th b)))) ∧
        exec (.cmp .le ty d a b) s = .next (afterTh s fun th => wrP th d ((lowBits ty (rdG th a)).sle (lowBits ty (gsrcVal th b)))) ∧
        exec (.cmp .gt ty d a b) s = .next (afterTh s fun th => wrP th d ((lowBits ty (gsrcVal th b)).slt (lowBits ty (rdG th a)))) ∧
        exec (.cmp .ge ty d a b) s = .next (afterTh s fun th => wrP th d ((lowBits ty (gsrcVal th b)).sle (lowBits ty (rdG th a))))) ∧
      (ty.isUInt = true →
        exec (.cmp .eq ty d a b) s = .next (afterTh s fun th => wrP th d (lowBits ty (rdG th a) == lowBits ty (gsrcVal th b))) ∧
        exec (.cmp .ne ty d a b) s = .next (afterTh s fun th => wrP th d (lowBits ty (rdG th a) != lowBits ty (gsrcVal th b))) ∧
        exec (.cmp .lt ty d a b) s = .next (afterTh s fun th => wrP th d ((lowBits ty (rdG th a)).ult (lowBits ty (gsrcVal th b)))) ∧
        exec (.cmp .le ty d a b) s = .next (afterTh s fun th => wrP th d ((lowBits ty (rdG th a)).ule (lowBits ty (gsrcVal th b)))) ∧
        exec (.cmp .gt ty d a b) s = .next (afterTh s fun th => wrP th d ((lowBits ty (gsrcVal th b)).ult (lowBits ty (rdG th a)))) ∧
        exec (.cmp .ge ty d a b) s = .next (afterTh s fun th => wrP th d ((lowBits ty (gsrcVal th b)).ule (lowBits ty (rdG th a))))) ∧
      (ty.isInt = true →
        exec (.tst .eq ty d a b) s = .next (afterTh s fun th => wrP th d (lowBits ty (rdG th a) &&& lowBits ty (gsrcVal th b) == 0)) ∧
        exec (.tst .ne ty d a b) s = .next (afterTh s fun th => wrP th d (lowBits ty (rdG th a) &&& lowBits ty (gsrcVal th b) != 0)))) ∧
    (∀ a b : P,
      exec (.pand d a b) s = .next (afterTh s fun th => wrP th d (rdP th a && rdP th b)) ∧
      exec (.por d a b) s = .next (afterTh s fun th => wrP th d (rdP th a || rdP th b)) ∧
      exec (.pxor d a b) s = .next (afterTh s fun th => wrP th d (rdP th a != rdP th b)) ∧
      exec (.pnot d a) s = .next (afterTh s fun th => wrP th d (!rdP th a)) ∧
      exec (.pmov d a) s = .next (afterTh s fun th => wrP th d (rdP th a))) ∧
    (∀ v : Bool, exec (.pset d v) s = .next (afterTh s fun th => wrP th d v))

/-- R162, R163, R197, R198: ports as operands of an integer instruction, shown on ADD; that a port word poisoned on its
way takes POISON is the model's reading (log 97). -/
def Obligations.PortOperands : Prop :=
  ∀ (s : State) (ty : Ty) (d a : GP) (b : Src), ty.isInt = true →
    let x := s.tile s.cur.t
    let held (p : Dir) : Prop := (x.port (Dir.num p)).owner = some s.cur.c
    let reads := portsOf (a :: srcGps b)
    let writes := portsOf [d]
    ((∃ p ∈ reads ++ writes, ¬ held p) → exec (.add ty d a b) s = .next (takeFault s { cause := .port })) ∧
    ((∀ p ∈ reads ++ writes, held p) →
      ((∃ p ∈ reads, (x.port (Dir.num p)).q.length < reads.count p) →
        exec (.add ty d a b) s = .next (s.modMe fun c => { c with st := .waiting, wait := .retry })) ∧
      ((∀ p ∈ reads, reads.count p ≤ (x.port (Dir.num p)).q.length) →
        ((∃ p ∈ reads, ((x.port (Dir.num p)).bad.take (reads.count p)).any id = true) →
          exec (.add ty d a b) s = .next (takeFault s (parityTrap 0))) ∧
        ((∀ p ∈ reads, ((x.port (Dir.num p)).bad.take (reads.count p)).any id = false) →
          ((∃ p ∈ writes, (x.port (Dir.num p)).credits = 0) →
            exec (.add ty d a b) s = .next (s.modMe fun c => { c with st := .waiting, wait := .retry })) ∧
          ((∀ p ∈ writes, (x.port (Dir.num p)).credits ≠ 0) → checkPorts s [d] (a :: srcGps b) = .ok ())))) ∧
    (∀ (p : Dir) (u : Tile), neighbour x p = some u →
      (readPort s s.cur.t p).2 = lget (x.port (Dir.num p)).q 0 0 ∧
      ((readPort s s.cur.t p).1.tile s.cur.t).port (Dir.num p) = { x.port (Dir.num p) with
        q := (x.port (Dir.num p)).q.drop 1, bad := (x.port (Dir.num p)).bad.drop 1 } ∧
      (readPort s s.cur.t p).1.net = s.net ++ [⟨s.cur.t, u, 5, .portCredit (oppDir p), []⟩] ∧
      ∀ v : Word, ((writePort s s.cur.t p v).tile s.cur.t).port (Dir.num p) =
          { x.port (Dir.num p) with credits := (x.port (Dir.num p)).credits - 1 } ∧
        (writePort s s.cur.t p v).net = s.net ++ [⟨s.cur.t, u, 5, .portWord (oppDir p) v, []⟩])

/-- R167, R213 to R215: control, and the end of a thread by EXIT. -/
def Obligations.ControlResults : Prop :=
  (∀ (s : State) (off : BitVec 32) (a d : G),
    let pc := s.th.pc
    exec (.br off) s = .next (s.retireAt (pc + 12 + 12 * off.signExtend 64)) ∧
    exec (.brx a) s = .next (s.retireAt (rdG s.th a)) ∧
    exec (.call off) s = .next ((s.modTh fun th => wrG th 15 (pc + 12)).retireAt (pc + 12 + 12 * off.signExtend 64)) ∧
    exec (.callx a) s = .next ((s.modTh fun th => wrG th 15 (pc + 12)).retireAt (rdG s.th a)) ∧
    exec .ret s = .next (s.retireAt (rdG s.th 15)) ∧
    exec .nop s = .next (s.retireAt (pc + 12)) ∧
    (d ≠ 0 → exec (.loop d off) s = .next ((s.modTh fun th => wrG th d (rdG s.th d - 1)).retireAt
      (if rdG s.th d = 1 then pc + 12 else pc + 12 + 12 * off.signExtend 64))) ∧
    exec (.loop 0 off) s = .next (s.retireAt (pc + 12))) ∧
  (∀ s : State,
    let t := s.cur.t
    let c := s.cur.c
    (s.me.pend ≠ [] → exec .exit s = .next (s.modMe fun x => { x with st := .waiting, wait := .retry })) ∧
    (s.me.pend = [] → s.me.outs ≠ [] ∨ streamDrains s t c = true →
      exec .exit s = .next ((flushCtx s t c).modMe fun x => { x with st := .waiting, wait := .retry })) ∧
    (s.me.pend = [] → s.me.outs = [] → (∀ e ∈ (s.tile t).comb, contributes s.th.tid e = false) → s.me.gang = .none →
      streamsOf s t c = [] → s.th.tjob = none → c < 32 → chargeTile s t s.th = t → (s.tile t).notices = [] →
      ∃ u : State, exec .exit s = .next u ∧ u.ctx t c = Ctx.free ∧ (u.tile t).slots = sdel (s.tile t).slots s.th.slot ∧
        (∀ p ∈ (u.tile t).ports, p.2.owner ≠ some c) ∧ u.mem = s.mem ∧ u.net = s.net ∧
        (∀ k, k ≠ c → u.ctx t k = s.ctx t k) ∧ (∀ v, v ≠ t → u.tile v = s.tile v)))

/-- R217: what rounding a magnitude m / 2^k to an integer does in each mode. R257: the estimates VEXP2, VLOG2 and VRSQ of
finite operands by the real numbers that they estimate; that each is the exact value rounded once is the model's reading (log 70). -/
def Obligations.RoundingModes : Prop :=
  ∀ (neg : Bool) (m k : Nat),
    (∀ rm, (rshift rm neg m k).2 = decide (m % 2 ^ k ≠ 0)) ∧
    (rshift .rtz neg m k).1 = m / 2 ^ k ∧
    (rshift .rpi neg m k).1 = (if neg then m / 2 ^ k else cdiv m (2 ^ k)) ∧
    (rshift .rni neg m k).1 = (if neg then cdiv m (2 ^ k) else m / 2 ^ k) ∧
    2 * (rshift .rne neg m k).1 * 2 ^ k ≤ 2 * m + 2 ^ k ∧ 2 * m ≤ 2 * (rshift .rne neg m k).1 * 2 ^ k + 2 ^ k ∧
    (2 * (m % 2 ^ k) = 2 ^ k → (rshift .rne neg m k).1 % 2 = 0) ∧
    -- what VEXP2, VLOG2 and VRSQ round of a finite binary32 that is not zero: the exact value, to more bits than a rounding needs (log 70)
    (∀ (w : BitVec 32) (n : Bool) (mant : Nat) (e : Int), fdec f32F w.toNat = .fin n mant e → mant ≠ 0 →
      let a : FV := .fin n mant e
      let x : ℚ := a.rat
      (∀ i : ℤ, x = i → fexp2 a = fround f32F .rne false 1 i) ∧
      (|x| < 2 ^ (-26 : ℤ) → fexp2 a = (0x3F800000, fNX)) ∧
      (512 ≤ |x| → fexp2 a = if n then (0, fUF ||| fNX) else (f32F.inf false, fOF ||| fNX)) ∧
      ((∀ i : ℤ, x ≠ i) → 2 ^ (-26 : ℤ) ≤ |x| → |x| < 512 → ∃ q : Nat, fexp2 a = froundS f32F .rne false q (⌊x⌋ - 160) true ∧
        abs ((q : ℝ) * 2 ^ (⌊x⌋ - 160) - (2 : ℝ) ^ (x : ℝ)) ≤ 2 ^ (⌊x⌋ - 148)) ∧
      (n = false →
        (∀ i : ℤ, x = 2 ^ i → flog2 a = fround f32F .rne (decide (i < 0)) i.natAbs 0) ∧
        ((∀ i : ℤ, x ≠ 2 ^ i) → ∃ q : Nat, flog2 a = froundS f32F .rne (decide (x < 1)) q (-110) true ∧
          abs ((q : ℝ) * 2 ^ (-110 : ℤ) - abs (Real.logb 2 (x : ℝ))) ≤ 2 ^ (-109 : ℤ)) ∧
        ∃ (q : Nat) (j : Int) (st : Bool), 2 ^ 25 ≤ q ∧ (q : ℚ) ^ 2 * 2 ^ (2 * j) * x ≤ 1 ∧ 1 < ((q : ℚ) + 1) ^ 2 * 2 ^ (2 * j) * x ∧
          (st = false ↔ (q : ℚ) ^ 2 * 2 ^ (2 * j) * x = 1) ∧ frsq a = froundS f32F .rne false q j st))

/-- R216 to R218, R223: scalar floating-point arithmetic: the exact value rounded once, NaNs, infinities, zero sums. -/
def Obligations.ScalarFloatArithmetic : Prop :=
  ∀ (s : State) (rm : RSel) (ty : Ty) (d a : G) (b : FSrc), ty.isScalarF = true →
    let f := tyFmt ty
    let mode := rselMode s.th rm
    let A := fvA s.th ty a
    let B := fvB s.th ty b
    let D := fvA s.th ty d
    -- NaN operands
    (A.isNan = true ∨ B.isNan = true →
      let r := (f.nan, if A.isSig || B.isSig then fNV else 0#5)
      exec (.fadd rm ty d a b) s = .next (afterFp s d r) ∧ exec (.fsub rm ty d a b) s = .next (afterFp s d r) ∧
      exec (.fmul rm ty d a b) s = .next (afterFp s d r) ∧ exec (.fdiv rm ty d a b) s = .next (afterFp s d r)) ∧
    (A.isNan = true → exec (.fsqrt rm ty d a) s = .next (afterFp s d (f.nan, if A.isSig then fNV else 0#5))) ∧
    (A.isNan = true ∨ B.isNan = true ∨ D.isNan = true →
      ¬ (A.isFin = true ∧ A.rat = 0 ∧ (B = .inf false ∨ B = .inf true)) →
      ¬ (B.isFin = true ∧ B.rat = 0 ∧ (A = .inf false ∨ A = .inf true)) →
      exec (.ffma rm ty d a b) s = .next (afterFp s d (f.nan, if A.isSig || B.isSig || D.isSig then fNV else 0#5))) ∧
    -- finite operands
    (A.isFin = true → B.isFin = true →
      (A.rat + B.rat ≠ 0 → ∃ n m e, (FV.fin n m e).rat = A.rat + B.rat ∧
        exec (.fadd rm ty d a b) s = .next (afterFp s d (fround f mode n m e))) ∧
      (A.rat + B.rat = 0 → exec (.fadd rm ty d a b) s =
        .next (afterFp s d (f.zero (if A.rat = 0 ∧ A.sign = B.sign then A.sign else mode == .rni), 0))) ∧
      (A.rat - B.rat ≠ 0 → ∃ n m e, (FV.fin n m e).rat = A.rat - B.rat ∧
        exec (.fsub rm ty d a b) s = .next (afterFp s d (fround f mode n m e))) ∧
      (A.rat - B.rat = 0 → exec (.fsub rm ty d a b) s =
        .next (afterFp s d (f.zero (if A.rat = 0 ∧ A.sign ≠ B.sign then A.sign else mode == .rni), 0))) ∧
      (∃ m e, (FV.fin (A.sign != B.sign) m e).rat = A.rat * B.rat ∧
        exec (.fmul rm ty d a b) s = .next (afterFp s d (fround f mode (A.sign != B.sign) m e))) ∧
      (D.isFin = true →
        (A.rat * B.rat + D.rat ≠ 0 → ∃ n m e, (FV.fin n m e).rat = A.rat * B.rat + D.rat ∧
          exec (.ffma rm ty d a b) s = .next (afterFp s d (fround f mode n m e))) ∧
        (A.rat * B.rat + D.rat = 0 → exec (.ffma rm ty d a b) s =
          .next (afterFp s d (f.zero (if D.rat = 0 ∧ (A.sign != B.sign) = D.sign then D.sign else mode == .rni), 0)))) ∧
      (A.rat ≠ 0 → B.rat ≠ 0 → ∃ (m : Nat) (e : Int) (st : Bool), 2 ^ (f.mb + 2) ≤ m ∧
        (m : ℚ) * 2 ^ e ≤ |A.rat / B.rat| ∧ |A.rat / B.rat| < (m + 1) * 2 ^ e ∧ (st = false ↔ |A.rat / B.rat| = m * 2 ^ e) ∧
        exec (.fdiv rm ty d a b) s = .next (afterFp s d (froundS f mode (A.sign != B.sign) m e st))) ∧
      (A.rat ≠ 0 → B.rat = 0 → exec (.fdiv rm ty d a b) s = .next (afterFp s d (f.inf (A.sign != B.sign), fDZ))) ∧
      (A.rat = 0 → B.rat = 0 → exec (.fdiv rm ty d a b) s = .next (afterFp s d (f.nan, fNV))) ∧
      (A.rat = 0 → B.rat ≠ 0 → exec (.fdiv rm ty d a b) s = .next (afterFp s d (f.zero (A.sign != B.sign), 0)))) ∧
    (A.isFin = true →
      (0 < A.rat → ∃ (m : Nat) (e : Int) (st : Bool), 2 ^ (f.mb + 2) ≤ m ∧
        (m : ℚ) ^ 2 * 2 ^ (2 * e) ≤ A.rat ∧ A.rat < (m + 1) ^ 2 * 2 ^ (2 * e) ∧ (st = false ↔ A.rat = (m : ℚ) ^ 2 * 2 ^ (2 * e)) ∧
        exec (.fsqrt rm ty d a) s = .next (afterFp s d (froundS f mode false m e st))) ∧
      (A.rat < 0 → exec (.fsqrt rm ty d a) s = .next (afterFp s d (f.nan, fNV))) ∧
      (A.rat = 0 → exec (.fsqrt rm ty d a) s = .next (afterFp s d (f.zero A.sign, 0)))) ∧
    -- infinities
    (∀ x y : Bool, A = .inf x → B = .inf y →
      exec (.fadd rm ty d a b) s = .next (afterFp s d (if x = y then (f.inf x, 0) else (f.nan, fNV))) ∧
      exec (.fsub rm ty d a b) s = .next (afterFp s d (if x = y then (f.nan, fNV) else (f.inf x, 0))) ∧
      exec (.fmul rm ty d a b) s = .next (afterFp s d (f.inf (x != y), 0)) ∧
      exec (.fdiv rm ty d a b) s = .next (afterFp s d (f.nan, fNV))) ∧
    (∀ x : Bool, A = .inf x → B.isFin = true →
      exec (.fadd rm ty d a b) s = .next (afterFp s d (f.inf x, 0)) ∧
      exec (.fsub rm ty d a b) s = .next (afterFp s d (f.inf x, 0)) ∧
      exec (.fmul rm ty d a b) s = .next (afterFp s d (if B.rat = 0 then (f.nan, fNV) else (f.inf (x != B.sign), 0))) ∧
      (B.rat = 0 → exec (.ffma rm ty d a b) s = .next (afterFp s d (f.nan, fNV))) ∧
      exec (.fdiv rm ty d a b) s = .next (afterFp s d (f.inf (x != B.sign), 0))) ∧
    (∀ y : Bool, A.isFin = true → B = .inf y →
      exec (.fadd rm ty d a b) s = .next (afterFp s d (f.inf y, 0)) ∧
      exec (.fsub rm ty d a b) s = .next (afterFp s d (f.inf (!y), 0)) ∧
      exec (.fmul rm ty d a b) s = .next (afterFp s d (if A.rat = 0 then (f.nan, fNV) else (f.inf (A.sign != y), 0))) ∧
      (A.rat = 0 → exec (.ffma rm ty d a b) s = .next (afterFp s d (f.nan, fNV))) ∧
      exec (.fdiv rm ty d a b) s = .next (afterFp s d (f.zero (A.sign != y), 0))) ∧
    (∀ t : Bool, A.isFin = true → B.isFin = true → D = .inf t → exec (.ffma rm ty d a b) s = .next (afterFp s d (f.inf t, 0))) ∧
    ((A = .inf A.sign ∧ (B = .inf B.sign ∨ (B.isFin = true ∧ B.rat ≠ 0))) ∨ (B = .inf B.sign ∧ A.isFin = true ∧ A.rat ≠ 0) →
      (D.isFin = true → exec (.ffma rm ty d a b) s = .next (afterFp s d (f.inf (A.sign != B.sign), 0))) ∧
      (∀ t : Bool, D = .inf t → exec (.ffma rm ty d a b) s = .next (afterFp s d
        (if t = (A.sign != B.sign) then (f.inf t, 0) else (f.nan, fNV))))) ∧
    (A = .inf false → exec (.fsqrt rm ty d a) s = .next (afterFp s d (f.inf false, 0))) ∧
    (A = .inf true → exec (.fsqrt rm ty d a) s = .next (afterFp s d (f.nan, fNV)))

/-- R219 to R222: minimum and maximum, sign operations, compares, conversions and classes. -/
def Obligations.ScalarFloatOther : Prop :=
  ∀ (s : State) (ty : Ty) (d a : G) (b : FSrc) (p : P), ty.isScalarF = true →
    let f := tyFmt ty
    let A := fvA s.th ty a
    let B := fvB s.th ty b
    let x := fregBits s.th ty a
    let y := fsrcBits s.th ty b
    let sig : BitVec 5 := if A.isSig || B.isSig then fNV else 0
    let cmp (r : Bool) (fl : BitVec 5) : State := afterTh s fun th => { wrP th p r with fst := th.fst ||| fl }
    (A.isNan = true → B.isNan = true →
      exec (.fmin ty d a b) s = .next (afterFp s d (f.nan, sig)) ∧ exec (.fmax ty d a b) s = .next (afterFp s d (f.nan, sig))) ∧
    (A.isNan = true → B.isNan = false →
      exec (.fmin ty d a b) s = .next (afterFp s d (y, sig)) ∧ exec (.fmax ty d a b) s = .next (afterFp s d (y, sig))) ∧
    (A.isNan = false → B.isNan = true →
      exec (.fmin ty d a b) s = .next (afterFp s d (x, sig)) ∧ exec (.fmax ty d a b) s = .next (afterFp s d (x, sig))) ∧
    (A.isNan = false → B.isNan = false →
      (A.first B = true →
        exec (.fmin ty d a b) s = .next (afterFp s d (x, 0)) ∧ exec (.fmax ty d a b) s = .next (afterFp s d (y, 0))) ∧
      (B.first A = true →
        exec (.fmin ty d a b) s = .next (afterFp s d (y, 0)) ∧ exec (.fmax ty d a b) s = .next (afterFp s d (x, 0))) ∧
      -- equal operands of one sign
      (A.same B = true → A.sign = B.sign →
        exec (.fmin ty d a b) s = .next (afterFp s d (x, 0)) ∧ exec (.fmax ty d a b) s = .next (afterFp s d (x, 0))) ∧
      exec (.fcmp .eq ty p a b) s = .next (cmp (A.same B) 0) ∧
      exec (.fcmp .ne ty p a b) s = .next (cmp (!A.same B) 0) ∧
      exec (.fcmp .lt ty p a b) s = .next (cmp (A.below B) 0) ∧
      exec (.fcmp .le ty p a b) s = .next (cmp (!B.below A) 0) ∧
      exec (.fcmp .gt ty p a b) s = .next (cmp (B.below A) 0) ∧
      exec (.fcmp .ge ty p a b) s = .next (cmp (!A.below B) 0) ∧
      exec (.fcmp .un ty p a b) s = .next (cmp false 0)) ∧
    (A.isNan = true ∨ B.isNan = true →
      exec (.fcmp .eq ty p a b) s = .next (cmp false sig) ∧ exec (.fcmp .ne ty p a b) s = .next (cmp true sig) ∧
      exec (.fcmp .lt ty p a b) s = .next (cmp false fNV) ∧ exec (.fcmp .le ty p a b) s = .next (cmp false fNV) ∧
      exec (.fcmp .gt ty p a b) s = .next (cmp false fNV) ∧ exec (.fcmp .ge ty p a b) s = .next (cmp false fNV) ∧
      exec (.fcmp .un ty p a b) s = .next (cmp true sig)) ∧
    exec (.fabs ty d a) s = .next (afterFp s d (x % 2 ^ (f.width - 1), 0)) ∧
    exec (.fneg ty d a) s = .next (afterFp s d (x ^^^ 2 ^ (f.width - 1), 0)) ∧
    (∃ c, c ≤ 9 ∧ exec (.fclass ty d a) s = .next (afterFp s d (2 ^ c, 0)) ∧
      (c = 8 ↔ A = .nan true) ∧ (c = 9 ↔ A = .nan false) ∧ (c = 0 ↔ A = .inf true) ∧ (c = 7 ↔ A = .inf false) ∧
      ((c = 3 ∨ c = 4) ↔ A.isFin = true ∧ A.rat = 0) ∧
      ((c = 1 ∨ c = 2 ∨ c = 3) ↔ A.isFin = true ∧ A.sign = true) ∧
      ((c = 2 ∨ c = 5) ↔ A.isFin = true ∧ A.rat ≠ 0 ∧ x / 2 ^ f.mb % 2 ^ f.eb = 0)) ∧
    (∀ (rm : RSel) (n : Ty), (n = .i32 ∨ n = .u32 ∨ n = .i64 ∨ n = .u64) →
      exec (.fcvt rm ty n d a) s = .next (afterFp s d
        (fround f (rselMode s.th rm) (decide (valTy n (rdG s.th a) < 0)) (valTy n (rdG s.th a)).natAbs 0)) ∧
      (A.isNan = true → exec (.fcvt rm n ty d a) s = .next (afterFp s d (0, fNV))) ∧
      (A = .inf true → exec (.fcvt rm n ty d a) s = .next (afterFp s d ((extTy n (modPow (tyBits n) (tyLo n))).toNat, fNV))) ∧
      (A = .inf false → exec (.fcvt rm n ty d a) s = .next (afterFp s d ((extTy n (modPow (tyBits n) (tyHi n))).toNat, fNV))) ∧
      (∀ neg m e, A = .fin neg m e →
        let q := rquant (rselMode s.th rm) neg m e 0
        let v : Int := if neg then -(q.1 : Int) else q.1
        exec (.fcvt rm n ty d a) s = .next (afterFp s d
          (if v < tyLo n then ((extTy n (modPow (tyBits n) (tyLo n))).toNat, fNV)
           else if tyHi n < v then ((extTy n (modPow (tyBits n) (tyHi n))).toNat, fNV)
           else ((extTy n (modPow (tyBits n) v)).toNat, if q.2 then fNX else 0))))) ∧
    (∀ rm : RSel,
      (∀ sg, fvA s.th .f32 a = .nan sg → exec (.fcvt rm .f64 .f32 d a) s = .next (afterFp s d (f64F.nan, if sg then fNV else 0))) ∧
      (∀ n, fvA s.th .f32 a = .inf n → exec (.fcvt rm .f64 .f32 d a) s = .next (afterFp s d (f64F.inf n, 0))) ∧
      (∀ sg, fvA s.th .f64 a = .nan sg → exec (.fcvt rm .f32 .f64 d a) s = .next (afterFp s d (f32F.nan, if sg then fNV else 0))) ∧
      (∀ n, fvA s.th .f64 a = .inf n → exec (.fcvt rm .f32 .f64 d a) s = .next (afterFp s d (f32F.inf n, 0))) ∧
      (∀ n m e, fvA s.th .f32 a = .fin n m e →
        exec (.fcvt rm .f64 .f32 d a) s = .next (afterFp s d (fround f64F (rselMode s.th rm) n m e))) ∧
      (∀ n m e, fvA s.th .f64 a = .fin n m e →
        exec (.fcvt rm .f32 .f64 d a) s = .next (afterFp s d (fround f32F (rselMode s.th rm) n m e))))

/-- R121, R225, R227, R228, R249, R49, R60: LD, GET, ST and PUT of the executing tile's own space. -/
def Obligations.LocalMemory : Prop :=
  (∀ (s : State) (ty : Ty) (d : G) (m : MemX), ty.isMem = true →
    let va := eaX s.th m
    let n := tyBits ty / 8
    let t := s.cur.t
    (∀ e, onCore s → homeFor s va aRead n = .error (.trap e) →
      exec (.ld ty d m) s = .next (takeFault s e) ∧ exec (.get ty d m) s = .next (takeFault s e)) ∧
    (∀ off, onCore s → ownPiece s va aRead n off → constRead s va n = none →
      (∀ s1 l, readHome s t off n aRead = .ok (s1, l) →
        exec (.ld ty d m) s = .next ((s1.modTh fun th => loadDest th ty d l).retire) ∧
        exec (.get ty d m) s = .next ((s1.modTh fun th => loadDest th ty d l).retire)) ∧
      (∀ e, readHome s t off n aRead = .error e →
        exec (.ld ty d m) s = .next (takeFault s { e with addr := va }) ∧
        exec (.get ty d m) s = .next (takeFault s { e with addr := va }))) ∧
    (∀ off s1 l, onCore s → homeFor s va aRead n = .ok (.tile t off) → off / 2 ^ 40 ≠ 3 → constRead s va n = none →
      readPieces s t aRead (localPieces va n) = .ok (s1, l) →
        exec (.ld ty d m) s = .next ((s1.modTh fun th => loadDest th ty d l).retire)) ∧
    -- at a tuber context the access begins, and completes when the bank grants it
    (∀ off, s.onTuber = true → homeFor s va tubR n = .ok (.tile t off) → off + n ≤ 2 ^ 40 →
      footprintOk s t s.cur.c va n false = true →
        exec (.ld ty d m) s = .next (beginOp s ⟨0, 0, va, 0, 0, 0, n, 0, [], destOf ty d, 0⟩)) ∧
    (∀ c p s1 l, (s.ctx t c).st = .waiting → (s.ctx t c).wait = .bank → (s.ctx t c).tub.isNcmd = false → (s.ctx t c).tub.prog = some p →
      p.op = 0 → p.i = 0 → p.dest = destOf ty d → readPieces s t tubR (localPieces p.x p.n) = .ok (s1, l) →
      (s.ctx t c).gang = .none → (s.ctx t c).stepping = false → p.n = n → l.length = n →
      ∃ u : State, exec (.bankAccessComplete t c) s = .next u ∧ (u.ctx t c).st = .ready ∧ (u.ctx t c).th.pc = (s.ctx t c).th.pc + 12 ∧
        (u.ctx t c).th.g = (loadDest (s.ctx t c).th ty d l).g ∧ u.mem = s1.mem) ∧
    (∀ off n, off < 2 ^ 40 →
      (∀ s1 x, xlate s t off aRead = .ok (s1, x) → poisonTrap s1 (vKey t x.pa) n = none →
        readHome s t off n aRead = .ok (wakeArrays s1 t 0 x.pa n true, vaultRead s1 t x.key x.pa n)) ∧
      (∀ s1 x tr, xlate s t off aRead = .ok (s1, x) → poisonTrap s1 (vKey t x.pa) n = some tr →
        readHome s t off n aRead = .error { tr with touched := [⟨t, 0, x.pa, n, true⟩] } ∧ tr.cause = .poison) ∧
      (∀ c, xlate s t off aRead = .error c → readHome s t off n aRead = .error { cause := c, touched := walkTouch s t off }) ∧
      (poisonTrap s (pKey t off) n = none →
        readHome s t (2 * 2 ^ 40 + off) n aRead = .ok (wakeArrays s t 1 off n false, cgets s.mem (pKey t off) n))) ∧
    (∀ (th : Thread) (l : List Byte),
      (ty ≠ .u128 → l.length = n → loadDest th ty d l = wrG th d (extBits ty (BitVec.ofNat (tyBits ty) (leNat l)))) ∧
      (ty = .u128 → ∀ hi : G, hi.val = d.val + 1 →
        loadDest th ty d l = wrG (wrG th d (leWord (l.take 8))) hi (leWord (l.drop 8))))) ∧
  (∀ (s : State) (ty : Ty) (d : G) (m : MemX), ty.isMem = true →
    let va := eaX s.th m
    let l := storeBytes s.th ty d
    let t := s.cur.t
    l.length = tyBits ty / 8 ∧
    (ty ≠ .u128 → l = leBytes (tyBits ty / 8) (rdG s.th d).toNat) ∧
    (∀ e, onCore s → homeFor s va aWrite l.length = .error (.trap e) →
      exec (.st ty d m) s = .next (takeFault s e) ∧ exec (.put ty d m) s = .next (takeFault s e)) ∧
    (∀ off, onCore s → ownPiece s va aWrite l.length off →
      (relHeld s = true → exec (.st ty d m) s = .next (s.modMe fun c => { c with st := .waiting, wait := .retry })) ∧
      (relHeld s = false →
        (∀ s1, writeHome s t off l aWrite = .ok s1 → exec (.st ty d m) s = .next s1.retire ∧ exec (.put ty d m) s = .next s1.retire) ∧
        (∀ e, writeHome s t off l aWrite = .error e →
          exec (.st ty d m) s = .next (takeFault s { e with addr := va }) ∧
          exec (.put ty d m) s = .next (takeFault s { e with addr := va })))) ∧
    (∀ off, s.onTuber = true → homeFor s va tubW l.length = .ok (.tile t off) → off + l.length ≤ 2 ^ 40 →
      footprintOk s t s.cur.c va l.length true = true →
        exec (.st ty d m) s = .next (beginOp s ⟨0, 1, va, 0, 0, 0, l.length, 0, l.map (·.toNat), .none, 0⟩)) ∧
    (∀ c p s1, (s.ctx t c).st = .waiting → (s.ctx t c).wait = .bank → (s.ctx t c).tub.isNcmd = false → (s.ctx t c).tub.prog = some p →
      p.op = 1 → p.i = 0 → p.dest = .none → p.acc = l.map (·.toNat) →
      writePieces s t tubW (splitData (localPieces p.x p.n) l) = .ok s1 →
      (s.ctx t c).gang = .none → (s.ctx t c).stepping = false →
      ∃ u : State, exec (.bankAccessComplete t c) s = .next u ∧ (u.ctx t c).st = .ready ∧ (u.ctx t c).th.pc = (s.ctx t c).th.pc + 12 ∧
        (u.ctx t c).th.g = (s.ctx t c).th.g ∧ u.mem = s1.mem) ∧
    (∀ off, off < 2 ^ 40 →
      (∀ s1 x, xlate s t off aWrite = .ok (s1, x) → x.key = 0 → ∃ u, writeHome s t off l aWrite = .ok u ∧
        u.mem = cputs s.mem (vKey t x.pa) l ∧ (∀ c, u.ctx t c = s.ctx t c) ∧
        (∀ w, w ∈ wholeWords (vKey t x.pa) l.length → w ∉ u.poison ∧ (w ∈ u.full → w ∉ s.poison))) ∧
      (∀ c, xlate s t off aWrite = .error c → writeHome s t off l aWrite = .error { cause := c, touched := walkTouch s t off }) ∧
      ∃ u, writeHome s t (2 * 2 ^ 40 + off) l aWrite = .ok u ∧ u.mem = cputs s.mem (pKey t off) l))

/-- R229, R230, R226, R105: the requests that leave for another tile or the edge. -/
def Obligations.RemoteRequests : Prop :=
  ∀ (s : State) (ty : Ty) (d : G) (m : MemX) (mb : MemB) (cnt : G) (inc : BitVec 4), ty.isMem = true → onCore s →
    let va := eaX s.th m
    let n := tyBits ty / 8
    let l := storeBytes s.th ty d
    let t := s.cur.t
    let pb := eaB s.th mb
    let ct := rdG s.th cnt
    (∀ h off, remotePiece s va aRead n h off → constRead s va n = none →
      let u := (addPend (s.nextReq.send t h 3 (.get (mkReq s) (pieces va 5 n))) (destOf ty d) [(s.reqNo, [])] [(va, n)]).retire
      exec (.get ty d m) s = .next u ∧ (pinnedTo s t s.cur.c h = true → exec (.ld ty d m) s = .next u)) ∧
    (∀ o, homeFor s va aRead n = .ok (.edge o) →
      let u := (addPend (s.nextReq.send t (siteOf s (.edge o)) 3 (.edge (mkReq s) (pieces va 5 n) none none))
        (destOf ty d) [(s.reqNo, [])] [(va, n)]).retire
      exec (.get ty d m) s = .next u ∧ exec (.ld ty d m) s = .next u) ∧
    (∀ h off, remotePiece s va aWrite n h off → relHeld s = false →
      let u := (addOut (s.nextReq.send t h 3 (.put (mkReq s) (pieces va 5 n) l)) s.reqNo va n).retire
      exec (.put ty d m) s = .next u ∧ (pinnedTo s t s.cur.c h = true → exec (.st ty d m) s = .next u)) ∧
    (∀ h off, remotePiece s pb aWrite n h off → relHeld s = false → vaultAddr s t 8 ct = true →
      exec (.putc ty d mb cnt inc) s =
        .next (addOut (s.nextReq.send t h 3 (.putc (mkReq s) (pieces pb 5 n) l ct (inc.toNat + 1))) s.reqNo pb n).retire) ∧
    (∀ off s1, ownPiece s pb aWrite n off → relHeld s = false → vaultAddr s t 8 ct = true → writeHome s t off l aWrite = .ok s1 →
      exec (.putc ty d mb cnt inc) s =
        .next (s1.nextReq.send t (tileOf s1.nextReq t ct) 4 (.incr (some (mkReq s)) ct (inc.toNat + 1) true)).retire) ∧
    (∀ h, homeFor s pb aWrite n = .ok h → vaultAddr s t 8 ct = false →
      exec (.putc ty d mb cnt inc) s = .next (takeFault s { cause := .address, addr := ct }))

/-- R79, R80, R83, R91, R231: migration by LD and MIGR, and the explicit pin. -/
def Obligations.MigrationStarts : Prop :=
  ∀ (s : State) (ty : Ty) (d : G) (m : MemX) (p : P) (mb : MemB),
    let t := s.cur.t
    let c := s.cur.c
    (ty.isMem = true → onCore s → ∀ h off, remotePiece s (eaX s.th m) aRead (tyBits ty / 8) h off →
      constRead s (eaX s.th m) (tyBits ty / 8) = none → pinnedTo s t c h = false →
      exec (.ld ty d m) s = .next (beginPack s t c h 0 0)) ∧
    (∀ h off, homeFor s (eaB s.th mb) aRead 1 = .ok (.tile h off) →
      (h = t → exec (.migr p mb) s = .next (afterTh s fun th => wrP th p true)) ∧
      (h ≠ t → pinnedTo s t c h = true → exec (.migr p mb) s = .next (afterTh s fun th => wrP th p false)) ∧
      (h ≠ t → pinnedTo s t c h = false → exec (.migr p mb) s = .next (beginPack s t c h 1 p.val))) ∧
    (∀ o, homeFor s (eaB s.th mb) aRead 1 = .ok (.edge o) →
      exec (.migr p mb) s = .next (takeFault s { cause := .address, addr := eaB s.th mb })) ∧
    exec .pin s = .next (afterTh s fun th => { th with epin := true }) ∧
    exec .unpin s = .next (afterTh s fun th => { th with epin := false }) ∧
    (∀ (h : Tile) (k : BitVec 2) (n : Nat),
      (∀ e ∈ (s.tile t).comb, contributes (s.ctx t c).th.tid e = false) → (s.ctx t c).outs = [] → (s.ctx t c).pend = [] →
      holder s (s.tile t).pid (s.ctx t c).th.launch h = none →
      let x := s.ctx t c
      let m : Mig := ⟨h, k, n, none, 0⟩
      beginPack s t c h k n = (s.setCtx t c { x with st := .held, wait := .none, mig := some m }).send t h 0
        (.pod ((podOut (s.tile t) (if k = 1 then spanStep (wrP { x.th with pc := x.th.pc + 12 } (Fin.ofNat 8 n) true) else x.th) h k).leaves s t h) k none none)) ∧
    (∀ (h : Tile) (k : BitVec 2) (n : Nat), (s.ctx t c).outs ≠ [] ∨ (s.ctx t c).pend ≠ [] →
      ((beginPack s t c h k n).ctx t c).st = .packing)

/-- R227, R232 to R234: vector memory whose active lanes are all at the executing tile, and one remote block. -/
def Obligations.VectorMemory : Prop :=
  ∀ (s : State) (ty : Ty) (k : K) (d : V) (m : MemX) (mb : MemB) (sc : BitVec 2) (b : G) (bv : V),
    let t := s.cur.t
    let lanesOf := active (rdK s.th k)
    let blk := lanesOf.map fun i => (i, eaX s.th m + w64 (4 * i))
    let str := lanesOf.map fun i => (i, rdG s.th mb.base + simm mb.disp + (w64 i * rdG s.th b <<< sc.toNat))
    let idx := lanesOf.map fun i => (i, rdG s.th mb.base +
      (((lane (rdV s.th (Fin.ofNat 8 (bv.val + 1))) i ++ lane (rdV s.th bv) i : BitVec 64)) <<< sc.toNat) + simm mb.disp)
    (∀ l s1 v, laneHomes s aRead blk = .ok l → (l.all (laneNow s)) = true → blockHome l = .ok () → laneGate s l = .ok () →
      readLanes s (rdV s.th d) l = .ok (s1, v) → exec (.vld ty k d m) s = .next (s1.modTh fun th => wrV th d v).retire) ∧
    (∀ l s1, laneHomes s aWrite blk = .ok l → (l.all (laneNow s)) = true → blockHome l = .ok () → relHeld s = false → laneGate s l = .ok () →
      writeGranules s (rdV s.th d) (granules l) = .ok s1 → exec (.vst ty k d m) s = .next s1.retire) ∧
    (∀ l s1 v, laneHomes s aRead str = .ok l → (l.all (laneNow s)) = true → laneGate s l = .ok () → readLanes s (rdV s.th d) l = .ok (s1, v) →
      exec (.vlds ty k sc d mb b) s = .next (s1.modTh fun th => wrV th d v).retire) ∧
    (∀ l s1, laneHomes s aWrite str = .ok l → (l.all (laneNow s)) = true → relHeld s = false → laneGate s l = .ok () →
      writeLanes s (rdV s.th d) l = .ok s1 →
      exec (.vsts ty k sc d mb b) s = .next s1.retire) ∧
    (∀ l s1 v, laneHomes s aRead idx = .ok l → (l.all (laneNow s)) = true → laneGate s l = .ok () → readLanes s (rdV s.th d) l = .ok (s1, v) →
      exec (.vgath ty k sc d mb bv) s = .next (s1.modTh fun th => wrV th d v).retire) ∧
    (∀ l s1, laneHomes s aWrite idx = .ok l → (l.all (laneNow s)) = true → relHeld s = false → laneGate s l = .ok () →
      writeLanes s (rdV s.th d) l = .ok s1 →
      exec (.vscat ty k sc d mb bv) s = .next s1.retire) ∧
    -- lanes at the tile itself wait for nothing, and one in another tile's system space for the thread's earlier requests to that tile
    (∀ l : List (Nat × Word × Home), (∀ e ∈ l, laneTile e.2.2 = some t) → laneGate s l = .ok ()) ∧
    (∀ l, laneHomes s aRead blk = .ok l → (l.all (laneNow s)) = true → blockHome l = .ok () → laneGate s l ≠ .ok () →
      exec (.vld ty k d m) s = .next (s.modMe fun y => { y with st := .waiting, wait := .retry })) ∧
    -- what the lanes read and write
    (∀ (l : List (Nat × Word × Home)) (s1 : State) (v w : VReg), readLanes s v l = .ok (s1, w) → (∀ e ∈ l, e.1 < 16) →
      ∀ i < 16, (∀ e ∈ l, e.1 ≠ i) → lane w i = lane v i) ∧
    -- a misaligned lane, and a remote block
    (∀ e, laneHomes s aRead blk = .error (.trap e) → exec (.vld ty k d m) s = .next (takeFault s e)) ∧
    (∀ l h off i a, laneHomes s aRead blk = .ok l → l.head? = some (i, a, .tile h off) → h ≠ t → off / 2 ^ 40 ≠ 3 → blockHome l = .ok () →
      pinnedTo s t s.cur.c h = false → exec (.vld ty k d m) s = .next (beginPack s t s.cur.c h 0 0))

/-- R96, R235, R236, Table 11.5: fire-and-forget atomics. -/
def Obligations.FireAndForgetAtomics : Prop :=
  (∀ (s : State) (ty : Ty) (d : G) (m : MemX),
    ∀ p ∈ ([(.aadd, .add), (.afadd, .fadd), (.amin, .min), (.amax, .max), (.aand, .and), (.aor, .or), (.axor, .xor)] :
        List ((Ty → G → MemX → Instr) × AtomOp)),
      let va := eaX s.th m
      let n := tyBits ty / 8
      let t := s.cur.t
      let v := w64 ((rdG s.th d).toNat % 2 ^ tyBits ty)
      let comb := (s.tile t).comb
      (∀ e, atomCheck s va n = .error (.trap e) → exec (p.1 ty d m) s = .next (takeFault s e)) ∧
      (∀ off c, atomHome s va n = .ok (t, off) → off < 2 ^ 40 → xlate s t off aWrite = .error c →
        exec (p.1 ty d m) s = .next (takeFault s { cause := c, addr := va, touched := walkTouch s t off })) ∧
      (∀ h, atomCheck s va n = .ok h →
        (relHeld s = true → exec (p.1 ty d m) s = .next (s.modMe fun c => { c with st := .waiting, wait := .retry })) ∧
        (relHeld s = false →
          ((∀ e ∈ comb, e.addr ≠ va) → comb.length < 32 →
            exec (p.1 ty d m) s = .next (addOut (s.nextReq.modTile t fun x =>
              { x with comb := x.comb ++ [⟨s.reqNo, va, p.2, ty, v, [contrib s], x.lcyc⟩] }) s.reqNo va n).retire) ∧
          (∀ l e r, comb = l ++ e :: r → e.addr = va → (∀ f ∈ r, f.addr ≠ va) → e.op = p.2 → e.ty = ty → p.2 ≠ .fadd →
            (∀ w ∈ e.who, ¬ (w.1 = s.cur.c ∧ w.2.1 = s.th.tid)) → (∀ o ∈ s.me.outs, o.id ≠ e.id) →
            exec (p.1 ty d m) s = .next (addOut (s.modTile t fun x => { x with comb :=
              l ++ { e with val := w64 (atomFn p.2 ty e.val.toNat v.toNat), who := e.who ++ [contrib s] } :: r }) e.id va n).retire)))) ∧
  -- what each operation computes at the word
  (∀ (ty : Ty) (x y : Word), ty.isAtom = true →
    let a := lowBits ty x
    let b := lowBits ty y
    atomFn .add ty a.toNat b.toNat = (a + b).toNat ∧ atomFn .and ty a.toNat b.toNat = (a &&& b).toNat ∧
    atomFn .or ty a.toNat b.toNat = (a ||| b).toNat ∧ atomFn .xor ty a.toNat b.toNat = (a ^^^ b).toNat ∧
    (tySigned ty = true → atomFn .min ty a.toNat b.toNat = (if a.sle b then a else b).toNat ∧
      atomFn .max ty a.toNat b.toNat = (if a.sle b then b else a).toNat) ∧
    (tySigned ty = false → atomFn .min ty a.toNat b.toNat = (if a.ule b then a else b).toNat ∧
      atomFn .max ty a.toNat b.toNat = (if a.ule b then b else a).toNat))

/-- R122, R235, R238, R225: returning atomics at their home, and where they go when the word's home is elsewhere; that a
failing CAS counts as a write for a window's generations is the model's choice (log 105). -/
def Obligations.ReturningAtomics : Prop :=
  ∀ (s : State) (ty : Ty) (d : G) (m : MemB) (b : G), ty.isAtom = true →
    let va := eaB s.th m
    let n := tyBits ty / 8
    let t := s.cur.t
    let v := rdG s.th b
    let old (l : List Byte) : Word := extBits ty (BitVec.ofNat (tyBits ty) (leNat l))
    (∀ off s0 x, off < 2 ^ 40 → xlate s t off aWrite = .ok (s0, x) → mayWrite s t off n = .ok (s0, fun u => genWrite u t x.pa n)) ∧
    (∀ off c, atomHome s va n = .ok (t, off) → relHeld s = false → off < 2 ^ 40 → xlate s t off aWrite = .error c →
      exec (.xadd ty d m b) s = .next (takeFault s { cause := c, addr := va, touched := walkTouch s t off })) ∧
    (∀ off s0 f s1 l, atomHome s va n = .ok (t, off) → relHeld s = false → mayWrite s t off n = .ok (s0, f) →
      readHome s0 t off n aRead = .ok (s1, l) →
      (∀ s2, writeHome s1 t off (leBytes n ((leNat l + v.toNat) % 2 ^ (8 * n))) aWrite = .ok s2 →
        exec (.xadd ty d m b) s = .next ((servedAt s2 t off).modTh fun th => wrG th d (old l)).retire) ∧
      (∀ s2, writeHome s1 t off (leBytes n (v.toNat % 2 ^ (8 * n))) aWrite = .ok s2 →
        exec (.xchg ty d m b) s = .next (s2.modTh fun th => wrG th d (old l)).retire) ∧
      (∀ s2, leNat l = (rdG s.th d).toNat % 2 ^ tyBits ty → writeHome s1 t off (leBytes n (v.toNat % 2 ^ (8 * n))) aWrite = .ok s2 →
        exec (.cas ty d m b) s = .next (s2.modTh fun th => wrG th d (old l)).retire) ∧
      (leNat l ≠ (rdG s.th d).toNat % 2 ^ tyBits ty →
        exec (.cas ty d m b) s = .next ((f s1).modTh fun th => wrG th d (old l)).retire)) ∧
    (∀ h off, atomHome s va n = .ok (h, off) → relHeld s = false → h ≠ t →
      (pinnedTo s t s.cur.c h = true →
        let sent (op : MsgOp) : State :=
          (addPend (s.nextReq.send t h 3 (.msg (mkReq s) va op)) (.g d.val ty) [(s.reqNo, [])] [(va, n)]).retire
        exec (.xadd ty d m b) s = .next (sent (.xadd ty v)) ∧ exec (.xchg ty d m b) s = .next (sent (.xchg ty v)) ∧
        exec (.cas ty d m b) s = .next (sent (.cas ty (rdG s.th d) v))) ∧
      (pinnedTo s t s.cur.c h = false →
        exec (.xadd ty d m b) s = .next (beginPack s t s.cur.c h 0 0) ∧ exec (.xchg ty d m b) s = .next (beginPack s t s.cur.c h 0 0) ∧
        exec (.cas ty d m b) s = .next (beginPack s t s.cur.c h 0 0))) ∧
    (va.toNat % n ≠ 0 → ∀ h, homeFor s va aWrite 1 = .ok h →
      exec (.xadd ty d m b) s = .next (takeFault s { cause := .address, addr := va }))

/-- R106, R107, R239, Table 6.1: sync words at the executing tile; that a failing TRYT counts as a write for a window's
generations is the model's choice (log 105). -/
def Obligations.SyncWordResults : Prop :=
  ∀ (s : State) (d b : G) (p : P) (m : MemB) (off : Nat),
    let va := eaB s.th m
    let t := s.cur.t
    let word (s1 : State) (x : Xl) : Word := leWord (vaultRead s1 t x.key x.pa 8)
    (∀ s1 x, syncAddr s va true = .ok (t, off) → off < 2 ^ 40 → xlate s t off aSyncW = .ok (s1, x) →
      poisonTrap s1 (vKey t x.pa) 8 = none →
      let s2 := syncWake s1 t x
      (tagAt s2 t x.pa = true →
        exec (.take d m) s = .next ((tagWrite s2 t x false).modTh fun th => wrG th d (word s1 x)).retire ∧
        exec (.tryt d p m) s = .next ((tagWrite s2 t x false).modTh fun th => wrP (wrG th d (word s1 x)) p true).retire) ∧
      (tagAt s2 t x.pa = false →
        exec (.tryt d p m) s = .next ((genWrite s2 t x.pa 8).modTh fun th => wrP th p false).retire ∧
        (pinned s2 t s.cur.c = false → (s.tile t).notices = [] → s.cur.c < 32 → chargeTile s t s.th = t →
          ∃ u : State, exec (.take d m) s = .next u ∧ u.ctx t s.cur.c = Ctx.free ∧
            (∀ o ∈ s.me.outs, ∃ l ∈ u.left, l.out = o ∧ l.tid = s.th.tid) ∧
            ∃ e, defList u t off = defList s2 t off ++ [e] ∧ e.kind = .take ∧ e.waddr = va ∧ e.tid = s.th.tid ∧ e.pin = false ∧ e.dreg = d.val)) ∧
      (relHeld s = false → exec (.sete m) s = .next (tagWrite s2 t x false).retire) ∧
      -- what the tag write does
      tagAt (tagWrite s2 t x false) t x.pa = false ∧ (tagWrite s2 t x false).mem = s1.mem) ∧
    (∀ s1 x, syncAddr s va false = .ok (t, off) → off < 2 ^ 40 → xlate s t off aSyncR = .ok (s1, x) →
      poisonTrap s1 (vKey t x.pa) 8 = none →
      let s2 := syncWake s1 t x
      (tagAt s2 t x.pa = true → exec (.peek d m) s = .next (s2.modTh fun th => wrG th d (word s1 x)).retire) ∧
      exec (.feq p m) s = .next (s2.modTh fun th => wrP th p (tagAt s2 t x.pa)).retire) ∧
    -- GIVE with nothing bound to the word and nothing of its own held back
    (∀ s1 x, syncAddr s va true = .ok (t, off) → off < 2 ^ 40 → s.me.snap = none → bindingsOf s t off = [] → relHeld s = false →
      (s.tile t).comb = [] → (s.tile t).jobs = [] → s.me.outs = [] → s.me.pend = [] →
      xlate (s.modMe fun c => { c with snap := some [] }) t off aSyncW = .ok (s1, x) →
      ∃ (u : State) (f : Bool), exec (.give p m b) s = .next (u.modTh fun th => wrP th p f).retire ∧
        f = (tagAt (syncWake s1 t x) t x.pa && (poisonTrap (syncWake s1 t x) (vKey t x.pa) 8).isNone) ∧
        (x.key = 0 → defList s1 t off = [] → u.mem = cputs s1.mem (vKey t x.pa) (wBytes (rdG s.th b))) ∧
        (f = false → defList s1 t off = [] → tagAt u t x.pa = true)) ∧
    -- an address that cannot hold a sync word
    (∀ e, syncAddr s va true = .error (.trap e) →
      exec (.take d m) s = .next (takeFault s e) ∧ exec (.tryt d p m) s = .next (takeFault s e) ∧
      exec (.sete m) s = .next (takeFault s e) ∧ exec (.give p m b) s = .next (takeFault s e))

/-- R111, R115 to R117, R240 to R242: bindings, counters and fences. -/
def Obligations.BindCounterFence : Prop :=
  ∀ (s : State) (p : P) (m : MemB) (a b : G) (off : Nat) (sc : Fin 16),
    let va := eaB s.th m
    let t := s.cur.t
    let bd : Word × Word × Word := ((s.tile t).here off, rdG s.th a, rdG s.th b)
    (∀ s1 x, syncAddr s va false = .ok (t, off) → off < 2 ^ 40 → regionOk s (rdG s.th a) (rdG s.th b) = true → relHeld s = false →
      xlate s t off aSyncR = .ok (s1, x) → poisonTrap s1 (vKey t x.pa) 8 = none →
      let s2 := syncWake s1 t x
      (bd ∈ (s.tile t).binds →
        exec (.bind p m a b) s = .next (s2.modTh fun th => wrP th p true).retire ∧
        exec (.unbind p m a b) s = .next ((s2.modTile t fun y => { y with binds := y.binds.filter (· != bd) }).modTh fun th => wrP th p true).retire) ∧
      (bd ∉ (s.tile t).binds → exec (.unbind p m a b) s = .next (s2.modTh fun th => wrP th p false).retire) ∧
      (bd ∉ (s.tile t).binds → (s.tile t).binds.length < 64 →
        exec (.bind p m a b) s = .next ((s2.modTile t fun y => { y with binds := y.binds ++ [bd] }).modTh fun th => wrP th p true).retire) ∧
      (bd ∉ (s.tile t).binds → 64 ≤ (s.tile t).binds.length →
        exec (.bind p m a b) s = .next (s2.modTh fun th => wrP th p false).retire)) ∧
    (syncAddr s va false = .ok (t, off) → regionOk s (rdG s.th a) (rdG s.th b) = false →
      exec (.bind p m a b) s = .next (takeFault s { cause := .address, addr := rdG s.th a }) ∧
      exec (.unbind p m a b) s = .next (takeFault s { cause := .address, addr := rdG s.th a })) ∧
    (∀ s1 l, syncAddr s va false = .ok (t, off) → readHome s t off 8 aRead = .ok (s1, l) →
      exec (.ctest p m b) s = .next (s1.modTh fun th => wrP th p (decide ((rdG s.th b).toNat ≤ leNat l))).retire ∧
      ((rdG s.th b).toNat ≤ leNat l → exec (.cwait m b) s = .next s1.retire)) ∧
    -- fences
    (duePend s.me (fenceCovers s sc.val) = [] → exec (.fenceAcq sc) s = .next (flushMine s (fenceCovers s sc.val)).retire) ∧
    (duePend s.me (fenceCovers s sc.val) ≠ [] →
      exec (.fenceAcq sc) s = .next ((flushMine s (fenceCovers s sc.val)).modMe fun c => { c with st := .waiting, wait := .retry })) ∧
    ((∀ e ∈ (s.tile t).comb, contributes s.th.tid e = false) → flushMine s (fenceCovers s sc.val) = s) ∧
    (∀ e ∈ (flushMine s (fenceCovers s sc.val)).tile t |>.comb, contributes s.th.tid e = true → fenceCovers s sc.val e.addr (tyBits e.ty / 8) = false) ∧
    ((∀ e ∈ (s.tile t).comb, contributes s.th.tid e = false) →
      exec (.fenceRel sc) s = .next (s.modMe fun c =>
        { c with relIds := c.relIds ++ dueOuts c (fenceCovers s sc.val) ++ duePend c (fenceCovers s sc.val) }).retire ∧
      (dueOuts s.me (fenceCovers s sc.val) = [] → duePend s.me (fenceCovers s sc.val) = [] → exec (.fenceFull sc) s = .next s.retire) ∧
      (dueOuts s.me (fenceCovers s sc.val) ≠ [] ∨ duePend s.me (fenceCovers s sc.val) ≠ [] →
        exec (.fenceFull sc) s = .next (s.modMe fun c => { c with st := .waiting, wait := .retry })))

/-- R243 to R246, R119, Table 11.7, Table 11.8: hardware barriers. -/
def Obligations.BarrierResults : Prop :=
  ∀ (s : State) (rel : Bool) (d a b : G) (p : P),
    let t := s.cur.t
    let x := s.tile t
    let desc := rdG s.th a
    let u := barUnit desc
    let tok : Word := w64 (x.lx * 2 ^ 40 + u * 2 ^ 39 + x.ly * 2 ^ 32 + (x.bar u).ph.toNat)
    (barOk x desc = false →
      exec (.bara rel d a) s = .next (takeFault s { cause := .barrier }) ∧
      exec (.barr rel d p a b) s = .next (takeFault s { cause := .barrier })) ∧
    (barOk x desc = true → (x.bar u).desc = none → relHeld s = false → rel = false →
      let s1 := (s.modTile t fun y => y.setBar u { y.bar u with desc := some desc }).modTh fun th => wrG th d tok
      exec (.bara rel d a) s = .next s1.retire ∧
      exec (.barr rel d p a b) s = .next (s1.modMe fun y =>
        { y with st := .waiting, wait := .barrier u (x.bar u).ph (rdG s.th b).toNat x.lcyc p.val })) ∧
    (barOk x desc = true → (x.bar u).desc = none → relHeld s = false → rel = true → x.comb = [] →
      (dueOuts s.me (barCovers (barRect desc)) ≠ [] →
        exec (.bara rel d a) s = .next (s.modMe fun y => { y with st := .waiting, wait := .retry })) ∧
      (dueOuts s.me (barCovers (barRect desc)) = [] → duePend s.me (barCovers (barRect desc)) = [] →
        exec (.bara rel d a) s = .next ((s.modTile t fun y => y.setBar u { y.bar u with desc := some desc }).modTh
          fun th => wrG th d tok).retire)) ∧
    -- BARW
    (let w := rdG s.th a
     (fld w 47 17 ≠ 0 ∨ bit w 38 = true ∨ fld w 40 7 ≠ x.lx ∨ fld w 32 6 ≠ x.ly →
        exec (.barw p a b) s = .next (takeFault s { cause := .barrier })) ∧
      (fld w 47 17 = 0 → bit w 38 = false → fld w 40 7 = x.lx → fld w 32 6 = x.ly →
        ((x.bar (fld w 39 1)).ph.toNat ≠ fld w 0 32 → exec (.barw p a b) s = .next (afterTh s fun th => wrP th p true)) ∧
        ((x.bar (fld w 39 1)).ph.toNat = fld w 0 32 →
          exec (.barw p a b) s = .next (s.modMe fun y =>
            { y with st := .waiting, wait := .barrier (fld w 39 1) (x.bar (fld w 39 1)).ph (rdG s.th b).toNat x.lcyc p.val })))) ∧
    -- the phase, on a rectangle of one tile whose waits belong to this unit
    (∀ v e, v < 2 → (x.bar v).desc = some e → barRect e = ⟨x.lx, x.ly, 1, 1⟩ → x.at x.lx x.ly = t →
      ∃ z : State, exec (.barrierPhaseComplete t v) s = .next z ∧
        ((∀ k ∈ x.ctxs, ∀ q g i j, k.2.wait ≠ .barrier v q g i j) → (z.tile t).bar v = ⟨(x.bar v).ph + 1, none⟩ ∧ z.mem = s.mem)) ∧
    (∀ k v q g i j, (s.ctx t k).st = .waiting → (s.ctx t k).wait = .barrier v q g i j → g ≠ 0 → i + g ≤ x.lcyc →
      exec (.barrierTimeout t k) s = .next (retireNext (s.modCtx t k fun y => { y with th := wrP y.th (Fin.ofNat 8 j) false }) t k))

/-- R247, R248, R49 to R51: the cache instructions. -/
def Obligations.CacheResults : Prop :=
  ∀ (s : State) (m : MemB) (b d : G) (p : P) (inc : BitVec 4),
    let va := eaB s.th m
    let len := rdG s.th b
    let t := s.cur.t
    let c := s.cur.c
    let o := fld va 0 40
    let own : Prop := fld va 57 7 = 0 ∧ fld va 44 7 < (s.tile t).pw ∧ fld va 51 6 < (s.tile t).phh ∧ tileOf s t va = t ∧ fld va 40 4 = 0 ∧
      len.toNat ≤ 2 ^ 30 ∧ o + len.toNat ≤ 2 ^ 40
    let lines := (o + len.toNat - 1) / 128 - o / 128 + 1
    let refuses (i : Instr) : Prop := exec i s = .next (takeFault s { cause := .address, addr := va })
    let begins (i : Instr) (op : LineFn) : Prop :=
      exec i s = .next (s.modMe fun y => { y with st := .waiting, wait := .lines op (o / 128 * 128) lines 0 lines })
    -- a range that is not the tile's own vault space, or is too long
    (¬ own → refuses (.pref m b d inc) ∧ refuses (.lockl d p m b) ∧ refuses (.unlockl m b) ∧ refuses (.wback m b) ∧ refuses (.wbinv m b) ∧
      refuses (.inval m b)) ∧
    -- PREF
    (own →
      (∃ u : State, exec (.pref m b 0 inc) s = .next u.retire ∧ u.mem = s.mem ∧ u.full = s.full ∧ (∀ k, u.ctx t k = s.ctx t k) ∧
        (∀ w ∈ s.poison, w ∈ u.poison) ∧ ∀ w ∈ u.poison, w ∈ s.poison ∨ ∃ v ∈ s.latent, v / 4 = w / 4) ∧
      (d ≠ 0 → vaultAddr s t 8 (rdG s.th d) = false →
        exec (.pref m b d inc) s = .next (takeFault s { cause := .address, addr := rdG s.th d })) ∧
      (d ≠ 0 → vaultAddr s t 8 (rdG s.th d) = true → len = 0 →
        exec (.pref m b d inc) s = .next (s.nextReq.send t (tileOf s t (rdG s.th d)) 4
          (.incr (some (mkReq s)) (rdG s.th d) (inc.toNat + 1) false)).retire) ∧
      (d ≠ 0 → vaultAddr s t 8 (rdG s.th d) = true → len ≠ 0 →
        ∃ u : State, exec (.pref m b d inc) s = .next u.retire ∧ u.mem = s.mem ∧ u.net = s.net ∧
          (u.tile t).prefs = (s.tile t).prefs ++ [⟨rdG s.th d, inc.toNat + 1, s.th.tid, s.cur.c, s.th.pc, s.cur.iw⟩])) ∧
    -- a range of no line completes at once, another line by line
    (own → len = 0 → exec (.lockl d p m b) s = .next (afterTh s fun th => wrP (wrG th d 0) p true) ∧ exec (.unlockl m b) s = .next s.retire ∧
      exec (.wback m b) s = .next s.retire ∧ exec (.wbinv m b) s = .next s.retire ∧ exec (.inval m b) s = .next s.retire) ∧
    (own → len ≠ 0 → begins (.lockl d p m b) (.lock d.val p.val) ∧ begins (.unlockl m b) .unlock ∧ begins (.wback m b) .wback ∧
      begins (.wbinv m b) .wbinv ∧ begins (.inval m b) .inval) ∧
    -- after as many line steps as it has lines, the instruction has retired
    (∀ u op off n hit tot, (u.ctx t c).st = .waiting → (u.ctx t c).wait = .lines op off n hit tot → 0 < n → (u.ctx t c).stepping = false →
      (u.ctx t c).gang = .none →
      let v := (List.range n).foldl (fun v _ => lineStep v t c) u
      (v.ctx t c).st = .ready ∧ (v.ctx t c).th.pc = (u.ctx t c).th.pc + 12 ∧ v.net = u.net ∧ (op ≠ .inval → v.mem = u.mem)) ∧
    -- one mapped line, the last of its range
    (∀ u op off hit tot s1 leaf, (u.ctx t c).st = .waiting → (u.ctx t c).wait = .lines op off 1 hit tot → leafAt u t off = some (s1, leaf) →
      let k := (leafXl leaf off).pa / 128
      let locked (n : Nat) (d : G) (p : P) (v : State) : State :=
        retireNext (v.modCtx t c fun x => { x with th := wrP (wrG x.th d (w64 n)) p (decide (n = tot)) }) t c
      (op = .unlock → lineStep u t c = retireNext (s1.modTile t fun y => { y with locks := adel y.locks k }) t c) ∧
      (op = .wback → afind (s1.tile t).dirty k = none → lineStep u t c = retireNext (s1.modTile t fun y => { y with dirty := adel y.dirty k }) t c) ∧
      (op = .wback → ∃ v : State, lineStep u t c = retireNext v t c ∧ v.mem = u.mem ∧ v.full = u.full ∧ (v.tile t).dirty = adel (s1.tile t).dirty k ∧
        (v.tile t).locks = (s1.tile t).locks ∧ ∀ b, b / 128 = k → beneath v t b = cget u.mem (vKey t b)) ∧
      (op = .wbinv → ∃ v : State, lineStep u t c = retireNext v t c ∧ v.mem = u.mem ∧ v.full = u.full ∧ (v.tile t).dirty = adel (s1.tile t).dirty k ∧
        (v.tile t).locks = adel (s1.tile t).locks k ∧ ∀ b, b / 128 = k → beneath v t b = cget u.mem (vKey t b)) ∧
      (op = .inval → bit leaf 53 = false → lineStep u t c = retireNext s1 t c) ∧
      (op = .inval → bit leaf 53 = true → afind (s1.tile t).dirty k = none →
        lineStep u t c = retireNext (s1.modTile t fun y => { y with locks := adel y.locks k }) t c) ∧
      -- INVAL of a line that stores have changed: the vault's bytes, tags and errors show again, and no others change
      (∀ e, op = .inval → bit leaf 53 = true → afind (s1.tile t).dirty k = some e → Memory.wf u.mem → Memory.wf e.cells →
        (∀ g ∈ e.cells, vKey t (128 * k) ≤ g.1 ∧ g.1 < vKey t (128 * k) + 128) →
        let inLine (w : Nat) : Prop := vKey t (128 * k) / 8 ≤ w ∧ w < vKey t (128 * k) / 8 + 16
        ∃ v : State, lineStep u t c = retireNext v t c ∧ (v.tile t).dirty = adel (s1.tile t).dirty k ∧ (v.tile t).locks = adel (s1.tile t).locks k ∧
          (∀ i, i < 128 → cget v.mem (vKey t (128 * k) + i) = cget e.cells (vKey t (128 * k) + i)) ∧
          (∀ a, a < vKey t (128 * k) ∨ vKey t (128 * k) + 128 ≤ a → cget v.mem a = cget u.mem a) ∧
          ∀ w, (w ∈ v.full ↔ w ∈ e.full ∨ (w ∈ u.full ∧ ¬ inLine w)) ∧ (w ∈ v.poison ↔ w ∈ e.poison ∨ (w ∈ s1.poison ∧ ¬ inLine w)) ∧
            (w ∈ v.latent ↔ w ∈ e.latent ∨ (w ∈ s1.latent ∧ ¬ inLine w))) ∧
      (op = .lock d.val p.val → readable t s1 leaf = true → (afind (s1.tile t).locks k).isSome = true → lineStep u t c = locked (hit + 1) d p s1) ∧
      (op = .lock d.val p.val → readable t s1 leaf = true → afind (s1.tile t).locks k = none →
        9 ≤ (lockedWays (s1.tile t) k).length ∨ lockRoom s1 t (u.ctx t c).th.launch = false → lineStep u t c = locked hit d p s1) ∧
      (op = .lock d.val p.val → readable t s1 leaf = true → afind (s1.tile t).locks k = none → (lockedWays (s1.tile t) k).length < 9 →
        lockRoom s1 t (u.ctx t c).th.launch = true → ∃ (v : State) (l : LineLock), lineStep u t c = locked (hit + 1) d p v ∧
          (v.tile t).locks = aput (s1.tile t).locks k l ∧ l.li = (u.ctx t c).th.launch ∧ v.mem = u.mem)) ∧
    (∀ i q, (s.tile t).prefs[i]? = some q →
      exec (.prefFillComplete t i) s = .next (((s.modTile t fun y => { y with prefs := ldel y.prefs i }).nextReq).send t (tileOf s t q.cnt) 4
        (.incr (some ⟨t, q.c, s.reqNo, q.tid, q.pc, q.iw, false, 0, t⟩) q.cnt q.inc false)))

/-- R154, R271 to R275, R165: spawning, joining and yielding. -/
def Obligations.SpawnJoinYield : Prop :=
  ∀ (s : State) (p : P) (off : BitVec 32) (a b d : G) (m : MemB),
    let t := s.cur.t
    let x := s.tile t
    let jca := rdG s.th b
    let label : Word := s.th.pc + 12 + 12 * off.signExtend 64
    let rec_ (li : Nat) (cpc : Word) : Rec :=
      { lch := li % 64, cpc := cpc.setWidth 58, fp := s.th.g[14], jca := jca, arg1 := (rdG s.th a).extractLsb' 32 32
        arg0 := (rdG s.th a).extractLsb' 0 32, tjob := s.th.tjob }
    (jcaOk s jca = false →
      exec (.spawn p off a b) s = .next (takeFault s { cause := .address, addr := jca }) ∧
      exec (.spawnIndirect p d a b) s = .next (takeFault s { cause := .address, addr := jca }) ∧
      exec (.spawnx p off a b d) s = .next (takeFault s { cause := .address, addr := jca })) ∧
    (jcaOk s jca = true → settled s →
      (s.th.launch = none →
        exec (.spawn p off a b) s = .next (afterTh s fun th => wrP th p false) ∧
        exec (.spawnIndirect p d a b) s = .next (afterTh s fun th => wrP th p false) ∧
        exec (.spawnx p off a b d) s = .next (afterTh s fun th => wrP th p false)) ∧
      (∀ li, s.th.launch = some li → s.th.tjob = none → x.deque.length + x.spCount < 65792 → x.deque.length < 256 →
        exec (.spawn p off a b) s =
          .next ((s.modTile t fun y => { y with deque := y.deque ++ [rec_ li label] }).modTh fun th => wrP th p true).retire ∧
        exec (.spawnIndirect p d a b) s =
          .next ((s.modTile t fun y => { y with deque := y.deque ++ [rec_ li (rdG s.th d)] }).modTh fun th => wrP th p true).retire) ∧
      (∀ li, s.th.launch = some li → 65792 ≤ x.deque.length + x.spCount →
        exec (.spawn p off a b) s = .next (afterTh s fun th => wrP th p false)) ∧
      (∀ li h o, s.th.launch = some li → resolve s t (s.cur.c == 30) (rdG s.th d) aRead 1 = .ok (.tile h o) →
        holder s x.pid s.th.launch h = none → h ≠ t →
        exec (.spawnx p off a b d) s = .next ((s.nextReq.send t h 3 (.spawnx (mkReq s) (rec_ li label))).modMe fun c =>
          { c with st := .waiting, wait := .reply s.reqNo })) ∧
      -- SPAWNX to an address of the tile itself
      (∀ li o, s.th.launch = some li → resolve s t (s.cur.c == 30) (rdG s.th d) aRead 1 = .ok (.tile t o) →
        holder s x.pid s.th.launch t = none →
        (s.th.tjob = none → x.deque.length + x.spCount < 65792 → x.deque.length < 256 →
          exec (.spawnx p off a b d) s =
            .next ((s.modTile t fun y => { y with deque := y.deque ++ [rec_ li label] }).modTh fun th => wrP th p true).retire) ∧
        (65792 ≤ x.deque.length + x.spCount → exec (.spawnx p off a b d) s = .next (afterTh s fun th => wrP th p false))) ∧
      -- a full SRAM part: its oldest record moves to the newest end of the spill ring
      (∀ li e r, s.th.launch = some li → s.th.tjob = none → x.deque = e :: r → 256 ≤ x.deque.length → x.deque.length + x.spCount < 65792 →
        let spilt : State := physPut s t (spillBase + 32 * ((x.spHead + x.spCount) % 65536)) (recBytes e)
        let pushed (q : Rec) : State := ((spilt.modTile t fun y =>
          { y with spCount := y.spCount + 1, spJobs := y.spJobs ++ [e.tjob], deque := r ++ [q] }).modTh fun th => wrP th p true).retire
        exec (.spawn p off a b) s = .next (pushed (rec_ li label)) ∧
        exec (.spawnIndirect p d a b) s = .next (pushed (rec_ li (rdG s.th d))) ∧
        (∀ o, resolve s t (s.cur.c == 30) (rdG s.th d) aRead 1 = .ok (.tile t o) → holder s x.pid s.th.launch t = none →
          exec (.spawnx p off a b d) s = .next (pushed (rec_ li label))))) ∧
    (jcaOk s jca = true → (∀ e ∈ x.comb, contributes s.th.tid e = false) → (s.me.pend ≠ [] ∨ s.me.outs ≠ []) →
      exec (.spawn p off a b) s = .next (s.modMe fun c => { c with st := .waiting, wait := .retry })) ∧
    -- JOIN
    (∀ l, s.me.gang = .leading l → exec (.join m) s = .next (takeFault s { cause := .gang })) ∧
    (s.me.gang = .none → settled s → eaB s.th m = 0 → streamDrains s t s.cur.c = false →
      exec (.join m) s = .next (exitThread s t s.cur.c)) ∧
    -- the exit waits while a slot of the thread's stream drains, and comes once none does
    (s.me.gang = .none → s.me.joined = some s.th.pc → exec (.join m) s = .next (if streamDrains s t s.cur.c then
      s.modMe fun c => { c with st := .waiting, wait := .retry, joined := some c.th.pc } else exitThread s t s.cur.c)) ∧
    (∀ o s0 f s1 l, s.me.gang = .none → s.me.joined ≠ some s.th.pc → settled s → eaB s.th m ≠ 0 → atomHome s (eaB s.th m) 8 = .ok (t, o) →
      mayWrite s t o 8 = .ok (s0, f) → readHome s0 t o 8 aRead = .ok (s1, l) →
      ∀ s2, writeHome s1 t o (leBytes 8 ((leNat l + (2 ^ 64 - 1)) % 2 ^ 64)) aWrite = .ok s2 →
        (l.length = 8 → leNat l = 1 → exec (.join m) s = .next s2.retire) ∧
        (l.length = 8 → leNat l ≠ 1 → streamDrains s2 t s.cur.c = false → exec (.join m) s = .next (exitThread s2 t s.cur.c)) ∧
        (l.length = 8 → leNat l ≠ 1 → streamDrains s2 t s.cur.c = true → exec (.join m) s = .next (s2.modCtx t s.cur.c fun y =>
          { y with st := .waiting, wait := .retry, joined := some y.th.pc }))) ∧
    exec .yield s = .next (s.modMe fun c => { c with yieldSkip := true }).retire

/-- R156, R157: records and depths between tiles. -/
def Obligations.DequeEvents : Prop :=
  ∀ (s : State) (n : Nat) (p : Packet) (t : Nat),
    let x := s.tile t
    (∀ r q l, x.hq = p :: l → p.body = .spawnx r q → p.bad = [] → q.tjob = none →
      (x.deque.length + x.spCount < 65792 → x.deque.length < 256 →
        exec (.spawnxRecord t) s = .next ((s.modTile t fun y => { y with hq := l, deque := y.deque ++ [q] }).send t r.t 4 (.spawnxRe r true))) ∧
      (65792 ≤ x.deque.length + x.spCount →
        exec (.spawnxRecord t) s = .next ((s.modTile t fun y => { y with hq := l }).send t r.t 4 (.spawnxRe r false)))) ∧
    (∀ r ok q off a b d h, deliverable s n = some p → p.body = .spawnxRe r ok → stillThere s r = true →
      (s.ctx r.t r.c).st = .waiting → (s.ctx r.t r.c).wait = .reply r.id →
      decodeWord (s.ctx r.t r.c).iw = .instr h (.spawnx q off a b d) →
      exec (.spawnxReply n) s =
        .next (retireNext ((s.dropPkt n).modCtx r.t r.c fun y => { y with th := wrP y.th q ok }) r.t r.c)) ∧
    (x.lcyc < x.balAt + x.balInt → exec (.balancePeriod t) s = .next s) ∧
    (x.balAt + x.balInt ≤ x.lcyc → shipTargets s t = [] → (∀ d, neighbour x d = none) →
      exec (.balancePeriod t) s = .next (s.modTile t fun y => { y with balAt := y.lcyc })) ∧
    (x.balAt + x.balInt ≤ x.lcyc → ∃ u : State, exec (.balancePeriod t) s = .next u ∧ (u.tile t).balAt = x.lcyc ∧ u.mem = s.mem ∧
      (∀ d v, neighbour x d = some v → ⟨t, v, 4, .depth (x.deque.length + x.spCount), []⟩ ∈ u.net) ∧
      (shipTargets s t = [] → (u.tile t).deque = x.deque ∧ (u.tile t).shipping = x.shipping) ∧
      (∀ v k, leastDepth (shipTargets s t) = some (v, k) → 2 * k < x.deque.length → k + 2 ≤ x.deque.length → x.spCount = 0 →
        let m := min ((x.deque.length - k) / 2) 16
        (u.tile t).shipping = x.shipping ++ [(v, x.deque.take m)] ∧ (u.tile t).deque = x.deque.drop m ∧
          ⟨t, v, 3, .ship (x.deque.take m), []⟩ ∈ u.net)) ∧
    (∀ d, deliverable s n = some p → p.body = .depth d → dirsTo (s.tile p.dst) p.src = [.n] →
      exec (.depthReport n) s = .next ((s.dropPkt n).modTile p.dst fun y => { y with depths := aput y.depths 0 d })) ∧
    (∀ q l, x.hq = p :: l → p.body = .ship [q] → p.bad = [] → x.deque.length + x.spCount < 65792 → x.deque.length < 256 →
      exec (.balanceShipment t) s = .next ((s.modTile t fun y => { y with hq := l, deque := y.deque ++ [q] }).send t p.src 4 (.shipRe 1))) ∧
    -- an answer is that of the oldest shipment to its sender
    (∀ k l a r, deliverable s n = some p → p.body = .shipRe k → (s.tile p.dst).shipping = a ++ (p.src, l) :: r → (∀ e ∈ a, e.1 ≠ p.src) →
      l.length ≤ k → exec (.shipmentReply n) s = .next ((s.dropPkt n).modTile p.dst fun y => { y with shipping := a ++ r })) ∧
    (∀ q a r, deliverable s n = some p → p.body = .shipRe 0 → (s.tile p.dst).shipping = a ++ (p.src, [q]) :: r → (∀ e ∈ a, e.1 ≠ p.src) →
      (s.tile p.dst).spCount = 0 → (s.tile p.dst).deque.length < 256 →
      exec (.shipmentReply n) s = .next ((s.dropPkt n).modTile p.dst fun y => { y with shipping := a ++ r, deque := q :: y.deque }))

/-- R159, R162, R163, R276 to R278: gangs and ports, with their events; the messages of a reservation
are log 31's. -/
def Obligations.GangsAndPorts : Prop :=
  ∀ (s : State) (k : BitVec 3) (dir : Dir) (p : P) (n : Nat) (q : Packet),
    let t := s.cur.t
    let c := s.cur.c
    let x := s.tile t
    let port := x.port (Dir.num dir)
    (s.me.gang = .none → chain s dir k.toNat t = none → exec (.lead k dir) s = .next (takeFault s { cause := .gang })) ∧
    (∀ l, s.me.gang = .none → chain s dir k.toNat t = some l → x.leading = none → outranked s t l = false →
      exec (.lead k dir) s = .next (((s.modTile t fun y => { y with leading := some c }).send t (l.headD t) 4
        (.lead t c (x.ly * x.pw + x.lx) false)).modMe fun y => { y with st := .waiting, wait := .lead l [] })) ∧
    (∀ l, s.me.gang = .none → chain s dir k.toNat t = some l → x.leading = none → outranked s t l = true →
      exec (.lead k dir) s = .next ((s.modTile t fun y => { y with leading := some c }).modMe fun y => { y with st := .waiting, wait := .retry })) ∧
    (∀ o, s.me.gang = .none → chain s dir k.toNat t ≠ none → x.leading = some o → o ≠ c →
      exec (.lead k dir) s = .next (s.modMe fun y => { y with st := .waiting, wait := .retry })) ∧
    (c ≠ 29 → exec .follow s = .next (takeFault s { cause := .gang })) ∧
    (c = 29 → s.me.gang = .none → exec .follow s = .next (s.modMe fun y => { y with st := .waiting, wait := .none, gang := .armed })) ∧
    (s.me.gang = .none → exec .unlead s = .next (takeFault s { cause := .gang })) ∧
    (∀ l, s.me.gang = .leading l → (∀ f ∈ l, (s.ctx f 29).fq = []) →
      exec .unlead s = .next ((releaseFollowers s l).modMe fun y => { y with gang := .none }).retire) ∧
    (∀ f lt lc ret, (s.ctx f 29).gang = .following lt lc ret → (s.ctx f 29).st = .ready →
      (releaseFollowers s [f]).ctx f 29 =
        { s.ctx f 29 with gang := .none, fq := [], stopReq := false, st := .ready, wait := .none, th := { (s.ctx f 29).th with pc := ret } }) ∧
    -- reservations and formation
    (∀ lt lc r, deliverable s n = some q → q.body = .lead lt lc r false → (s.tile q.dst).leadRes = none →
      exec (.leadReservation n) s =
        .next (((s.dropPkt n).modTile q.dst fun y => { y with leadRes := some (lt, lc, r) }).send q.dst lt 4 (.leadRe q.dst true))) ∧
    (∀ lt lc r o oc r', deliverable s n = some q → q.body = .lead lt lc r false → (s.tile q.dst).leadRes = some (o, oc, r') → o ≠ lt → r' ≤ r →
      exec (.leadReservation n) s = .next ((s.dropPkt n).send q.dst lt 4 (.leadRe q.dst false))) ∧
    (∀ f pc, (s.ctx t c).st = .waiting → (s.ctx t c).wait = .lead [f] [f] → armed s f = true → f ≠ t → (s.ctx f 29).th.pc = pc →
      (s.ctx t c).stepping = false →
      ∃ u : State, exec (.gangForm t c) s = .next u ∧ (u.ctx f 29).gang = .following t c (pc + 12) ∧
        (u.ctx f 29).th.pc = (s.ctx t c).th.pc + 12 ∧ (u.tile t).leading = none ∧ (u.tile f).leadRes = none ∧
        (u.ctx t c).gang = .leading [f] ∧ (u.ctx t c).st = .ready ∧ (u.ctx t c).th.pc = (s.ctx t c).th.pc + 12) ∧
    -- ports
    (bit (x.np dir) 63 = true → exec (.pclaim p dir) s = .next (takeFault s { cause := .port })) ∧
    (bit (x.np dir) 63 = false →
      (port.owner = none → exec (.pclaim p dir) s =
        .next ((s.modTile t fun y => y.setPort (Dir.num dir) { y.port (Dir.num dir) with owner := some c }).modTh fun th => wrP th p true).retire) ∧
      (∀ o, port.owner = some o → exec (.pclaim p dir) s = .next (afterTh s fun th => wrP th p (o == c)))) ∧
    (port.owner ≠ some c → exec (.pfree dir) s = .next (takeFault s { cause := .port })) ∧
    (port.owner = some c →
      exec (.pfree dir) s = .next (s.modTile t fun y => y.setPort (Dir.num dir) { y.port (Dir.num dir) with owner := none }).retire) ∧
    (∀ v, deliverable s n = some q → q.body = .portWord dir v →
      exec (.portWord n) s = .next ((s.dropPkt n).modTile q.dst fun y =>
        y.setPort (Dir.num dir) { y.port (Dir.num dir) with q := (y.port (Dir.num dir)).q ++ [v], bad := (y.port (Dir.num dir)).bad ++ [q.poisoned] })) ∧
    (deliverable s n = some q → q.body = .portCredit dir →
      exec (.portCredit n) s = .next ((s.dropPkt n).modTile q.dst fun y =>
        y.setPort (Dir.num dir) { y.port (Dir.num dir) with credits := (y.port (Dir.num dir)).credits + 1 }))

/-- R44, R45, R279 to R285: panes, with claims that can be met at once and the events that serve the others. -/
def Obligations.PaneInstructions : Prop :=
  ∀ (s : State) (h : H) (a d : G) (n : BitVec 32) (ty : Ty) (v : V) (w : Bool) (m : MemB),
    let t := s.cur.t
    let x := s.tile t
    let p := x.pane h.val
    (paneOk x h.val (rdG s.th a) = false → exec (.pcfg h a) s = .next (takeFault s { cause := .pane })) ∧
    (paneOk x h.val (rdG s.th a) = true → p.count .filling = 0 → p.count .draining = 0 → p.claims = [] → p.stream = none →
      exec (.pcfg h a) s = .next ((exitArr s t (.pane h)).modTile t fun y => y.setPane h.val
        { Pane.off with mode := (rdG s.th a).extractLsb' 62 2, nslot := fld (rdG s.th a) 18 11, ssz := fld (rdG s.th a) 15 3
                        base := fld (rdG s.th a) 0 10 }).retire) ∧
    exec (.pstat w d h) s = .next (afterTh s fun th => wrG th d (if w then w64 (p.pcur * 256 + p.ccur) else paneWord p)) ∧
    (p.mode = 0 →
      exec (.pwait d h n) s = .next (takeFault s { cause := .pane }) ∧ exec (.pfill d h n) s = .next (takeFault s { cause := .pane }) ∧
      exec (.padvP h n) s = .next (takeFault s { cause := .pane }) ∧ exec (.padvC h n) s = .next (takeFault s { cause := .pane }) ∧
      exec (.vpop ty v h) s = .next (takeFault s { cause := .pane }) ∧ (relHeld s = false → exec (.vpush ty h v) s = .next (takeFault s { cause := .pane })) ∧
      exec (.sclose h) s = .next (takeFault s { cause := .pane })) ∧
    (p.mode = 1 → 1 ≤ n.toNat → n.toNat ≤ p.nslot → p.claims = [] → p.pcur = 0 → p.ccur = 0 → p.serr = false →
      (p.canClaim true n.toNat = true → exec (.pfill d h n) s =
        .next ((s.modTile t fun y => y.setPane h.val (p.claim true n.toNat)).modTh fun th => wrG th d (slotAddr x p p.pptr)).retire) ∧
      (p.canClaim true n.toNat = false → exec (.pfill d h n) s =
        .next ((s.modTile t fun y => y.setPane h.val { p with claims := [⟨s.cur.c, true, n.toNat⟩] }).modMe fun c =>
          { c with st := .waiting, wait := .claim h.val true n.toNat 0 d.val })) ∧
      (p.canClaim false n.toNat = true → exec (.pwait d h n) s =
        .next ((s.modTile t fun y => y.setPane h.val (p.claim false n.toNat)).modTh fun th => wrG th d (slotAddr x p p.cptr)).retire) ∧
      (n.toNat ≤ p.count .filling → exec (.padvP h n) s = .next (s.modTile t fun y => y.setPane h.val (p.advance true n.toNat)).retire) ∧
      (n.toNat ≤ p.count .draining → exec (.padvC h n) s = .next (s.modTile t fun y => y.setPane h.val (p.advance false n.toNat)).retire)) ∧
    -- one slot of 256 bytes: the first unit pushed and popped
    (relHeld s = true → exec (.vpush ty h v) s = .next (s.modMe fun y => { y with st := .waiting, wait := .retry })) ∧
    (p.mode = 1 → 1 ≤ p.nslot → p.claims = [] → p.serr = false → p.ssz = 0 → relHeld s = false →
      (p.pcur = 0 → p.count .filling = 0 → p.canClaim true 1 = true →
        let q := p.claim true 1
        let i := (q.pptr + q.nslot - 1) % q.nslot
        ∃ u : State, exec (.vpush ty h v) s = .next u.retire ∧ u.mem = cputs s.mem (pKey t (q.at i)) (vBytes (rdV s.th v)) ∧
          (u.tile t).pane h.val = { q with pcur := 1 }) ∧
      (p.ccur = 0 → p.count .draining = 0 → p.canClaim false 1 = true →
        let q := p.claim false 1
        let i := (q.cptr + q.nslot - 1) % q.nslot
        poisonTrap s (pKey t (q.at i)) 64 = none →
        exec (.vpop ty v h) s = .next ((wakeArrays (s.modTile t fun y => y.setPane h.val { q with ccur := 1 }) t 1 (q.at i) 64 false).modTh fun th =>
          wrV th v (bytesV (cgets s.mem (pKey t (q.at i)) 64))).retire)) ∧
    -- streams
    (∀ off st s1 l, homeFor s (eaB s.th m) aRead 64 = .ok (.tile t off) → (eaB s.th m).toNat % 8 = 0 → p.mode = 2 → p.stream = none →
      p.slots = [] → readAt s t (eaB s.th m) 64 = .ok (s1, l) → streamOf s.cur.c s.th s.cur.iw (bytesWords 8 l) = some st →
      (∀ e ∈ streamEnds st, elemOk s t st e = true) →
      exec (.sopen h m) s = .next (s1.modTile t fun y => y.setPane h.val
        { p with serr := false, send := false, cptr := 0, pptr := 0, ccur := 0, pcur := 0, stream := some st }).retire) ∧
    (p.mode = 2 → streamsOf s t s.cur.c = [h.val] → p.count .draining = 0 → p.claims = [] →
      exec (.sclose h) s = .next (s.modTile t fun y => y.setPane h.val
        { p with send := false, serr := false, cptr := 0, pptr := 0, ccur := 0, pcur := 0, slots := [], claims := [], stream := none }).retire) ∧
    -- events
    (p.claims = [] → exec (.paneClaimGrant t h) s = .next s) ∧
    (∀ c, p.claims = [⟨c, false, 1⟩] → (s.ctx t c).wait = .claim h.val false 1 0 d.val → p.ccur = 0 → p.serr = false → (s.ctx t c).stepping = false →
      p.canClaim false 1 = true →
      exec (.paneClaimGrant t h) s = .next (retireNext (((s.modTile t fun y => y.setPane h.val
        { p.claim false 1 with claims := [] }).modCtx t c fun y => { y with th := wrG y.th d (slotAddr x p p.cptr) })) t c)) ∧
    (∀ st s1, p.stream = some st → p.serr = false → p.send = false → p.slot p.pptr = .empty →
      fillSlot (s.modTile t fun y => y.setPane h.val (p.claim true 1)) t (p.at p.pptr) st (p.bytes / st.esz) = .ok s1 →
      exec (.copyUnitFill t h) s = .next (s1.modTile t fun y => y.setPane h.val
        { (y.pane h.val).advance true 1 with
          stream := some { st with next := st.next + p.bytes / st.esz }, send := decide (st.total ≤ st.next + p.bytes / st.esz) }))

/-- R82, R85 to R87, R89, R92, R155, R328, R405: pods and contexts; that a pod or a record takes the lowest free context
is the model's choice (log 11), as is what it does with a slot word that firmware edited (log 110). -/
def Obligations.PodEvents : Prop :=
  ∀ (s : State) (n : Nat) (p : Packet) (t c : Nat),
    let y := s.tile p.dst
    let s1 := s.dropPkt n
    (∀ th kind b, deliverable s n = some p → p.body = .pod th kind none b → p.bad = [] → th.pid.toNat = y.pid → y.arrSides = [] →
      chargeTile s p.dst th = p.dst →
      -- past the stub of its home (R100)
      let th' := { th with hop := addHop th.hop (hopsStub s p.src p.dst) }
      (∀ d, freeUser y = some d →
        (b = none → exec (.podArrival n) s =
          .next (takeOuts ((s1.send p.dst p.src 1 (.accept th.tid)).setCtx p.dst d (Ctx.ofThread (installTh y th') y.lcyc)) p.dst d)) ∧
        (b = some .podFormat → ∃ u : State, exec (.podArrival n) s = .next u ∧ (u.ctx p.dst d).st = .frozen ∧ (u.ctx p.dst d).th.pc = th.pc)) ∧
      (freeUser y = none → ∃ u : State, exec (.podArrival n) s = .next u ∧ (u.tile p.dst).arrSides = [{ sideOf th with bad := b }] ∧
        u.net = s1.net ++ [⟨p.dst, p.src, 1, .accept th.tid, []⟩])) ∧
    -- a pod of another partition is discarded
    (∀ th kind b, deliverable s n = some p → p.body = .pod th kind none b → th.pid.toNat ≠ y.pid → ∃ u : State, exec (.podArrival n) s = .next u ∧
      (∀ d, u.ctx p.dst d = s.ctx p.dst d) ∧ (u.tile p.dst).arrSides = y.arrSides ∧ u.mem = s.mem ∧ ⟨p.dst, p.src, 1, .accept th.tid, []⟩ ∈ u.net) ∧
    (∀ th kind b, deliverable s n = some p → p.body = .pod th kind none b → th.pid.toNat = y.pid → 4096 ≤ y.arrSides.length → freeUser y = none →
      exec (.podArrival n) s = .next ((s1.modTile p.dst fun x =>
        { x with notices := if x.notices.contains p.src then x.notices else x.notices ++ [p.src] }).send p.dst p.src 1 (.refuse th.tid))) ∧
    (∀ tid d, deliverable s n = some p → p.body = .accept tid → heldCtx s p.dst tid = some d → y.notices = [] →
      exec (.accept n) s = .next (s1.setCtx p.dst d Ctx.free)) ∧
    (∀ tid d m, deliverable s n = some p → p.body = .refuse tid → heldCtx s p.dst tid = some d → (s.ctx p.dst d).stopReq = false →
      (s.ctx p.dst d).mig = some m →
      exec (.refuse n) s = .next (s1.modCtx p.dst d fun x =>
        { x with st := .refused
                 mig := some { m with firstRefused := some (m.firstRefused.getD y.lcyc), refusals := m.refusals + 1 } })) ∧
    (∀ d x m, deliverable s n = some p → p.body = .freeNotice → y.ctxs = [(d, x)] → y.park = [] → x.st = .refused → x.mig = some m →
      m.dst = p.src → holder s y.pid x.th.launch p.src = none →
      exec (.contextFreeNotice n) s = .next ((s1.setCtx p.dst d { x with st := .held }).send p.dst p.src 0
        (.pod ((podFor s p.dst x m p.src).leaves s p.dst p.src) m.kind none none))) ∧
    (∀ m k, (s.ctx t c).st = .refused → (s.ctx t c).mig = some m → m.firstRefused = some k → k + (s.tile t).holdLimit ≤ (s.tile t).lcyc →
      chargeTile s t (s.ctx t c).th ≠ t → (s.tile t).notices = [] →
      exec (.park t c) s = .next ((s.setCtx t c Ctx.free).send t (chargeTile s t (s.ctx t c).th) 2
        (.parkDeposit ((podFor s t (s.ctx t c) m m.dst).leaves s t (chargeTile s t (s.ctx t c).th)) m.kind m.dst none))) ∧
    (∀ th kind b i j, Memory.wf s.mem → deliverable s n = some p → p.body = .parkDeposit th kind (y.at i j) b → p.bad = [] →
      y.x0 + i < 128 → j < 64 → i < y.pw → j < y.phh → th.cx.toNat < y.pw → th.cy.toNat < y.phh → th.ox.toNat < y.pw → th.oy.toNat < y.phh →
      holder s y.pid th.launch (y.at i j) = none →
      ∃ (u : State) (q : ParkSt) (th' : Thread), exec (.parkDeposit n) s = .next u ∧
        afind (u.tile p.dst).park th.slot = some q ∧ parkDst u p.dst th.slot = y.at i j ∧ q.hasPod = true ∧ q.refused = false ∧
        q.waiting = none ∧ q.side = { sideOf th with bad := b } ∧
        th'.hop = addHop (addHop th.hop (hopsStub s p.src p.dst)) (hopsOut s p.dst (y.at i j)) ∧
        th'.parked = true ∧ th'.pc = th.pc &&& 0x3FFFFFFFFFFFFFF ∧
        u.net = s1.net ++ [⟨p.dst, y.at i j, 0, .pod th' kind (some (p.dst, th.slot)) b, []⟩]) ∧
    (∀ k, deliverable s n = some p → p.body = .chargeRelease k →
      exec (.chargeRelease n) s = .next (s1.modTile p.dst fun x => { x with slots := sdel x.slots k })) ∧
    -- a free context takes a record of the deque
    (∀ r l d k x', (s.tile t).arrSides = [] → (s.tile t).pops = [] → (s.tile t).spCount = 0 → (s.tile t).deque = [r] →
      launchOf s t r.lch = some l → holder s (s.tile t).pid (some l.no) t = none → freeUser (s.tile t) = some d →
      takeCharge (s.tile t) = some (k, x') →
      ∃ u : State, exec (.contextFill t) s = .next u ∧ (u.tile t).deque = [] ∧ (u.ctx t d).st = .ready ∧
        let th := (u.ctx t d).th
        th.pc = r.cpc.setWidth 64 ∧ rdG th 1 = r.arg0.setWidth 64 ∧ rdG th 2 = r.arg1.setWidth 64 ∧ rdG th 13 = r.jca ∧ rdG th 14 = r.fp ∧
          th.tid = newTid (s.tile t) ∧ th.launch = some l.no ∧ th.slot = k) ∧
    -- thread j of a population in user context j where the tile was empty (R405), else in a free user context
    (∀ q l d k x', (s.tile t).pops = [q] → launchOf s t q.li = some l → holder s (s.tile t).pid (some l.no) t = none →
      takeCharge (s.tile t) = some (k, x') →
      (q.placed = true ∧ q.made < q.quota ∧ q.made < 30 ∧ d = q.made ∧ isFree (s.tile t) d = true ∨
        q.placed = false ∧ q.made < q.quota ∧ (s.tile t).arrSides = [] ∧ freeUser (s.tile t) = some d) →
      ∃ u : State, exec (.contextFill t) s = .next u ∧ (u.tile t).pops = [{ q with made := q.made + 1 }] ∧ (u.ctx t d).st = .ready ∧
        let th := (u.ctx t d).th
        th.pc = l.pc ∧ rdG th 7 = w64 q.made ∧ rdG th 13 = l.lwa ∧ th.tid = newTid (s.tile t) ∧ th.launch = some l.no ∧ th.slot = k ∧
          (l.seeds.length = 6 → ∀ i : Fin 6, rdG th ⟨i.val + 1, by omega⟩ = lget l.seeds i.val 0)) ∧
    (placing (s.tile t) = none → freeUser (s.tile t) = none → exec (.contextFill t) s = .next s) ∧
    ((s.ctx t c).th.apin = true → (s.ctx t c).th.pspan = 0 →
      exec (.pinSpanExpiry t c) s = .next (s.modCtx t c fun x => { x with th := { x.th with apin := false } })) ∧
    (∀ k x', (s.ctx t c).st = .returning → 32 ≤ c → (s.ctx t c).tub.heldSlot = none → takeCharge (s.tile t) = some (k, x') →
      ∃ (u : State) (th : Thread), exec (.returnPodSend t c) s = .next u ∧ u.ctx t c = Ctx.free ∧
        (u.tile t).moving = (s.tile t).moving ++ [(th, t, none)] ∧ th.pc = (s.ctx t c).th.pc ∧ th.g = (s.ctx t c).th.g ∧
        th.p = (s.ctx t c).th.p ∧ th.ret = true ∧ th.slot = k ∧ u.net = s.net ++ [⟨t, t, 0, .pod th 0 none none, []⟩] ∧ u.mem = s.mem) ∧
    (takeCharge (s.tile t) = none → exec (.returnPodSend t c) s = .next s) ∧
    -- a refused pod that no context holds is parked at its charge tile
    (∀ tid th, deliverable s n = some p → p.body = .refuse tid → heldCtx s p.dst tid = none → y.moving = [(th, p.dst, none)] → th.tid = tid →
      th.rel = false → chargeTile s p.dst th ≠ p.dst →
      exec (.refuse n) s = .next ((s1.modTile p.dst fun x => { x with moving := [] }).send p.dst (chargeTile s p.dst th) 2
        (.parkDeposit (th.leaves s p.dst (chargeTile s p.dst th)) 0 p.dst none)))

/-- R94, R95, R98, R113, R117, R225, R226: requests served at their home, and the replies; that data poisoned on their way
are stored poisoned or answered with POISON is log 97's reading, the reply form of a pinned TRYT log 56's. -/
def Obligations.RequestEvents : Prop :=
  ∀ (s : State) (n : Nat) (p : Packet) (t : Nat) (q : List Packet) (r : Req) (a : Word) (k : Nat) (l : List Byte),
    let sq := s.modTile t fun x => { x with hq := q }
    let s1 := s.dropPkt n
    let x := s.ctx r.t r.c
    (∀ ps s2 b, (s.tile t).hq = p :: q → p.body = .get r ps → getPieces sq t ps = .ok (s2, b) →
      exec (.getRequest t) s = .next (s2.send t r.t 4 (.data r b))) ∧
    (∀ e, (s.tile t).hq = p :: q → p.body = .get r [(a, k)] → readHome sq t (fld a 0 44) k aRead = .error e →
      exec (.getRequest t) s = .next ((learnPoison sq e).send t r.t 4 (.bad r (e.told a) false))) ∧
    (∀ s2, (s.tile t).hq = p :: q → l.length = k → writeHome sq t (fld a 0 44) l aWrite = .ok s2 →
      (p.body = .put r [(a, k)] l → p.bad = [] → exec (.putRequest t) s = .next ((genOnce sq s2 t).send t r.t 4 (.ack r))) ∧
      -- data that a crossbar has poisoned on their way, in their one flit
      (p.body = .put r [(a, k)] l → p.bad = [0] → 0 < k → k ≤ 32 →
        exec (.putRequest t) s = .next ((poisonHome (genOnce sq s2 t) t (fld a 0 44) k).send t r.t 4 (.ack r))) ∧
      (∀ cnt i, p.body = .putc r [(a, k)] l cnt i → p.bad = [] → exec (.putcRequest t) s =
        .next (sendIncr ((genOnce sq s2 t).send t r.t 4 (.ack r)) t t (some r) cnt i))) ∧
    (∀ e, (s.tile t).hq = p :: q → p.body = .put r [(a, l.length)] l → writeHome sq t (fld a 0 44) l aWrite = .error e →
      exec (.putRequest t) s = .next ((learnPoison sq e).send t r.t 4 (.bad r (e.told a) true))) ∧
    (∀ op, (s.tile t).hq = p :: q → p.body = .msg r a op → p.poisoned = true →
      exec (.handlerMessage t) s = .next (sq.send t r.t 4 (.bad r (parityTrap a) (ackOnly op)))) ∧
    (∀ op, (s.tile t).hq = p :: q → p.body = .msg r a op → p.poisoned = false →
      (∀ s2 v, homeOp sq t (fld a 0 44) op = .ok (s2, .val v) →
        exec (.handlerMessage t) s = .next (s2.send t r.t 4 (if ackOnly op then .ack r else .data r (wBytes v)))) ∧
      (∀ s2 b, homeOp sq t (fld a 0 44) op = .ok (s2, .flag b) →
        exec (.handlerMessage t) s = .next (s2.send t r.t 4 (if ackOnly op then .ack r else .data r [if b then 1 else 0]))) ∧
      (∀ s2 v, homeOp sq t (fld a 0 44) op = .ok (s2, .tried v) → ackOnly op = false →
        exec (.handlerMessage t) s = .next (s2.send t r.t 4 (.data r (wBytes (v.getD 0) ++ [if v.isSome then 1 else 0])))) ∧
      (∀ e, homeOp sq t (fld a 0 44) op = .error e →
        exec (.handlerMessage t) s = .next ((learnPoison sq e).send t r.t 4 (.bad r (e.told a) (ackOnly op)))) ∧
      (∀ s2 w g, homeOp sq t (fld a 0 44) op = .ok (s2, .waits w g) → r.charge ≠ t →
        ∃ (u : State) (e : DefEnt), exec (.handlerMessage t) s = .next u ∧ defList u t (fld a 0 40) = defList s2 t (fld a 0 40) ++ [e] ∧
          e.kind = w ∧ e.tgt = g ∧ e.waddr = a ∧ e.pin = true ∧ e.tid = r.tid ∧ e.reqId = r.id)) ∧
    ((s.tile t).hq = p :: q → p.body = .bquery r a → exec (.bindingQuery t) s =
      .next (sq.send t r.t 4 (.bsnap r ((bindingsOf s t (fld a 0 44)).map fun e => (e.1, e.2.toNat))))) ∧
    (∀ m, deliverable s n = some p → p.body = .bsnap r m → stillThere s r = true → x.wait = .snapshot r.id →
      exec (.bindingSnapshot n) s = .next (s1.setCtx r.t r.c { x with wait := .retry, snap := some (m.map fun e => (e.1, w64 e.2)) })) ∧
    -- the answer to a load
    (∀ (g : G) ty ad pc iw, deliverable s n = some p → p.bad = [] → stillThere s r = true → x.pend = [⟨.g g.val ty, [(r.id, [])], ad, pc, iw, none⟩] →
      x.wait ≠ .reply r.id → x.st ≠ .packing → x.relocating = none →
      let done := s1.setCtx r.t r.c { x with pend := [], th := wrG x.th g (extTy ty (leNat l)) }
      (p.body = .data r l → p.src < 20000 → exec (.getReply n) s = .next done) ∧
      (p.body = .data r l → 20000 ≤ p.src → exec (.edgeReply n) s = .next done) ∧
      (∀ e, p.body = .bad r e false → p.src < 20000 →
        exec (.getReply n) s = .next (freeze (s1.setCtx r.t r.c { x with pend := [] }) r.t r.c e pc iw { defer := true }))) ∧
    -- the answer to a store
    (deliverable s n = some p → stillThere s r = true → x.st ≠ .packing → x.relocating = none →
      (∀ o ∈ outsWhere s (fun o => o.id == r.id), o.lane = none) →
      let done := s1.modCtx r.t r.c fun y => { y with outs := y.outs.filter fun o => o.id != r.id }
      (p.body = .ack r → p.src < 20000 → exec (.putAck n) s = .next done) ∧
      (p.body = .ack r → 20000 ≤ p.src → exec (.edgeReply n) s = .next done) ∧
      (∀ e, p.body = .bad r e true → p.src < 20000 → exec (.putAck n) s = .next (freeze done r.t r.c e r.pc r.iw { defer := true }))) ∧
    (∀ s2 rq, deliverable s n = some p →
      (p.body = .incr rq a k true → incrHome s1 p.dst (fld a 0 44) k = .ok s2 → exec (.counterIncrement n) s = .next s2) ∧
      (p.body = .incr rq a k false → addHome s1 p.dst (fld a 0 44) k = .ok s2 → exec (.counterIncrement n) s = .next s2)) ∧
    (∀ s2 m, incrHome s t (fld a 0 44) k = .ok s2 → readHome s t (fld a 0 44) 8 aRead = .ok (s, m) → (s.tile t).deferred = [] →
      ∃ s3, writeHome s t (fld a 0 44) (leBytes 8 ((leNat m + k) % 2 ^ 64)) aWrite = .ok s3 ∧ s2.mem = s3.mem) ∧
    -- the edge channels
    (∀ (pt : Part) o b, deliverable s n = some p → s.part (s.tile r.t).pid = some pt → fld a 0 57 = o →
      (p.body = .edge r [(a, k)] none none → edgeRead s1 pt o k = .ok b →
        exec (.edgeRequest n) s = .next (s1.ioBack pt.pid (p.dst - 20000) r.t 4 (.data r b))) ∧
      (∀ s2, p.body = .edge r [(a, l.length)] (some l) none → p.bad = [] → edgeWrite s1 pt o l = .ok s2 →
        exec (.edgeRequest n) s = .next (s2.ioBack pt.pid (p.dst - 20000) r.t 4 (.ack r))))

/-- R96, R97, R108 to R110, R236: combining entries, wait records and wakes; that an entry does not leave before DRAIN_INT
is the model's choice (log 100), and a wake that waits for its record's deposit is log 80's. -/
def Obligations.CombiningAndWakeEvents : Prop :=
  ∀ (s : State) (n : Nat) (p : Packet) (t : Nat) (q : List Packet) (e : CombEnt) (w : DefEnt),
    let sq := s.modTile t fun x => { x with hq := q }
    let s1 := s.dropPkt n
    let x := s.tile t
    (x.comb = [e] → e.born + x.drainInt ≤ x.lcyc →
      exec (.combiningFlush t 0) s = .next ((s.modTile t fun y => { y with comb := [] }).send t (combHome s t e) 3 (.flush [e]))) ∧
    (x.comb = [e] → x.lcyc < e.born + x.drainInt → exec (.combiningFlush t 0) s = .next s) ∧
    (x.hq = p :: q → p.body = .flush [e] → p.bad = [] →
      (∀ s2, applyComb sq t e = .ok s2 → exec (.atomicFlush t) s = .next (s2.send t p.src 4 (.atomicAck [(e, none)]))) ∧
      (∀ tr, applyComb sq t e = .error tr → exec (.atomicFlush t) s = .next ((learnPoison sq tr).send t p.src 4 (.atomicAck [(e, some (tr.told tr.addr))])))) ∧
    (∀ s0 f s2 m s3, mayWrite s t (fld e.addr 0 44) (tyBits e.ty / 8) = .ok (s0, f) →
      readHome s0 t (fld e.addr 0 44) (tyBits e.ty / 8) aRead = .ok (s2, m) → e.op ≠ .add →
      writeHome s2 t (fld e.addr 0 44) (leBytes (tyBits e.ty / 8) (atomFn e.op e.ty (leNat m) e.val.toNat % 2 ^ (8 * (tyBits e.ty / 8)))) aWrite = .ok s3 →
      applyComb s t e = .ok s3) ∧
    (∀ c tid pc iw, deliverable s n = some p → p.body = .atomicAck [(e, none)] → e.who = [(c, tid, pc, iw)] →
      (s.ctx p.dst c).st ≠ .free → (s.ctx p.dst c).st ≠ .packing → (s.ctx p.dst c).th.tid = tid → (s.ctx p.dst c).relocating = none →
      (∀ o ∈ outsWhere s (fun o => o.id == e.id), o.lane = none) →
      exec (.atomicAck n) s = .next (s1.modCtx p.dst c fun y => { y with outs := y.outs.filter fun o => o.id != e.id })) ∧
    (∀ c tid pc iw tr, deliverable s n = some p → p.body = .atomicAck [(e, some tr)] → e.who = [(c, tid, pc, iw)] →
      ((s.ctx p.dst c).st = .free ∨ (s.ctx p.dst c).th.tid ≠ tid) →
      (∀ o ∈ s.left, o.out.id = e.id → o.tid ≠ tid) →
      (∀ u ∈ s.tiles, ∀ y ∈ u.2.ctxs, y.2.th.tid = tid → ∀ o ∈ y.2.outs, o.id ≠ e.id) →
      (∀ o ∈ outsWhere s (fun o => o.id == e.id), o.lane = none) →
      exec (.atomicAck n) s = .next (asyncPacket s1 p.dst c tr pc iw tid { async := true })) ∧
    (∀ th, deliverable s n = some p → p.body = .waitDeposit w th →
      ∃ (u : State) (k : ParkSt), exec (.waitRecordDeposit n) s = .next u ∧ afind (u.tile p.dst).park w.slot = some k ∧
        k.waiting = some w ∧ k.hasPod = th.isSome ∧ u.net = s1.net) ∧
    (∀ slot off v, deliverable s n = some p → p.body = .link slot off v →
      ∃ u : State, exec (.linkUpdate n) s = .next u ∧ u.mem = (putLink s1 p.dst slot off v.toNat).mem ∧ u.net = s1.net) ∧
    -- a wake ahead of its record's deposit waits for it
    (∀ v, deliverable s n = some p → p.body = .wake w v → depositComing s1 p.dst w = true → exec (.wake n) s = .next s) ∧
    (∀ v k, Memory.wf s.mem → deliverable s n = some p → p.body = .wake w v → depositComing s1 p.dst w = false → recordHere s p.dst w = some k → w.pin = false →
      ∃ (u : State) (th : Thread) (dst : Tile) (why : Option Cause), exec (.wake n) s = .next u ∧
        u.net = s1.net ++ [⟨p.dst, dst, 0, .pod th 0 (some (p.dst, w.slot)) why, []⟩] ∧
        th.pc = (podThread (physGet s p.dst (parkSlot w.slot) 672) k.side).pc + 12 &&& 0x3FFFFFFFFFFFFFF ∧
        (∀ z, v = some z → 1 ≤ w.dreg → w.dreg ≤ 15 → rdGn th w.dreg = z)) ∧
    (∀ v, deliverable s n = some p → p.body = .wake w (some v) → depositComing s1 p.dst w = false → recordHere s p.dst w = none → w.kind = .take →
      exec (.wake n) s = .next (s1.send p.dst (tileOf s p.dst w.waddr) 4 (.wakeRet w.waddr v))) ∧
    (∀ a v s2 f, deliverable s n = some p → p.body = .wakeRet a v → p.bad = [] → homeOp s1 p.dst (fld a 0 44) (.give v) = .ok (s2, f) →
      exec (.wakeReturn n) s = .next s2)

/-- R176 to R178, R288: special registers read and written. -/
def Obligations.SpecialRegisters : Prop :=
  ∀ (s : State) (d a : G) (wn : Fin 16) (k : Fin 5) (i : Fin 6) (dir : Dir),
    let x := s.tile s.cur.t
    let v := rdG s.th a
    let reads (r : Sr) (w : Word) : Prop := exec (.srd d r) s = .next (afterTh s fun th => wrG th d w)
    reads .pc s.th.pc ∧ reads .tid (s.th.tid.setWidth 64) ∧ reads .hop (s.th.hop.setWidth 64) ∧
    reads .vlive (w64 (s.th.klive.toNat * 256 + s.th.vlive.toNat)) ∧ reads .fcr (s.th.rm.setWidth 64) ∧
    reads .fst (s.th.fst.setWidth 64) ∧ reads .prt x.prt ∧ reads .tco x.tco ∧ reads (.np .n) x.npn ∧ reads (.np .e) x.npe ∧
    reads (.np .s) x.nps ∧ reads (.np .w) x.npw ∧ reads (.rpc i) (lget x.mx.rpc i.val 0) ∧ reads .msat x.mx.msat ∧
    reads .munf x.mx.munf ∧ reads .movf x.mx.movf ∧ reads .mcan x.mx.mcan ∧ reads .tfl (tflWord s s.cur.t s.cur.c) ∧
    (s.cur.c < 32 → reads .org (w64 (s.th.ox.toNat * 64 + s.th.oy.toNat)) ∧ reads .lcyc (w64 x.lcyc)) ∧
    (32 ≤ s.cur.c → reads .org (w64 (x.lx * 64 + x.ly)) ∧ reads .lcyc (w64 x.tcyc)) ∧
    -- written
    (∀ w : BitVec 32, v = w.setWidth 64 → exec (.swr .hop a) s = .next (afterTh s fun th => { th with hop := w })) ∧
    (∀ w : BitVec 2, v = w.setWidth 64 → exec (.swr .fcr a) s = .next (afterTh s fun th => { th with rm := w })) ∧
    (∀ w : BitVec 5, v = w.setWidth 64 → exec (.swr .fst a) s = .next (afterTh s fun th => { th with fst := w })) ∧
    (∀ (kl : BitVec 3) (vl : BitVec 8), v = (kl ++ vl).setWidth 64 →
      ∃ th : Thread, exec (.swr .vlive a) s = .next (afterTh s fun _ => th) ∧ th.vlive = vl ∧ th.klive = kl ∧ th.g = s.th.g ∧
        th.p = s.th.p ∧ (∀ r : Fin 8, th.v[r] = if vl.getLsbD r.val then s.th.v[r] else Vector.replicate 16 0) ∧
        (∀ r : Fin 3, th.k[r.val + 1] = if kl.getLsbD r.val then s.th.k[r.val + 1] else 0)) ∧
    (2 ^ 32 ≤ v.toNat → exec (.swr .hop a) s = .next (takeFault s { cause := .sreg })) ∧
    (2 ^ 2 ≤ v.toNat → exec (.swr .fcr a) s = .next (takeFault s { cause := .sreg })) ∧
    (2 ^ 5 ≤ v.toNat → exec (.swr .fst a) s = .next (takeFault s { cause := .sreg })) ∧
    (2 ^ 11 ≤ v.toNat → exec (.swr .vlive a) s = .next (takeFault s { cause := .sreg })) ∧
    -- window registers
    (s.cur.c ≠ 30 →
      exec (.srd d (.win wn k)) s = .next (takeFault s { cause := .sysSpace }) ∧
      exec (.swr (.win wn k) a) s = .next (takeFault s { cause := .sysSpace })) ∧
    (s.cur.c = 30 →
      reads (.win wn k) (winWord (x.win wn.val) k.val) ∧
      (winWrite (x.win wn.val) k.val v = none → exec (.swr (.win wn k) a) s = .next (takeFault s { cause := .sreg })) ∧
      (∀ w, winWrite (x.win wn.val) k.val v = some w → exec (.swr (.win wn k) a) s =
        .next (s.modTile s.cur.t fun x => { x with wins := aput x.wins wn.val w }).retire))

/-- R28, R36, R71, R72, R361, R363 to R365: windows, system registers and parked threads written, and fault packets. -/
def Obligations.SystemWrites : Prop :=
  (∀ (w : Win) (v : Word),
    (fld v 58 4 = 0 → fld v 32 16 = 0 →
      ∃ u : Win, winWrite w 0 v = some u ∧ u.gen = w.gen + 1 ∧ u.writes = w.writes + 1 ∧ u.key.toNat = fld v 54 4 ∧ u.fmt.toNat = fld v 48 5 ∧ u.scm = bit v 53 ∧
        u.src = w.src ∧ u.nrow = w.nrow ∧ u.rowlen = w.rowlen ∧ u.pitch = w.pitch ∧ u.scl = w.scl ∧
        (bit v 63 = false → u.en = false ∧ u.cerr = false) ∧
        (bit v 63 = true → (u.en = true ↔ u.cerr = false) ∧ (u.en = true ↔ winOk u = true))) ∧
    (w.en = true → v.toNat < 2 ^ 30 →
      let u : Win := { w with writes := w.writes + 1, cerr := true }
      winWrite w 1 v = some u ∧ winWrite w 2 v = some u ∧ winWrite w 3 v = some u ∧ winWrite w 4 v = some u) ∧
    (w.en = false → ∀ (a : BitVec 30) (n l : BitVec 32),
      let u : Win := { w with writes := w.writes + 1 }
      winWrite w 1 (a.setWidth 64) = some { u with src := a } ∧ winWrite w 2 (n ++ l) = some { u with nrow := n, rowlen := l } ∧
      winWrite w 3 (a.setWidth 64) = some { u with pitch := a } ∧ winWrite w 4 (a.setWidth 64) = some { u with scl := a }) ∧
    (2 ^ 30 ≤ v.toNat → winWrite w 1 v = none ∧ winWrite w 3 v = none ∧ winWrite w 4 v = none) ∧
    ((fld v 58 4 ≠ 0 ∨ fld v 32 16 ≠ 0) → winWrite w 0 v = none)) ∧
  (∀ (s : State) (t : Nat) (v : Word) (wn : Fin 16) (k : Fin 4) (n : Nat) (p : Packet),
    let x := s.tile t
    (bit v 40 = true → fld v 41 23 = 0 → fld v 4 8 = 0 →
      exec (.tlbiAll .firmware t v) s = .next (s.modTile t fun x => { x with tlb := [] })) ∧
    (bit v 40 = false → fld v 41 23 = 0 → fld v 4 8 = 0 → fld v 0 4 < 10 →
      let sz := 4096 * 4 ^ fld v 0 4
      exec (.tlbiPage .firmware t v) s = .next (s.modTile t fun x =>
        { x with tlb := x.tlb.filter fun e => !meets e.base e.size (fld v 12 28 * 4096 / sz * sz) sz })) ∧
    (∀ w, winWrite (x.win wn.val) 0 v = some w →
      (bit v 63 = true → exec (.windowEnable .firmware t wn v) s = .next (s.modTile t fun x => { x with wins := aput x.wins wn.val w })) ∧
      (bit v 63 = false → exec (.windowDisable .firmware t wn v) s = .next (s.modTile t fun x => { x with wins := aput x.wins wn.val w }))) ∧
    (∀ w, winWrite (x.win wn.val) (k.val + 1) v = some w →
      exec (.windowGeometryWrite .firmware t wn k v) s = .next (s.modTile t fun x => { x with wins := aput x.wins wn.val w })) ∧
    (fld v 54 10 = 0 → fld v 39 1 = 0 → fld v 15 17 = 0 → fld v 6 2 = 0 →
      exec (.registerWrite .firmware t 0x00 v) s = .next (s.modTile t fun x => { x with prt := v })) ∧
    (fld v 46 18 = 0 → fld v 39 1 = 0 → fld v 15 17 = 0 → fld v 6 2 = 0 →
      exec (.registerWrite .firmware t 0x08 v) s = .next ((builtTile s t).modTile t fun x => { x with tco := v })) ∧
    -- reserved bits (log 83)
    (∀ off ∈ [0x00, 0x08, 0x10, 0x18, 0x20, 0x28], tileReserved (off / 8) v = true →
      exec (.registerWrite .firmware t off v) s = .next (refuseReport s t .sreg (x.here (3 * 2 ^ 40 + off)))) ∧
    (fld v 30 34 = 0 → fld v 1 12 = 0 → exec (.registerWrite .firmware t 0x40 v) s = .next (s.modTile t fun x => { x with vtb := v })) ∧
    (fld v 15 48 = 0 → fld v 6 2 = 0 → exec (.registerWrite .firmware t 0x118000 v) s = .next (s.modTile t fun x => { x with supv := v })) ∧
    (fld v 0 6 = 0 → exec (.registerWrite .firmware t 0x118008 v) s = .next (s.modTile t fun x => { x with frb := v })) ∧
    (∀ wt wc, (s.ctx wt wc).st = .running → (s.tile wt).pid = x.pid → wc ≠ 30 →
      exec (.registerWrite (.ctx wt wc) t 0x40 v) s = .next (freeze s wt wc
        { cause := .sysSpace, addr := x.here (3 * 2 ^ 40 + 0x40) } (s.ctx wt wc).th.pc (s.ctx wt wc).iw)) ∧
    -- the park ring
    (∀ e, afind x.park (fld v 0 13) = some e → fld v 31 33 = 0 → fld v 22 2 = 0 → fld v 0 13 < 4128 → e.waiting = none → s.net = [] →
      bit (leWord (physGet s t (parkSlot (fld v 0 13) + 1016) 8)) 63 = true →
      (fld v 13 3 = 5 → fld v 24 7 = 0 → fld v 16 6 = 0 → e.side.tjob = none →
        exec (.pslotKill .firmware t v) s =
          .next ((freeSlot s t (fld v 0 13)).modTile t fun x => { x with slots := sdel x.slots (fld v 0 13) })) ∧
      (fld v 13 3 = 6 → fld v 24 7 < x.pw → fld v 16 6 < x.phh → x.x0 + x.pw ≤ 128 → x.y0 + x.phh ≤ 64 → e.side.launch = none → Memory.wf s.mem →
        let b := physGet s t (parkSlot (fld v 0 13)) 672
        let th := podThread b e.side
        let dst := x.at (fld v 24 7) (fld v 16 6)
        th.cx.toNat < x.pw → th.cy.toNat < x.phh →
        ∃ u : State, exec (.pslotRelocate .firmware t v) s = .next u ∧
          u.net = [⟨t, dst, 0, .pod ({ th with rel := true, parked := true }.leaves s t dst) 3 (some (t, fld v 0 13))
            (if podBad x b || slotReserved (leWord (physGet s t (parkSlot (fld v 0 13) + 1016) 8)) then some .podFormat else e.side.bad), []⟩] ∧
          (u.tile t).slots = x.slots)) ∧
    -- fault packets
    (∀ ws pid, deliverable s n = some p → p.body = .faultPkt ws pid false → p.dst < 8192 →
      (s.tile p.dst).frb = 0 ∨ (s.tile p.dst).frc = 0 ∨ vaultAddr s p.dst 8 (s.tile p.dst).frc = false →
      exec (.faultPacket n) s = .next ((s.dropPkt n).modTile p.dst fun y => { y with flost := y.flost + 1 })) ∧
    (∀ ws pid crash, deliverable s n = some p → p.body = .faultPkt ws pid crash → 8192 ≤ p.dst →
      ∃ u : State, exec (.faultPacket n) s = .next u ∧ u.net = (s.dropPkt n).net ∧ u.mem = s.mem ∧
        HostOut.report 64 (reportWords (if crash then 3 else 1) (fld (lget ws 0 0) 48 8) pid (s.pfSeq + 1) (lget ws 1 0) (lget ws 4 0) 0
          (fld (lget ws 0 0) 32 7) (fld (lget ws 0 0) 40 6)) none ∈ u.out) ∧
    (∀ ws pid s0 b, deliverable s n = some p → p.body = .faultPkt ws pid false → p.dst < 8192 →
      let f := s.tile p.dst
      let a := f.frb + w64 (64 * (leNat b % 4096))
      f.frb ≠ 0 → f.frc ≠ 0 → vaultAddr s p.dst 8 f.frc = true → tileOf s p.dst f.frc = p.dst → vaultAddr s0 p.dst 64 a = true → tileOf s0 p.dst a = p.dst →
      readHome (s.dropPkt n) p.dst (fld f.frc 0 44) 8 aRead = .ok (s0, b) → leNat b - f.frd.toNat < 4096 →
      ∀ s1 s2, writeHome s0 p.dst (fld a 0 44) (wordsBytes ws) aWrite = .ok s1 →
        (s1.tile p.dst).frc = f.frc → incrHome s1 p.dst (fld f.frc 0 44) 1 = .ok s2 → tileOf s1 p.dst f.frc = p.dst →
        exec (.faultPacket n) s = .next s2))

/-- R180, R182, R183, R289, R290, R328: instructions whose effect is a trap, and ISYNC. -/
def Obligations.TrapInstructions : Prop :=
  ∀ (s : State) (code : BitVec 16),
    exec .illegal s = .next (takeFault s { cause := .illegal }) ∧
    exec .poolexec s = .next (takeFault s { cause := .poolExec }) ∧
    exec .bkpt s = .next (takeFault s { cause := .bkpt }) ∧
    (s.me.tb1 = none → s.me.tub.isNcmd = false → s.me.gang = .none →
      ∃ u : State, exec (.trap code) s = .next u ∧ (u.ctx s.cur.t s.cur.c).st = .frozen ∧ (u.ctx s.cur.t s.cur.c).th.pc = s.th.pc + 12 ∧
        (u.ctx s.cur.t s.cur.c).th.g = s.th.g ∧ (u.ctx s.cur.t s.cur.c).stepping = false ∧
        ∃ ws, ⟨s.cur.t, packetSite s s.cur.t s.cur.c, 7, .faultPkt ws (s.tile s.cur.t).pid false, []⟩ ∈ u.net ∧
          lget ws 1 0 = s.th.pc ∧ fld (lget ws 0 0) 48 8 = 0x0E ∧ lget ws 2 0 = s.cur.iw.setWidth 64) ∧
    (exec .returnTrap s = .next (s.modMe fun c =>
      { c with st := .returning, wait := .none, tub := { Tub.zero with jent := c.tub.jent, heldSlot := c.tub.heldSlot } })) ∧
    (settled s → exec .isync s = .next (s.modTile s.cur.t fun x => { x with icache := [] }).retire) ∧
    ((∀ e ∈ (s.tile s.cur.t).comb, contributes s.th.tid e = false) → (s.me.pend ≠ [] ∨ s.me.outs ≠ []) →
      exec .isync s = .next (s.modMe fun c => { c with st := .waiting, wait := .retry }))

/-- R358 to R360, R368, R369, R417: taking a fault, and a fault of a context that holds both trap banks. The first SEQ and
what it counts is log 15's reading, the selection pointer after a third-level trap log 24's, its packet's way log 54's. -/
def Obligations.FaultEntry : Prop :=
  (∀ (s : State) (tr : Trap), s.me.tub.isNcmd = false → s.me.tb1 = none → s.me.wait = .none → s.me.gang = .none →
    ∃ ws : List Word,
      let t := s.cur.t
      let c := s.cur.c
      let x := s.tile t
      let h := lget ws 0 0
      -- a LEAD that its tile serves ends with the fault
      let s1 := if x.leading = some c then (learnPoison s tr).modTile t (fun y => { y with leading := none }) else learnPoison s tr
      takeFault s tr = ((s1.modTile t fun y => { y with seq := y.seq + 1 }).send t (packetSite s t c) 7
        (.faultPkt ws x.pid false)).modMe (fun y =>
          { y with st := .frozen, wait := .none, snap := none, stepping := false, stopReq := false, mig := none
                   tb0 := some (y.tb0.getD ws), tb1 := if y.tb0.isSome then some ws else none }) ∧
      ws.length = 8 ∧ bit h 63 = true ∧ bit h 62 = false ∧ bit h 61 = false ∧ bit h 60 = decide (32 ≤ c) ∧
      bit h 59 = isViol tr.cause ∧ bit h 58 = s.me.tb0.isSome ∧ fld h 48 8 = causeCode tr.cause ∧ fld h 40 6 = x.ly ∧
      fld h 32 7 = x.lx ∧ fld h 24 5 = c % 32 ∧ fld h 0 24 = (x.seq + 1) % 2 ^ 24 ∧ lget ws 1 0 = s.th.pc ∧
      (lget ws 2 0).setWidth 96 ||| ((lget ws 3 0).extractLsb' 32 32).setWidth 96 <<< 64 = s.cur.iw ∧
      (lget ws 3 0).setWidth 32 = s.th.tid ∧ lget ws 4 0 = tr.addr ∧ lget ws 5 0 = tr.syn ∧
      lget ws 6 0 = w64 (if 32 ≤ c then x.tcyc else x.lcyc) ∧ lget ws 7 0 = w64 (x.pid * 2 ^ 32)) ∧
  (∀ (s : State) (tr : Trap) (b0 b1 : List Word), (∀ e ∈ tr.newPoison, e.2 = false) → s.me.tub.isNcmd = false → s.me.tb0 = some b0 → s.me.tb1 = some b1 →
    (s.cur.c = 30 ∨ s.cur.c = 31 ∨ bit (s.tile s.cur.t).supv 63 = false → packetSite s s.cur.t s.cur.c = 10000 + fieldOf s.cur.t) ∧
    (s.cur.c < 32 →
      let u := takeFault s tr
      (∀ d, d < 32 → (u.ctx s.cur.t d).st = .free) ∧ (u.tile s.cur.t).ptr = 0 ∧ (u.tile s.cur.t).ncr = (s.tile s.cur.t).ncr + 1 ∧
      (u.tile s.cur.t).seq = (s.tile s.cur.t).seq + 1 ∧
      (u.tile s.cur.t).jobs.length = (s.tile s.cur.t).jobs.length ∧ (u.tile s.cur.t).mx = (s.tile s.cur.t).mx ∧
      (u.tile s.cur.t).deque = (s.tile s.cur.t).deque ∧ (u.tile s.cur.t).dirty = (s.tile s.cur.t).dirty ∧
      ∃ ws, ⟨s.cur.t, 10000 + fieldOf s.cur.t, 7, .faultPkt ws (s.tile s.cur.t).pid true, []⟩ ∈ u.net ∧ lget ws 1 0 = s.th.pc ∧
        fld (lget ws 0 0) 48 8 = causeCode tr.cause))

/-- R28, R363 to R368: commands on a context by one of its writers; the instruction word 0 of a STOP's packet is log 54's
reading, the KIND of the report of a refusal log 23's. -/
def Obligations.DebugCommands : Prop :=
  ∀ (s : State) (w : Writer) (t c : Nat) (rls : Bool), c < 40 → writerHere s w t = true → isSup s w t = true →
    let x := s.ctx t c
    let y := s.tile t
    let refused : State := match w with
      | .ctx wt wc => freeze s wt wc { cause := .debugWin, addr := y.here (3 * 2 ^ 40 + dcmdAt c) } (s.ctx wt wc).th.pc (s.ctx wt wc).iw
      | _ => refuseReport s t .debugWin (y.here (3 * 2 ^ 40 + dcmdAt c))
    let released (x : Ctx) : Ctx :=
      if rls then (if x.tb1.isSome then { x with tb1 := none } else { x with tb0 := none }) else x
    (x.st = .frozen → exec (.service w t c) s = .next (s.modCtx t c fun x => { x with st := .inService })) ∧
    (x.st ≠ .frozen → exec (.service w t c) s = .next refused) ∧
    (x.st = .inService → x.preh = false →
      exec (.resume w t c rls) s = .next (s.modCtx t c fun x => { released x with st := .ready, wait := .none }) ∧
      ∃ u : State, exec (.step w t c rls) s = .next u ∧ u.ctx t c = { released x with st := .ready, wait := .none, stepping := true } ∧
        u.mem = s.mem ∧ u.net = s.net) ∧
    (x.st ≠ .inService ∨ x.preh = true → exec (.resume w t c rls) s = .next refused ∧ exec (.step w t c rls) s = .next refused) ∧
    (x.st = .ready ∨ x.st = .running ∨ x.st = .waiting ∨ x.st = .refused →
      exec (.stop w t c) s = .next (freeze s t c { cause := .supStop } x.th.pc 0)) ∧
    (x.st = .packing ∨ x.st = .held → exec (.stop w t c) s = .next (s.modCtx t c fun x => { x with stopReq := true })) ∧
    (x.st = .free ∨ x.st = .frozen ∨ x.st = .inService ∨ x.st = .returning ∨ x.st = .saving → exec (.stop w t c) s = .next refused) ∧
    (x.st = .frozen ∨ x.st = .inService → exec (.kill w t c) s = .next (killCtx s t c)) ∧
    (x.st = .frozen ∨ x.st = .inService → c < 30 → x.wait = .none → x.pend = [] → x.gang = .none → x.th.tjob = none → y.panes = [] → y.ports = [] →
      y.notices = [] → chargeTile s t x.th = t →
      ∃ u : State, exec (.kill w t c) s = .next u ∧ u.ctx t c = Ctx.free ∧ (u.tile t).slots = sdel y.slots x.th.slot ∧ u.mem = s.mem ∧ u.net = s.net) ∧
    (x.st ≠ .frozen → x.st ≠ .inService → exec (.kill w t c) s = .next refused ∧ exec (.relocate w t c) s = .next refused) ∧
    (32 ≤ c ∨ y.pw ≤ fld x.dtgt 8 7 ∨ y.phh ≤ fld x.dtgt 0 6 → exec (.relocate w t c) s = .next refused) ∧
    (c < 32 → (x.st = .frozen ∨ x.st = .inService) → fld x.dtgt 8 7 < y.pw → fld x.dtgt 0 6 < y.phh →
      (x.pend = [] → exec (.relocate w t c) s =
        .next (beginPack (s.modCtx t c fun x => { x with tb0 := none, tb1 := none, preh := false
                                                         relocating := some (y.at (fld x.dtgt 8 7) (fld x.dtgt 0 6)) }) t c
          (y.at (fld x.dtgt 8 7) (fld x.dtgt 0 6)) 3 0)) ∧
      (x.pend ≠ [] → exec (.relocate w t c) s = .next (s.modCtx t c fun x => { x with relocating := some (y.at (fld x.dtgt 8 7) (fld x.dtgt 0 6)) })))

/-- R124, R130 to R134, R138, R139, R286, R287: cards, and jobs that enter the window, in some free entry (which one is
the model's choice, log 11). -/
def Obligations.JobSubmission : Prop :=
  ∀ (s : State) (pool : Bool) (m : MemB) (d : G),
    let t := s.cur.t
    let x := s.tile t
    let meet (j k : Job) (a b : List Region) : Bool := a.any fun g => b.any fun h => regionsMeet (rectOf j.prm) g (rectOf k.prm) h
    let entry (e : Nat) (j : Job) : Job :=
      { j with ent := e, order := x.jobOrder, tid := s.th.tid, c := s.cur.c, pc := s.th.pc, iw := s.cur.iw, launch := s.th.launch, deps := []
               edges := (x.jobs.filter fun k => meet j k j.rd k.wr || meet j k j.wr k.rd || meet j k j.wr k.wr).map (·.order) }
    -- what a card that passes describes
    (∀ t pv ea j, readCard s t pv ea pool = .ok j →
      ea.toNat % 128 = 0 ∧ j.kind ≤ 3 ∧ j.pri ≤ 3 ∧ j.rd.length ≤ 4 ∧ j.wr.length ≤ 4 ∧ j.inc < 2 ^ 32 ∧ j.card = ea ∧
      (∀ g ∈ j.rd ++ j.wr, 1 ≤ g.len ∧ g.len < 2 ^ 31) ∧ (∀ g ∈ j.rd, g.rect = false) ∧ (∀ g ∈ j.wr, g.rect = true → j.kind = 0) ∧
      (∀ a, a = j.cnt ∨ a = j.sta → a = 0 ∨ a.toNat % 8 = 0 ∧ fld a 44 7 < (s.tile t).pw ∧ fld a 51 6 < (s.tile t).phh)) ∧
    -- JOB
    (∀ tr, readCard s t (priv s) (eaB s.th m) pool = .error tr → exec (.job pool m) s = .next (takeFault s tr)) ∧
    (∀ j, readCard s t (priv s) (eaB s.th m) pool = .ok j → relHeld s = false →
      (64 ≤ x.jobs.length → exec (.job pool m) s = .next (s.modMe fun c => { c with st := .waiting, wait := .retry })) ∧
      (x.jobs.length < 64 → settled s → (j.kind = 2 → groupEntry x (collGrp j) = none) →
        ∃ e, e < 64 ∧ (∀ k ∈ x.jobs, k.ent ≠ e) ∧ exec (.job pool m) s =
          .next (s.modTile t fun y => { y with jobs := y.jobs ++ [entry e j], jobOrder := y.jobOrder + 1 }).retire) ∧
      -- a COLL card of a member takes the group's next matching number
      (∀ w q, x.jobs.length < 64 → settled s → j.kind = 2 → groupEntry x (collGrp j) = some w → s.part x.pid = some q →
        let k := t * 64 + collGrp j
        let no := aget q.collSeq k 0
        ∃ e, e < 64 ∧ (∀ i ∈ x.jobs, i.ent ≠ e) ∧ exec (.job pool m) s =
          .next ((s.setPart { q with collSeq := aput q.collSeq k (no + 1) }).modTile t fun y =>
            { y with jobs := y.jobs ++ [{ entry e j with collNo := some no }], jobOrder := y.jobOrder + 1 }).retire)) ∧
    -- NCMD
    (∀ tr, blockWords s t (priv s) (eaB s.th m) 6 pool .card = .error tr → exec (.ncmd pool d m) s = .next (takeFault s tr)) ∧
    (∀ w, blockWords s t (priv s) (eaB s.th m) 6 pool .card = .ok w →
      (fld (lget w 0 0) 0 4 < 5 ∨ 9 < fld (lget w 0 0) 0 4 ∨ fld (lget w 0 0) 6 58 ≠ 0 →
        exec (.ncmd pool d m) s = .next (takeFault s { cause := .card })) ∧
      (∀ j, ncmdJob s t w = .ok j → x.jobs.length < 64 → settled s →
        ∃ e, e < 64 ∧ (∀ k ∈ x.jobs, k.ent ≠ e) ∧ exec (.ncmd pool d m) s =
          .next (addPend (s.nextReq.modTile t fun y => { y with jobs := y.jobs ++ [entry e { j with req := s.reqNo }], jobOrder := y.jobOrder + 1 })
            (.g d.val .u64) [(s.reqNo, [])] []).retire))

/-- R134 to R137, R141 to R143: engines that move elements, and the end of a job; the rising order of the elements is the
model's choice (log 17), as are one slot of a job at each home (logs 52 and 87) and its claims of pane slots (log 85). -/
def Obligations.JobEngines : Prop :=
  ∀ (s : State) (t n : Nat) (j : Job) (p : Packet),
    let x := s.tile t
    let failed (u : State) (k : Job) (c : Nat) (a : Word) : Prop :=
      u.job t k.order = some { k with finished := true, cause := c, faddr := a, phase := .idle }
    -- starting
    (x.jobs = [j] → j.started = false → j.finished = false → j.edges = [] → j.deps = [] →
      (j.kind ≤ 1 → exec (.jobStart t j.kind) s = .next (s.modJob t j.order fun k => { k with started := true })) ∧
      (j.kind = 3 ∨ j.kind = 4 → dispatchFail s t j = none → j.rd = [] → j.wr = [] →
        exec (.jobStart t 3) s = .next (s.modJob t j.order fun k =>
          { k with started := true, next := 0, live := if j.kind = 4 then 1 else fld (lget j.prm 1 0) 0 16 })) ∧
      (j.kind = 3 → ∀ tr, dispatchFail s t j = some tr →
        ∃ u : State, exec (.jobStart t 3) s = .next u ∧ failed u j (jobCode tr.cause) tr.addr) ∧
      (j.kind = 2 → groupEntry x (collGrp j) = none →
        ∃ u : State, exec (.jobStart t 2) s = .next u ∧ failed u { j with started := true } 0x07 0)) ∧
    (x.jobs.any (fun k => j.edges.contains k.order) = true → x.jobs = [j] → j.started = false → exec (.jobStart t j.kind) s = .next s) ∧
    -- one element of a COPY
    (x.jobs = [j] → j.kind = 0 → j.started = true → j.finished = false → j.phase = .idle →
      (jobTotal j ≤ j.next → exec (.jobStart t 0) s = .next (s.modJob t j.order fun k => { k with finished := true })) ∧
      (j.next < jobTotal j → j.buf = [] → ∀ a h, (jobPlaces j j.next (j.idx - 1)).1 = a → engineHome s t j a (jobSize j) false = .ok h →
        (∀ s1 l, h = .tile t (fld a 0 44) → homeRead s t t j (fld a 0 44) (jobSize j) = .data s1 l →
          exec (.jobStart t 0) s = .next (s1.modJob t j.order fun k => { k with buf := l, phase := .idle })) ∧
        (∀ w, h = .tile t (fld a 0 44) → homeRead s t t j (fld a 0 44) (jobSize j) = .wait w → exec (.jobStart t 0) s = .next (queueClaim s t j w)) ∧
        (∀ tr, h = .tile t (fld a 0 44) → homeRead s t t j (fld a 0 44) (jobSize j) = .fail tr →
          ∃ u : State, exec (.jobStart t 0) s = .next u ∧ failed u j (jobCode tr.cause) a) ∧
        (h ≠ .tile t (fld a 0 44) → hasCredit s t (elemKey j.order (engineSite s t h)) = true →
          exec (.jobStart t 0) s = .next (((useCredit s t (elemKey j.order (engineSite s t h))).send t (engineSite s t h) 6
            (.elem t j.order a (jobSize j) none)).modJob t j.order fun k => { k with phase := .read })) ∧
        (h ≠ .tile t (fld a 0 44) → hasCredit s t (elemKey j.order (engineSite s t h)) = false → exec (.jobStart t 0) s = .next s)) ∧
      (j.next < jobTotal j → j.buf ≠ [] → ∀ a s1, (jobPlaces j j.next (j.idx - 1)).2 = some a →
        engineHome s t j a j.buf.length true = .ok (.tile t (fld a 0 44)) → homeWrite s t t j (fld a 0 44) j.buf = .ok s1 →
        exec (.jobStart t 0) s = .next (s1.modJob t j.order fun k => { k with buf := [], idx := 0, next := k.next + 1, phase := .idle })) ∧
      (j.next < jobTotal j → j.buf = [] → ∀ a tr, (jobPlaces j j.next (j.idx - 1)).1 = a → engineHome s t j a (jobSize j) false = .error tr →
        ∃ u : State, exec (.jobStart t 0) s = .next u ∧ failed u j (jobCode tr.cause) tr.addr ∧
          ∃ ws, ⟨t, packetSite s t j.c, 7, .faultPkt ws x.pid false, []⟩ ∈ u.net ∧ bit (lget ws 0 0) 62 = true ∧ lget ws 5 0 = w64 (jobCode tr.cause))) ∧
    -- a claim of an engine stands once in its pane's order (03 R45)
    (∀ h, queueClaim s t j none = s ∧
      ((x.pane h).claims.any (fun q => q.c == 64 + j.order) = false →
        ((queueClaim s t j (some h)).tile t).pane h = { x.pane h with claims := (x.pane h).claims ++ [⟨64 + j.order, false, 1⟩] }) ∧
      ((x.pane h).claims.any (fun q => q.c == 64 + j.order) = true → queueClaim s t j (some h) = s)) ∧
    -- requests of an engine to another home
    (∀ a k s1 l, deliverable s n = some p → p.body = .elem t j.order a k none → p.dst < 20000 →
      homeRead (s.dropPkt n) t p.dst ((s.job t j.order).getD Job.empty) (fld a 0 44) k = .data s1 l →
      exec (.elementRequest n) s = .next ((s1.send p.dst t 6 (.elemRe j.order l none)).send p.dst t 6 (.credit (elemKey j.order p.dst)))) ∧
    (∀ a k s1 l, deliverable s n = some p → p.bad = [] → p.body = .elem t j.order a k (some l) → p.dst < 20000 →
      homeWrite (s.dropPkt n) t p.dst ((s.job t j.order).getD Job.empty) (fld a 0 44) l = .ok s1 →
      exec (.elementRequest n) s = .next ((s1.send p.dst t 6 (.elemRe j.order [] none)).send p.dst t 6 (.credit (elemKey j.order p.dst)))) ∧
    (∀ a k l q, deliverable s n = some p → p.body = .elem t j.order a k none → 20000 ≤ p.dst → s.part x.pid = some q →
      afind q.peers (fld a 30 27) = none → edgeRead (s.dropPkt n) q (fld a 0 57) k = .ok l →
      exec (.elementRequest n) s = .next (((s.dropPkt n).ioBack x.pid (p.dst - 20000) t 6 (.elemRe j.order l none)).ioBack x.pid (p.dst - 20000) t 6
        (.credit (elemKey j.order (ioSite t (p.dst - 20000)))))) ∧
    (∀ l, deliverable s n = some p → p.bad = [] → p.body = .elemRe j.order l none → s.job p.dst j.order = some j → j.finished = false →
      (j.phase = .read → exec (.elementReply n) s = .next ((s.dropPkt n).modJob p.dst j.order fun k => { k with buf := l, phase := .idle })) ∧
      (j.phase = .index → exec (.elementReply n) s = .next ((s.dropPkt n).modJob p.dst j.order fun k => { k with idx := leNat l + 1, phase := .idle })) ∧
      (j.phase = .write → exec (.elementReply n) s =
        .next ((s.dropPkt n).modJob p.dst j.order fun k => { k with buf := [], idx := 0, next := k.next + 1, phase := .idle }))) ∧
    (∀ k, deliverable s n = some p → p.body = .credit k →
      exec (.vc6Credit n) s = .next ((s.dropPkt n).modTile p.dst fun y => { y with credits := adel y.credits k })) ∧
    -- completion, once the pane slots that the engine holds may end
    (∀ no, s.job t no = some j → endSlots s t j.slots = none → exec (.jobCompletion t no) s = .next s) ∧
    (∀ no s0, s.job t no = some j → j.finished = true → j.kind ≠ 4 → j.q = none → endSlots s t j.slots = some s0 →
      (j.sta = 0 → j.cnt = 0 ∨ j.inc = 0 →
        exec (.jobCompletion t no) s = .next (s0.modTile t fun y => { y with jobs := y.jobs.filter fun k => k.order != no })) ∧
      (∀ s1, j.sta ≠ 0 → j.cnt ≠ 0 → j.inc ≠ 0 →
        writeHome s0 (tileOf s0 t j.sta) (fld j.sta 0 44) (wBytes (w64 (2 ^ 63 + j.cause * 2 ^ 48 + j.kind * 2 ^ 44))) aWrite = .ok s1 →
        exec (.jobCompletion t no) s = .next ((s1.send t (tileOf s1 t j.cnt) 4
          (.incrFor ⟨t, j.c, j.tid, j.pc, j.iw, w64 j.cause, false⟩ j.cnt j.inc)).modTile t fun y =>
            { y with jobs := y.jobs.filter fun k => k.order != no }))) ∧
    (∀ r a k s1, deliverable s n = some p → p.body = .incrFor r a k → incrHome (s.dropPkt n) p.dst (fld a 0 44) k = .ok s1 →
      exec (.counterIncrement n) s = .next s1)

/-- R138 to R141: collective jobs: a member's contribution, what a router combines and sends UP, the result DOWN and at its member,
and ABORT; what ABORT withdraws is the model's choice (log 49). -/
def Obligations.Collectives : Prop :=
  ∀ (s : State) (t g : Nat) (e : Word) (p : Part) (j : Job) (c : CollSt),
    let x := s.tile t
    ∀ no : Nat,
    let slots := (collPorts e).filterMap fun k => collSlot x g k no
    let ents := slots.flatMap (·.ents)
    let clear (u : State) : State := slots.foldl (fun u c => freeColl u t c) u
    -- the engine reads the member's source into its router's slot
    (∀ n s1 l, x.jobs = [j] → j.kind = 2 → j.started = false → j.finished = false → j.edges = [] → j.deps = [] → j.collNo = some n →
      groupEntry x (collGrp j) = some e →
      let h := lget j.prm 0 0
      let count := fld (lget j.prm 1 0) 0 24
      let root := fld h 32 13
      collRead t j (lget j.prm 2 0) (collEsz (fld h 8 3))
        (if fld h 0 4 = 3 ∧ fld e 43 13 ≠ root then 0 else if fld h 0 4 = 1 then count * fld e 29 14 else count) s = .ok (s1, l) →
      exec (.jobStart t 2) s = .next ((addColl s1 t ⟨collGrp j, n, 8, [⟨collGrp j, n, t, fld e 43 13, fld e 29 14, fld h 0 4, fld h 4 4, fld h 8 3,
        count, root, l, false⟩], none⟩).modJob t j.order fun k => { k with started := true, phase := .blocked })) ∧
    -- the router of a tile at which nothing arrives
    ((∀ q ∈ s.net, q.dst ≠ t) → collNos x g = [no] → collSlot x g 11 no = none → routerEntry x g = some e → s.part x.pid = some p →
      (slots.length ≠ (collPorts e).length → exec (.collContribution t g) s = .next s) ∧
      (∀ link, slots.length = (collPorts e).length → slots ≠ [] → fld e 24 4 = 15 →
        (afind p.joins g = none → collSlot x g 9 no = none →
          exec (.collContribution t g) s = .next (addColl (clear s) t ⟨g, no, 9, ents, none⟩)) ∧
        (afind p.joins g = some link → exec (.collContribution t g) s =
          .next ((addColl (clear s) t ⟨g, no, 11, ents, none⟩).send t (ioSite t (32 + link)) 6 (.peerOut link (.coll g no ents))))) ∧
      (∀ u, slots.length = (collPorts e).length → slots ≠ [] → fld e 24 4 ≠ 15 → portTile s p t (fld e 24 4) = some u →
        (hasCredit s t (collKey g 15 no) = true → exec (.collContribution t g) s =
          .next (clear ((useCredit s t (collKey g 15 no)).send t u 6 (.coll g no (collKey g 15 no) true ents)))) ∧
        (hasCredit s t (collKey g 15 no) = false → exec (.collContribution t g) s = .next s))) ∧
    -- a child's packet takes the slot of its port
    (∀ q n key l k, s.net = [q] → s.links = [] → q.dst = t → q.bad = [] → q.body = .coll g n key true l → routerEntry x g = some e →
      s.part x.pid = some p → ((List.range 8).find? fun k => bit e (16 + k) && portTile s p t k == some q.src) = some k →
      (∀ d ∈ x.colls, d.grp = g → d.no = n) → collSlot x g 11 n = none → (∃ i ∈ collPorts e, i ≠ k ∧ collSlot x g i n = none) →
      exec (.collContribution t g) s = .next (addColl (s.dropPkt 0) t ⟨g, n, k, l, some (q.src, key)⟩)) ∧
    -- the result at the router of a member with none below it, and at one that has no job waiting
    (∀ (r : CollIn) s1 l, (∀ q ∈ s.net, q.dst ≠ t) → collNos x g = [no] → collSlot x g 9 no = some r → routerEntry x g = some e → s.part x.pid = some p →
      fld e 16 8 = 0 → collJob x r.grp r.no = some j → (r.ents.find? fun c => c.tile == t) = some c → collAgree r.ents = true →
      (∀ m ∈ r.ents, m.bad = false) → collMembers r.ents c.gsize = l → l.length = c.gsize → r.ents.length = c.gsize →
      collWrite t j (lget j.prm 3 0) (collEsz c.ty) (collOutput l c) s = (s1, none) →
      exec (.collResult t g) s = .next (freeColl (s1.modJob t j.order fun k => { k with finished := true, phase := .idle }) t r)) ∧
    (∀ (r : CollIn), (∀ q ∈ s.net, q.dst ≠ t) → collNos x g = [no] → collSlot x g 9 no = some r → routerEntry x g = some e → s.part x.pid = some p →
      collJob x r.grp r.no = none →
      let ports := (List.range 8).filter fun k => bit e (16 + k) && (portTile s p t k).isSome
      ((∀ k ∈ ports, hasCredit s t (collKey g k no) = true) →
        exec (.collResult t g) s = .next (ports.foldl (fun u k => match portTile s p t k with
          | some v => (useCredit u t (collKey g k no)).send t v 6 (.coll g no (collKey g k no) false r.ents)
          | none => u) (freeColl s t r))) ∧
      ((∃ k ∈ ports, hasCredit s t (collKey g k no) = false) → exec (.collResult t g) s = .next s)) ∧
    ((∀ q ∈ s.net, q.dst ≠ t) → (∀ d ∈ x.colls, d.grp = g → d.port ≠ 9) → exec (.collResult t g) s = .next s) ∧
    -- ABORT
    (∀ k, s.job t k = some j → j.kind = 2 → j.finished = false →
      ∃ u : State, exec (.abortJob t (k + 1)) s = .next u ∧
        u.job t k = some { j with started := true, finished := true, cause := 0x0A, faddr := 0, phase := .idle } ∧
        (∀ n, s.part x.pid = some p → j.collNo = some n → ∀ v ∈ p.tiles, ∀ d ∈ (u.tile v).colls, ¬(d.grp = collGrp j ∧ d.no = n))) ∧
    -- what a member receives
    (∀ a b : CollSt, a.src.length = c.count → b.src.length = c.count →
      (c.op = 2 → collOutput [a, b] c = a.src ++ b.src) ∧ (c.op = 3 → c.root = 1 → collOutput [a, b] c = b.src) ∧
      (c.op = 0 → collOutput [a, b] c = List.zipWith (collCombine c.red c.ty) a.src b.src)) ∧
    (∀ a b : BitVec 32, ∀ ty, ty ≤ 1 →
      collCombine 0 ty (a.setWidth 64) (b.setWidth 64) = (a + b).setWidth 64 ∧
      collCombine 3 ty (a.setWidth 64) (b.setWidth 64) = (a &&& b).setWidth 64 ∧
      collCombine 4 ty (a.setWidth 64) (b.setWidth 64) = (a ||| b).setWidth 64 ∧
      collCombine 5 ty (a.setWidth 64) (b.setWidth 64) = (a ^^^ b).setWidth 64 ∧
      collCombine 1 1 (a.setWidth 64) (b.setWidth 64) = (if a.toNat ≤ b.toNat then a else b).setWidth 64 ∧
      collCombine 2 0 (a.setWidth 64) (b.setWidth 64) = (if a.toInt ≤ b.toInt then b else a).setWidth 64)

/-- R294, R306 to R313: matrix instructions enter the engine's queue, wait for room, or fault; MSTAT reads. -/
def Obligations.MatrixIssue : Prop :=
  ∀ (s : State) (pool b w : Bool) (m : MemB) (a c d : G) (n : BitVec 32),
    let t := s.cur.t
    let x := s.tile t
    let mx := x.mx
    let ea := eaB s.th m
    let accepted (kind : Nat) (blk : List Word) (p q : Word) (k : Nat) (g : List Tile) : State :=
      (s.nextReq.modTile t fun y => { y with mx := { y.mx with queue := y.mx.queue ++
        [{ kind := kind, blk := blk, a := p, b := q, n := k, c := s.cur.c, tid := s.th.tid, pc := s.th.pc, iw := s.cur.iw, no := s.reqNo
           deps := [], gang := g, gens := (List.range 16).map fun i => ((x.win i).gen, (x.win i).writes) }] } }).retire
    let waits : State := s.modMe fun c => { c with st := .waiting, wait := .retry }
    let room : Prop := mx.queue.length + (if mx.run.isSome then 1 else 0) < 8
    let view (v : Word) : Prop :=
      fld v 57 7 = 0 ∧ fld v 44 7 = x.lx ∧ fld v 51 6 = x.ly ∧ fld v 40 4 = 1 ∧ viewTier v < 6 ∧ fld v 0 33 % tierStride (viewTier v) = 0
    let pho (v : Word) : Prop := v.toNat % 16 = 0 ∧ fld v 57 7 = 0 ∧ fld v 44 7 < x.pw ∧ fld v 51 6 < x.phh ∧ fld v 40 4 = 0
    let cwa (v : Word) : Prop := v = 0 ∨ v.toNat % 8 = 0 ∧ fld v 57 7 = 0 ∧ fld v 44 7 < x.pw ∧ fld v 51 6 < x.phh ∧ fld v 40 4 = 0
    (room → exec .mswp s = .next (accepted 5 [] 0 0 0 []) ∧ exec (.mzero b) s = .next (accepted 6 [] 0 0 (if b then 1 else 0) [])) ∧
    (¬ room → exec .mswp s = .next waits ∧ exec (.mzero b) s = .next waits) ∧
    -- MLDS
    (view (rdG s.th a) → (rdG s.th c).toNat < 2 ^ 26 →
      (room → settled s → exec (.mlds a c n) s = .next (accepted 4 [] (rdG s.th a) (rdG s.th c) n.toNat [])) ∧
      (¬ room → exec (.mlds a c n) s = .next waits)) ∧
    (view (rdG s.th a) → 2 ^ 26 ≤ (rdG s.th c).toNat →
      exec (.mlds a c n) s = .next (takeFault s { cause := .mparam, addr := rdG s.th a })) ∧
    (fld (rdG s.th a) 40 4 ≠ 1 → exec (.mlds a c n) s = .next (takeFault s { cause := .address, addr := rdG s.th a })) ∧
    -- MMUL
    (∀ k, mxBlock s pool ea 6 = .ok k → fld (lget k 0 0) 56 8 = 0 → fld (lget k 0 0) 38 2 = 0 → bit (lget k 0 0) 1 = false →
      fld (lget k 3 0) 26 38 = 0 → pho (lget k 4 0) → cwa (lget k 5 0) → view (lget k 2 0) →
      (fld (lget k 0 0) 16 16 ≠ 0 → fld (lget k 0 0) 2 3 ≤ fld (lget k 0 0) 5 3 → fld (lget k 0 0) 5 3 ≤ 5 →
        (bit (lget k 0 0) 9 = true → myGang s ≠ []) → fld (lget k 0 0) 40 8 + fld (lget k 0 0) 48 8 + 1 ≤ 128 → settled s → room →
        exec (.mmul pool m) s = .next (accepted 0 k 0 0 0 (if bit (lget k 0 0) 9 then myGang s else []))) ∧
      (fld (lget k 0 0) 16 16 = 0 → exec (.mmul pool m) s = .next (takeFault s { cause := .mparam, addr := ea }))) ∧
    -- MMULG
    (∀ k0 k, mxBlock s pool ea 6 = .ok k0 → mxBlock s pool ea (6 + 2 * groupCount k0) = .ok k → fld (lget k 0 0) 52 4 = 0 →
      mmCommon s k ea = .ok () → (∀ g, g < groupCount k → groupOk s k ea g = .ok ()) →
      (mmRow0 k + ((List.range (groupCount k)).map (groupRows k)).sum ≤ 128 → settled s → room →
        exec (.mmulg pool m) s = .next (accepted 1 k 0 0 0 (if bit (lget k 0 0) 9 then myGang s else []))) ∧
      (128 < mmRow0 k + ((List.range (groupCount k)).map (groupRows k)).sum →
        exec (.mmulg pool m) s = .next (takeFault s { cause := .mgroup, addr := ea }))) ∧
    -- MRED
    (∀ k, mxBlock s pool ea 3 = .ok k → fld (lget k 0 0) 56 8 = 0 → fld (lget k 0 0) 38 2 = 0 → fld (lget k 0 0) 30 2 = 0 →
      fld (lget k 0 0) 20 4 = 0 → fld (lget k 0 0) 1 15 = 0 → fld (lget k 1 0) 15 49 = 0 → fld (lget k 1 0) 6 2 = 0 → pho (lget k 2 0) →
      fld (lget k 0 0) 40 8 + fld (lget k 0 0) 48 8 + 1 ≤ 128 → fld (lget k 0 0) 24 6 ≤ fld (lget k 0 0) 32 6 →
      (fld (lget k 1 0) 8 7 < x.pw → fld (lget k 1 0) 0 6 < x.phh → settled s → room →
        exec (.mred pool m) s = .next (accepted 2 k 0 0 0 [])) ∧
      (x.pw ≤ fld (lget k 1 0) 8 7 → exec (.mred pool m) s =
        .next (takeFault s { cause := .partition, addr := gaddrOf (fld (lget k 1 0) 8 7) (fld (lget k 1 0) 0 6) 0 }))) ∧
    -- MSTO of 64-bit elements to vault space
    (∀ k, mxBlock s pool ea 5 = .ok k → fld (lget k 0 0) 56 8 = 0 → fld (lget k 0 0) 38 2 = 0 → fld (lget k 0 0) 30 2 = 0 →
      fld (lget k 0 0) 1 23 = 0 → fld (lget k 2 0) 32 32 = 0 → pho (lget k 3 0) → cwa (lget k 4 0) →
      fld (lget k 0 0) 32 6 + fld (lget k 0 0) 24 6 ≤ 63 → fld (lget k 0 0) 40 8 + fld (lget k 0 0) 48 8 ≤ 127 →
      fld (lget k 1 0) 57 7 = 0 → fld (lget k 1 0) 44 7 = x.lx → fld (lget k 1 0) 51 6 = x.ly → fld (lget k 1 0) 40 4 = 0 →
      (lget k 1 0).toNat % 8 = 0 → fld (lget k 2 0) 0 32 % 8 = 0 →
      fld (lget k 1 0) 0 40 + fld (lget k 0 0) 48 8 * fld (lget k 2 0) 0 32 + fld (lget k 0 0) 24 6 * 8 + 8 ≤ 2 ^ 40 → settled s → room →
      exec (.msto pool m) s = .next (accepted 3 k 0 0 0 [])) ∧
    -- MSTAT
    (w = true → (mx.run.isSome = true ∨ mx.queue ≠ []) → exec (.mstat w d n) s = .next waits) ∧
    -- MSTAT.w returns once every MLDS is done (R315)
    (w = false ∨ (mx.run = none ∧ mx.queue = []) →
      let s1 := if w then s.modTile t (fun y => { y with mx := { y.mx with active := y.mx.active.map (endLds y), shadow := y.mx.shadow.map (endLds y) } })
        else s
      exec (.mstat w d n) s = .next (afterTh s1 fun th => wrG th d
        (if n = 0 then mxStateWord mx else if n = 1 then provWord mx.active else provWord mx.shadow)))

/-- R292 to R305, R308, R311 to R314: matrix instructions run and complete, their attempts in one step
(log 5); the order of requests and grants of an MRED is the model's choice (log 49). -/
def Obligations.MatrixEvents : Prop :=
  ∀ (s : State) (t n : Nat) (i : MxIns) (l : List MxIns) (p : Packet),
    let x := s.tile t
    let m := x.mx
    let ran (s : State) (r : MxRun) : State := s.modTile t fun y => { y with mx := { y.mx with queue := l, run := some r } }
    let blank (st : Word) : MxRun :=
      { ins := i, status := st, count := 0, waiting := false, asked := false, cause := none, mdata := false, wins := [], active := m.active
        shadow := m.shadow, bank0 := m.bank0, bank1 := m.bank1 }
    (m.run = none → m.queue = i :: l → (∀ k ∈ i.deps, reqDue s k = false) →
      (i.kind = 5 → exec (.matrixStart t []) s = .next (ran s { blank 0 with active := m.shadow, shadow := m.active })) ∧
      (i.kind = 6 → exec (.matrixStart t []) s =
        .next (ran s (if i.n = 0 then { blank 0 with bank0 := [] } else { blank 0 with bank1 := [] }))) ∧
      (i.kind = 4 → ∀ us, planeUnits s t (viewWnd i.a) (viewUnit i.a) i.b.toNat i.n (viewTier i.a) = .ok us →
        exec (.matrixStart t []) s =
          .next (ran (meetUnits s t (viewTier i.a) ((List.range i.n).map fun j => (viewWnd i.a, viewUnit i.a + j * i.b.toNat)))
            { blank 0 with shadow := some ⟨viewWnd i.a, viewUnit i.a, i.b.toNat, i.n, viewTier i.a, us, some (lget i.gens (viewWnd i.a) (0, 0)), false⟩ })) ∧
      (i.kind = 4 → ∀ c, planeUnits s t (viewWnd i.a) (viewUnit i.a) i.b.toNat i.n (viewTier i.a) = .error c →
        exec (.matrixStart t []) s = .next (ran s { blank 0 with shadow := none, cause := some c })) ∧
      (i.kind = 3 → ∀ s1 k, mstoGo t (fld (lget i.blk 0 0) 1 2) (mstoList m i.blk) [0, 0, 0, 0] s = (s1, k, none) → (s1.tile t).mx = m →
        ∃ u : State, exec (.matrixStart t []) s = .next u ∧ u.mem = s1.mem ∧ (u.tile t).mx.queue = l ∧
          ∃ r, (u.tile t).mx.run = some r ∧ bit r.status 63 = true ∧ fld r.status 56 7 = 3 ∧ fld r.status 48 8 = 0 ∧ r.count = mxCount k) ∧
      (i.kind = 2 →
        let root := x.at (fld (lget i.blk 1 0) 8 7) (fld (lget i.blk 1 0) 0 6)
        root ≠ t →
        (hasCredit s t (mredKey root) = true → exec (.matrixStart t []) s =
          .next ((useCredit (ran s { blank (w64 (2 ^ 63 + 2 * 2 ^ 56)) with waiting := true, asked := true }) t (mredKey root)).send t root 6
            (.mred t i.no (mredTag i.blk) (mredRank i.blk) (mredS i.blk) (mredRow0 i.blk) (mredN i.blk) none))) ∧
        (hasCredit s t (mredKey root) = false → exec (.matrixStart t []) s = .next (ran s { blank (w64 (2 ^ 63 + 2 * 2 ^ 56)) with waiting := true }))) ∧
      -- at its root an MRED grants who has asked the buffer of its rank, or refuses it (log 49)
      (i.kind = 2 → x.at (fld (lget i.blk 1 0) 8 7) (fld (lget i.blk 1 0) 0 6) = t → 3 ≤ mredS i.blk → ∀ a, m.arrivals = [a] → a.tag = mredTag i.blk →
        a.set = aget m.mredOwn (mredTag i.blk) 0 + 1 → a.st = 0 →
        ∃ u : State, exec (.matrixStart t []) s = .next u ∧
          (a.rank < mredS i.blk → a.rank ≠ mredRank i.blk →
            u.net = s.net ++ [⟨t, a.tile, 6, .mredRe a.no .granted, []⟩] ∧ (u.tile t).mx.arrivals = [{ a with st := 1 }]) ∧
          (mredS i.blk ≤ a.rank ∨ a.rank = mredRank i.blk →
            u.net = s.net ++ [⟨t, a.tile, 6, .mredRe a.no .refused, []⟩, ⟨t, a.tile, 6, .credit (mredKey t), []⟩] ∧
            (u.tile t).mx.arrivals = [{ a with st := 3 }])) ∧
      (i.kind = 0 → mmGsync i.blk = false → m.active = none →
        ∃ u : State, exec (.matrixStart t []) s = .next u ∧ ∃ r, (u.tile t).mx.run = some r ∧ fld r.status 48 8 = 0x81 ∧ r.bank0 = m.bank0 ∧
          r.bank1 = m.bank1 ∧ r.active = none) ∧
      -- an MMUL whose first attempt keeps its budgets
      (i.kind = 0 → mmGsync i.blk = false → s.latent = [] → ∀ q a, m.active = some q → q.tier = mmStier i.blk → q.tier ≤ 5 →
        groupsRun s t q.tier i.blk (fun _ => [])
          ⟨(let b := bankOf m (mxBank i.blk)
            let g : MGrp := ⟨mmRow0 i.blk, 0, mmRows i.blk, q.wnd, q.u0, q.cstr, q.nc, some q.units⟩
            if mmAcc i.blk then b else zeroRows b [g]), [0, 0, 0, 0], [], []⟩
          [⟨mmRow0 i.blk, 0, mmRows i.blk, q.wnd, q.u0, q.cstr, q.nc, some q.units⟩] = .ok a →
        a.derr = [] → a.ovd = [] →
        (∀ k, k < 4 → fld (lget i.blk 1 0) (48 - 16 * k) 16 = 0xFFFF ∨ lget a.cnt k 0 ≤ fld (lget i.blk 1 0) (48 - 16 * k) 16) →
        ∃ u : State, exec (.matrixStart t []) s = .next u ∧ (u.tile t).mx.queue = l ∧ (u.tile t).mx.rpc = m.rpc ∧
          (u.tile t).mx.msat = m.msat + w64 (lget a.cnt 0 0) ∧ (u.tile t).mx.munf = m.munf + w64 (lget a.cnt 1 0) ∧
          (u.tile t).mx.movf = m.movf + w64 (lget a.cnt 2 0) ∧ (u.tile t).mx.mcan = m.mcan + w64 (lget a.cnt 3 0) ∧
          ∃ r, (u.tile t).mx.run = some r ∧ (if mxBank i.blk = 0 then r.bank0 else r.bank1) = a.bank ∧ r.active = m.active ∧
            r.count = mxCount a.cnt ∧ r.cause = none ∧ fld r.status 48 8 = 0 ∧ fld r.status 45 3 = q.tier ∧ fld r.status 40 5 = 1)) ∧
    -- completion
    (∀ r, m.run = some r → r.waiting = false → mxBroken x r = false → r.cause = none → r.mdata = false →
      let s0 := s.modTile t fun y =>
        { y with mx := { y.mx with run := none, active := r.active, shadow := r.shadow, bank0 := r.bank0, bank1 := r.bank1 } }
      (4 ≤ r.ins.kind → exec (.matrixComplete t) s = .next s0) ∧
      (r.ins.kind ≤ 1 → ∀ s1 s2, lget r.ins.blk 5 0 ≠ 0 →
        writeHome s0 (tileOf s0 t (lget r.ins.blk 5 0)) (fld (lget r.ins.blk 5 0) 0 44) (wBytes r.count) aWrite = .ok s1 →
        writeHome s1 (tileOf s1 t (lget r.ins.blk 4 0 + 8)) (fld (lget r.ins.blk 4 0 + 8) 0 44) (wBytes r.status) aWrite = .ok s2 →
        exec (.matrixComplete t) s = .next (s2.send t (tileOf s1 t (lget r.ins.blk 4 0)) 4
          (.incrFor ⟨t, r.ins.c, r.ins.tid, r.ins.pc, r.ins.iw, w64 (fld r.status 48 8), false⟩ (lget r.ins.blk 4 0) 1)))) ∧
    (∀ r, m.run = some r → r.waiting = true → exec (.matrixComplete t) s = .next s) ∧
    -- MRED's packets
    (∀ r, m.run = some r → r.waiting = true → r.ins.kind = 2 → r.asked = false →
      let root := x.at (fld (lget r.ins.blk 1 0) 8 7) (fld (lget r.ins.blk 1 0) 0 6)
      root ≠ t → hasCredit s t (mredKey root) = true → exec (.matrixStart t []) s =
        .next ((useCredit (s.modTile t fun y => { y with mx := { y.mx with run := some { r with asked := true } } }) t (mredKey root)).send t root 6
          (.mred t r.ins.no (mredTag r.ins.blk) (mredRank r.ins.blk) (mredS r.ins.blk) (mredRow0 r.ins.blk) (mredN r.ins.blk) none))) ∧
    (∀ u no tag rank k row0 nr, deliverable s n = some p → p.bad = [] → p.body = .mred u no tag rank k row0 nr none → (s.tile p.dst).mx.run = none →
      (s.tile p.dst).mx.mredSeen = [] → (s.tile p.dst).mx.mredOwn = [] →
      exec (.mredContribution n) s = .next ((s.dropPkt n).modTile p.dst fun y => { y with mx := { y.mx with
        mredSeen := [(16 * u + tag, 1)]
        arrivals := y.mx.arrivals ++ [{ tile := u, no := no, tag := tag, set := 1, rank := rank, s := k, row0 := row0, nr := nr, st := 0, cells := [] }] } })) ∧
    (∀ u no tag rank k row0 nr cells, deliverable s n = some p → p.bad = [] → p.body = .mred u no tag rank k row0 nr (some cells) →
      (s.tile p.dst).mx.run = none → (∃ a ∈ (s.tile p.dst).mx.arrivals, a.tile = u ∧ a.no = no ∧ a.st = 1) →
      exec (.mredContribution n) s = .next ((s.dropPkt n).modTile p.dst fun y => { y with mx := { y.mx with
        arrivals := y.mx.arrivals.map fun a => if a.tile = u ∧ a.no = no then { a with st := 2, cells := cells } else a } })) ∧
    (∀ no ans r, deliverable s n = some p → p.body = .mredRe no ans → (s.tile p.dst).mx.run = some r → r.ins.no = no → r.waiting = true → r.ins.kind = 2 →
      let ends (r : MxRun) : State := (s.dropPkt n).modTile p.dst fun y => { y with mx := { y.mx with run := some r } }
      (ans = .granted → exec (.mredContribution n) s = .next ((s.dropPkt n).send p.dst p.src 6
        (.mred p.dst no (mredTag r.ins.blk) (mredRank r.ins.blk) (mredS r.ins.blk) (mredRow0 r.ins.blk) (mredN r.ins.blk)
          (some (mredCells (s.tile p.dst).mx r.ins.blk))))) ∧
      (ans = .consumed → exec (.mredContribution n) s = .next (ends { r with waiting := false })) ∧
      (ans = .refused → exec (.mredContribution n) s =
        .next (ends { r with waiting := false, status := mxStatus 2 (mxCode .mismatch) 0 0 0 false false false 0 false, cause := some { cause := .mismatch } })))

/-- R295 to R298: one K-block enters a cell, and a chain closes with its exact sum when the moduli can hold it; that E = 0
beside POISON leaves the cell as it was is the model's reading (log 19). -/
def Obligations.MatrixArithmetic : Prop :=
  ∀ (t lim : Nat) (m : MCell) (a b : MUnit),
    (m.len ≠ 0 → m.no ∉ m.hits → 2 * m.sum.natAbs < tierM t →
      (closeChain t m).cell = a64Arrive m.cell m.sum ((m.es : Int) - 254 - 2 * tierF t) ∧ (closeChain t m).len = 0 ∧
      (closeChain t m).ovf = m.ovf ∧ (closeChain t m).derr = m.derr ∧ (closeChain t m).no = m.no + 1) ∧
    (m.len = 1 → m.no ∈ m.hits → (closeChain t m).derr = true ∧ (closeChain t m).cell = m.cell) ∧
    (1 < m.len → m.no ∈ m.hits → (closeChain t m).ovd = true ∧ (closeChain t m).ovf = m.ovf + 1 ∧ (closeChain t m).cell = m.cell) ∧
    (m.cell.1 ≠ a64Pois → a.e ≠ 0 → b.e ≠ 0 → (a.pois = true ∨ b.pois = true) → (blockIn t lim m a b).cell = (a64Pois, 0)) ∧
    (a.e = 0 ∨ b.e = 0 → blockIn t lim m a b = m) ∧
    (m.cell.1 ≠ a64Pois → a.e ≠ 0 → b.e ≠ 0 → a.pois = false → b.pois = false → m.es = a.e + b.e → m.len + 1 ≠ lim →
      blockIn t lim m a b = { m with len := m.len + 1, sum := m.sum + ((a.sigs.zip b.sigs).map fun p => p.1 * p.2).sum })

/-- R320, R326, R329, R333 to R340: the bank operators on a tuber context: what each begins, each access, and its result. -/
def Obligations.BankOperators : Prop :=
  (∀ (s : State) (a b c d : G) (q : V) (m : MemB) (ne : Bool),
    let t := s.cur.t
    let u := s.me.tub
    let n := (rdG s.th c).toNat
    let x := rdG s.th a
    let ok (l : List (Word × Nat × Bool)) : Prop := rangesOk s t s.cur.c l = .ok ()
    let done (s : State) (f : Tub → Tub) : State := bankRetire (s.modMe fun y => { y with tub := f y.tub })
    -- an operator begins, goes on from its progress, or, with nothing to do, is done
    let starts (i : Instr) (p : OpProg) (none_ : Thread → Thread) : Prop :=
      (u.prog = none → p.n ≠ 0 → exec i s = .next (beginOp s p)) ∧
      (u.prog = none → p.n = 0 → exec i s = .next (bankRetire (s.modTh none_))) ∧
      (∀ r, u.prog = some r → r.op = p.op → r.pc = s.th.pc → exec i s = .next (beginOp s r)) ∧
      (∀ r, u.prog = some r → (r.op ≠ p.op ∨ r.pc ≠ s.th.pc) → exec i s = .next (beginOp s p))
    (s.me.st = .running → s.me.stepping = false →
      ((bankRetire s).ctx s.cur.t s.cur.c).st = .waiting ∧ ((bankRetire s).ctx s.cur.t s.cur.c).wait = .bank) ∧
    -- the check of one range
    (∀ v bytes align wr, (bytes = 0 → rangeOk s t s.cur.c v bytes align wr = .ok ()) ∧
      (bytes ≠ 0 → v.toNat % align ≠ 0 → rangeOk s t s.cur.c v bytes align wr = .error { cause := .address, addr := v }) ∧
      (bytes ≠ 0 → bankRange s t v bytes align = true → ∀ j, tubJob s t s.cur.c = some j →
        rangeOk s t s.cur.c v bytes align wr =
          if (if wr then j.wr else j.wr ++ j.rd).any (fun g => decide (g.base.toNat ≤ v.toNat) && decide (v.toNat + bytes ≤ g.base.toNat + g.len))
          then .ok () else .error { cause := .footprint, addr := v })) ∧
    -- the scan, the filter, the list
    (rangeOk s t s.cur.c x (64 * (rdG s.th b).toNat) 64 false = .ok () → (rdG s.th b).toNat < 2 ^ 32 →
      exec (.bscan a b d) s = .next (done s fun u =>
        { u with so := true, sbase := x, nrow := (rdG s.th b).toNat, idb := (rdG s.th d).setWidth 32, fa := false })) ∧
    (2 ^ 32 ≤ (rdG s.th b).toNat → exec (.bscan a b d) s = .next (takeFault s { cause := .address, addr := rdG s.th b })) ∧
    (u.so = false → exec (.filt ne d a b) s = .next (takeFault s { cause := .noScan }) ∧ exec (.hamm d q) s = .next (takeFault s { cause := .noScan })) ∧
    (u.so = true → rangeOk s t s.cur.c x (4 * u.nrow) 4 false = .ok () →
      exec (.filt ne d a b) s = .next (done s fun u =>
        { u with fa := true, fne := ne, fbase := x, fmask := (rdG s.th b).setWidth 32, fval := (rdG s.th b).extractLsb' 32 32
                 flo := (rdG s.th d).setWidth 32, fhi := (rdG s.th d).extractLsb' 32 32 })) ∧
    (rangeOk s t s.cur.c (eaB s.th m) (8 * u.tcap) 8 true = .ok () →
      starts (.tkrd d m) ⟨0, 11, eaB s.th m, 0, 0, 0, u.tcap, 0, [], .g d.val .u64, 0⟩ fun th => wrG th d 0) ∧
    (u.so = true → rangeOk s t s.cur.c u.sbase (64 * u.nrow) 64 false = .ok () →
      rangeOk s t s.cur.c u.fbase (if u.fa then 4 * u.nrow else 0) 4 false = .ok () →
      starts (.hamm d q) ⟨0, 10, 0, 0, 0, 0, u.nrow, 0,
        [leNat (vBytes (if s.th.vlive.getLsbD q.val then rdV s.th q else Vector.replicate 16 0))], .g d.val .u64, 0⟩ fun th => wrG th d 0) ∧
    -- operators on ranges
    (2 ^ 32 ≤ n → exec (.bdot d a b c) s = .next (takeFault s { cause := .address, addr := rdG s.th c }) ∧
      exec (.bfill d b c) s = .next (takeFault s { cause := .address, addr := rdG s.th c })) ∧
    (n < 2 ^ 32 →
      (ok [(x, 4 * n, false), (rdG s.th b, 4 * n, false)] →
        starts (.bdot d a b c) ⟨0, 5, x, rdG s.th b, 0, 0, n, 0, [], .g d.val .u64, 0⟩ fun th => wrG th d 0) ∧
      (ok [(x, 4 * n, false), (rdG s.th b, 4 * n, false), (rdG s.th d, 4 * n, true)] →
        starts (.badd d a b c) ⟨0, 6, x, rdG s.th b, rdG s.th d, 0, n, 0, [], .none, 0⟩ id) ∧
      (ok [(x, 4 * n, false), (rdG s.th d, 4 * n, true)] →
        starts (.baxpy d a b c) ⟨0, 7, x, rdG s.th d, 0, ((rdG s.th b).setWidth 32).toNat, n, 0, [], .none, 0⟩ id) ∧
      (ok [(rdG s.th d, 4 * n, true)] →
        starts (.bfill d b c) ⟨0, 8, 0, 0, rdG s.th d, ((rdG s.th b).setWidth 32).toNat, n, 0, [], .none, 0⟩ id) ∧
      (ok [(x, 4 * n, false), (rdG s.th d, 4 * n, true)] →
        starts (.bcopy d a c) ⟨0, 9, x, 0, rdG s.th d, 0, n, 0, [], .none, 0⟩ id))) ∧
  -- one access of each
  ∀ (s s1 s2 : State) (t : Nat) (u : Tub) (p : OpProg) (v w : Nat),
    let at' (a : Word) (i : Nat) : Word := a + w64 (4 * i)
    let j := p.i - p.n
    (bankRead t 4 1 (at' p.x p.i) s = .ok (s1, [v]) →
      (p.op = 9 → p.i < p.n → opAccess s t u p = .ok (s1, u, { p with acc := p.acc ++ [v] })) ∧
      (bankRead t 4 1 (at' p.y p.i) s1 = .ok (s2, [w]) →
        (p.op = 5 → opAccess s t u p = .ok (s2, u, { p with acc := p.acc ++ [bankMul v w] })) ∧
        (p.op = 6 → p.i < p.n → opAccess s t u p = .ok (s2, u, { p with acc := p.acc ++ [bankSum v w] })) ∧
        (p.op = 7 → p.i < p.n → opAccess s t u p = .ok (s2, u, { p with acc := p.acc ++ [bankFma p.scal v w] })))) ∧
    (p.n ≤ p.i →
      (p.op = 6 → overlaps p.z p.x p.n j = false → overlaps p.z p.y p.n j = false → bankPut s t 4 (at' p.z j) (lget p.acc j 0) = .ok s1 →
        opAccess s t u p = .ok (s1, u, p)) ∧
      (p.op = 7 → overlaps p.y p.x p.n j = false → bankPut s t 4 (at' p.y j) (lget p.acc j 0) = .ok s1 → opAccess s t u p = .ok (s1, u, p)) ∧
      (p.op = 9 → bankPut s t 4 (at' p.z j) (lget p.acc j 0) = .ok s1 → opAccess s t u p = .ok (s1, u, p)) ∧
      -- an element that shares bytes with another index of a source: some value (R340)
      (p.op = 6 → overlaps p.z p.x p.n j = true ∨ overlaps p.z p.y p.n j = true → ∀ r, opAccess s t u p = .ok (s1, u, r) →
        r = p ∧ ∃ k, k < 2 ^ 32 ∧ bankPut { s with fresh := s.fresh + 1 } t 4 (at' p.z j) k = .ok s1)) ∧
    (p.op = 8 → bankPut s t 4 (at' p.z p.i) p.scal = .ok s1 → opAccess s t u p = .ok (s1, u, p)) ∧
    (p.op = 11 → bankPut s t 8 (p.x + w64 (8 * p.i)) (match u.tlist[p.i]? with
        | some e => (e.2.setWidth 64 <<< 32 ||| e.1.setWidth 64 : Word).toNat
        | none => 0xFFFFFFFF0000FFFF) = .ok s1 → opAccess s t u p = .ok (s1, u, p)) ∧
    (p.op = 10 → hammRow t u (lget p.acc 0 0) p.i s = .ok (s1, none) → opAccess s t u p = .ok (s1, u, p)) ∧
    (p.op = 10 → hammRow t u (lget p.acc 0 0) p.i s = .ok (s1, some v) →
      opAccess s t u p = .ok (s1, topInsert u (BitVec.ofNat 16 v, u.idb + BitVec.ofNat 32 p.i), { p with scal := p.scal + 1 })) ∧
    (∀ i y l, u.fa = false → bankRead t 16 4 (u.sbase + w64 (64 * i)) s = .ok (s1, l) →
      hammRow t u y i s = .ok (s1, some ((List.range 512).countP fun j =>
        ((lget l 0 0 + lget l 1 0 * 2 ^ 128 + lget l 2 0 * 2 ^ 256 + lget l 3 0 * 2 ^ 384) ^^^ y).testBit j))) ∧
    -- the rows that an armed filter passes (R335)
    (∀ i y l s0 (a : BitVec 32), u.fa = true → bankRead t 4 1 (u.fbase + w64 (4 * i)) s = .ok (s0, [a.toNat]) →
      let pass : Prop := (if u.fne then a &&& u.fmask ≠ u.fval else a &&& u.fmask = u.fval) ∧ u.flo.toNat ≤ a.toNat ∧ a.toNat ≤ u.fhi.toNat
      (¬ pass → hammRow t u y i s = .ok (s0, none)) ∧
      (pass → bankRead t 16 4 (u.sbase + w64 (64 * i)) s0 = .ok (s1, l) → hammRow t u y i s = .ok (s1, some ((List.range 512).countP fun j =>
        ((lget l 0 0 + lget l 1 0 * 2 ^ 128 + lget l 2 0 * 2 ^ 256 + lget l 3 0 * 2 ^ 384) ^^^ y).testBit j)))) ∧
    -- how many accesses, and the result
    p.total = (if p.op = 0 ∨ p.op = 1 then 1 else if p.op = 6 ∨ p.op = 7 ∨ p.op = 9 then 2 * p.n else p.n) ∧
    opResult u p = (if p.op = 5 then w64 (reduceTree bankSum 0 p.acc) else if p.op = 10 then w64 p.scal
      else if p.op = 11 then w64 u.tlist.length else w64 p.n)

/-- R336: TOPK.init, TOPK, and the list that insertions leave, in rising order whatever theirs. -/
def Obligations.TopkList : Prop :=
  (∀ (s : State) (a b : G) (k : BitVec 32),
    exec (.topkInit k) s = .next (bankRetire (s.modMe fun y => { y with tub := { y.tub with tcap := k.toNat, tlist := [], spare := [] } })) ∧
    exec (.topk a b) s = .next (bankRetire (s.modMe fun y =>
      { y with tub := topInsert y.tub ((rdG s.th a).setWidth 16, (rdG s.th b).setWidth 32) }))) ∧
  ∀ (u : Tub) (e : BitVec 16 × BitVec 32),
    let key (e : BitVec 16 × BitVec 32) : Nat := e.1.toNat * 2 ^ 32 + e.2.toNat
    u.tlist.Pairwise (fun a b => key a ≤ key b) → u.tlist.length ≤ u.tcap →
    -- room, and a full list
    (u.tlist.length < u.tcap → ∃ l m, u.tlist = l ++ m ∧ topInsert u e = { u with tlist := l ++ e :: m } ∧
      (∀ x ∈ l, key x ≤ key e) ∧ ∀ x ∈ m, key e < key x) ∧
    (∀ l z, u.tlist = l ++ [z] → u.tlist.length = u.tcap →
      (key e < key z → ∃ m n, l = m ++ n ∧ topInsert u e = { u with tlist := m ++ e :: n } ∧
        (∀ x ∈ m, key x ≤ key e) ∧ ∀ x ∈ n, key e < key x) ∧
      (key z ≤ key e → topInsert u e = u)) ∧
    (u.tcap = 0 → topInsert u e = u) ∧
    -- any insertions
    (∀ l m : List (BitVec 16 × BitVec 32), l.Perm m →
      (l.foldl topInsert u).tlist.Pairwise (fun a b => key a ≤ key b) ∧ l.foldl topInsert u = m.foldl topInsert u)

/-- R287, R320, R324 to R332: tuber contexts filled, pre-empted, saved and ready again; that a save takes the lowest free
slot is the model's choice (log 11), that a held tile's frozen thread is saved frozen log 63's reading. -/
def Obligations.TuberEvents : Prop :=
  ∀ (s : State) (t c n : Nat) (j : Job) (p : Packet),
    let x := s.tile t
    (freeTuber x = none → exec (.tuberContextFill t) s = .next s) ∧
    (freeTuber x = some c → x.saved = [] → x.jobs = [] → exec (.tuberContextFill t) s = .next s) ∧
    (freeTuber x = some c → x.saved = [] → x.jobs = [j] → j.started = true → j.finished = false → j.kind = 3 → j.pri < 4 → j.launch = none →
      j.next < fld (lget j.prm 1 0) 0 16 →
      ∃ u : State, exec (.tuberContextFill t) s = .next u ∧ (u.ctx t c).st = .ready ∧ (u.ctx t c).th.pc = lget j.prm 0 0 ∧
        rdGn (u.ctx t c).th 1 = w64 j.next ∧ (∀ i, i < 5 → rdGn (u.ctx t c).th (2 + i) = lget j.prm (2 + i) 0) ∧
        (u.ctx t c).th.tid = BitVec.ofNat 32 (x.rank % 2 ^ 13 * 2 ^ 19 + x.created % 2 ^ 19) ∧ (u.ctx t c).th.tjob = some (t, j.order) ∧
        (u.ctx t c).tub = { Tub.zero with jent := j.ent } ∧ (u.tile t).jobs = [{ j with next := j.next + 1 }] ∧
        (u.tile t).created = x.created + 1 ∧ u.mem = s.mem) ∧
    (∀ sv, freeTuber x = some c → x.saved = [sv] → x.jobs = [] → sv.pri < 4 → sv.held = false → sv.frozen = false → sv.tub.isNcmd = false →
      imageKept s t sv = true →
      ∃ u : State, exec (.tuberContextFill t) s = .next u ∧ (u.ctx t c).st = .ready ∧ (u.ctx t c).th = sv.th ∧
        (u.ctx t c).tub = { sv.tub with heldSlot := none, preempt := false, prog := sv.tub.prog.map fun p => { p with asked := x.tcyc } } ∧
        (u.tile t).saved = []) ∧
    -- pre-emption and saving
    (preemptNext s t [32, 33, 34, 35, 36, 37, 38, 39] = some c → freeTuber x = none → (∀ d, (s.ctx t d).st ≠ .saving) →
      0 < waitingAbove s t (tubPri s t c).1 → (∀ p, (s.ctx t c).tub.prog = some p → 5 ≤ p.op) →
      exec (.tuberPreempt t c) s = .next (s.modCtx t c fun y =>
        { y with st := .saving, wait := .none, preh := false, tub := { y.tub with preempt := false } })) ∧
    (waitingAbove s t (tubPri s t c).1 = 0 → exec (.tuberPreempt t c) s = .next s) ∧
    ((s.ctx t c).st = .saving → (s.ctx t c).tub.heldSlot = none → (s.ctx t c).tub.preempt = false → x.saved = [] → Memory.wf s.mem →
      ∃ u : State, exec (.tuberSave t c) s = .next u ∧ u.ctx t c = Ctx.free ∧ (u.tile t).saveSeq = x.saveSeq + 1 ∧
        (u.tile t).saved = [{ held := false, slot := 0, seq := x.saveSeq, pri := (tubPri s t c).1, th := podLive (s.ctx t c).th
                              tub := (s.ctx t c).tub, tb0 := (s.ctx t c).tb0, tb1 := (s.ctx t c).tb1, frozen := (s.ctx t c).preh }] ∧
        physGet u t (0x3F5D8000 + 2040) 8 = wBytes (w64 (2 ^ 63 + (tubPri s t c).1 % 4 * 2 ^ 32 + x.saveSeq.toNat))) ∧
    ((s.ctx t c).st ≠ .saving → exec (.tuberSave t c) s = .next s) ∧
    -- the accesses of a context that waits: after the last it is ready at its next word
    ((s.ctx t c).st = .waiting → (s.ctx t c).wait = .bank →
      ((s.ctx t c).tub.prog = none → exec (.bankAccessComplete t c) s = .next (s.modCtx t c fun y => { y with st := .ready, wait := .none })) ∧
      (∀ q s1 u q1, (s.ctx t c).tub.prog = some q → q.i < q.total → opAccess s t (s.ctx t c).tub q = .ok (s1, u, q1) →
        let more : State := s1.modCtx t c fun y => { y with tub := { u with prog := some { q1 with i := q1.i + 1, asked := (s1.tile t).tcyc } } }
        let last : State := retireNext (s1.modCtx t c fun y => { y with th := putDest q1.dest [] (opBytes u q1) y.th, tub := { u with prog := none } }) t c
        (q1.i + 1 < q1.total → exec (.bankAccessComplete t c) s = .next more ∧
          (q.asked + 512 ≤ x.tcyc → exec (.agedRequest t c) s = .next more)) ∧
        (q1.total ≤ q1.i + 1 → u.isNcmd = false → exec (.bankAccessComplete t c) s = .next last ∧
          (q.asked + 512 ≤ x.tcyc → exec (.agedRequest t c) s = .next last)) ∧
        (q1.total ≤ q1.i + 1 → u.isNcmd = true → tubJob more t c = some j →
          ∃ v : State, exec (.bankAccessComplete t c) s = .next v ∧ v.ctx t c = Ctx.free ∧
            ∃ r, v.net = s1.net ++ [⟨t, t, 4, .ncmdRe r (opResult u q1) none, []⟩] ∧ r.id = j.req ∧ r.c = j.c)) ∧
      (∀ q tr, (s.ctx t c).tub.prog = some q → q.i < q.total → opAccess s t (s.ctx t c).tub q = .error tr →
        exec (.bankAccessComplete t c) s = .next (freeze s t c tr (s.ctx t c).th.pc (s.ctx t c).iw)) ∧
      (∀ q, (s.ctx t c).tub.prog = some q → x.tcyc < q.asked + 512 → exec (.agedRequest t c) s = .next s)) ∧
    -- an operator's reply
    (∀ (r : Req) (v : Word) (e : Pend) (d : Nat), deliverable s n = some p → p.body = .ncmdRe r v none → stillThere s r = true → (s.ctx r.t r.c).st = .ready →
      (s.ctx r.t r.c).relocating = none → (s.ctx r.t r.c).pend = [{ e with dest := .g d .u64, subs := [(r.id, [])], bad := none }] →
      exec (.ncmdReply n) s = .next (((s.dropPkt n).modTile p.dst fun y => { y with jobs := y.jobs.filter fun k => !(k.kind == 4 && k.req == r.id) }).modCtx
        r.t r.c fun y => { y with pend := [], th := wrGn y.th d v }))

/-- R251, R252, R254, R255: vector arithmetic, logic and shifts on integer elements. -/
def Obligations.VectorIntegerResults : Prop :=
  ∀ (s : State) (m : VMod) (ty : Ty) (d a : V) (b : VSrc),
    let w := elW ty
    let D (i j : Nat) := elOf w (lane s.th.v[d] i) j
    let A (i j : Nat) := elOf w (lane s.th.v[a] i) j
    let B (i j : Nat) := elOf w (vsrcLane s.th b i) j
    let lo : Int := -(2 ^ (w - 1))
    let hi : Int := 2 ^ (w - 1) - 1
    let gives (i : Instr) (f : Nat → Nat → BitVec w) : Prop := vecDone s i d m.k m.z w fun l j => (f l j, 0)
    (ty.isVecI = true →
      (m.sat = false →
        gives (.vadd m ty d a b) (fun l j => A l j + B l j) ∧ gives (.vsub m ty d a b) (fun l j => A l j - B l j) ∧
        gives (.vmul m ty d a b) (fun l j => A l j * B l j) ∧ gives (.vfma m ty d a b) (fun l j => A l j * B l j + D l j) ∧
        gives (.vfms m ty d a b) (fun l j => A l j * B l j - D l j) ∧
        gives (.vshl m ty d a b) (fun l j => A l j <<< ((B l j).toNat % w)) ∧ gives (.vshr m ty d a b) (fun l j => A l j >>> ((B l j).toNat % w)) ∧
        gives (.vsra m ty d a b) (fun l j => (A l j).sshiftRight ((B l j).toNat % w)))) ∧
    (ty.isVecS = true →
      (m.sat = true →
        gives (.vadd m ty d a b) (fun l j => BitVec.ofInt w (min (max ((A l j).toInt + (B l j).toInt) lo) hi)) ∧
        gives (.vsub m ty d a b) (fun l j => BitVec.ofInt w (min (max ((A l j).toInt - (B l j).toInt) lo) hi)) ∧
        gives (.vabs m ty d a) (fun l j => if A l j = BitVec.intMin w then ~~~A l j else if (A l j).msb then -A l j else A l j) ∧
        gives (.vneg m ty d a) (fun l j => if A l j = BitVec.intMin w then ~~~A l j else -A l j)) ∧
      (m.sat = false →
        gives (.vabs m ty d a) (fun l j => if (A l j).msb then -A l j else A l j) ∧ gives (.vneg m ty d a) (fun l j => -A l j)) ∧
      gives (.vmin m ty d a b) (fun l j => if (B l j).slt (A l j) then B l j else A l j) ∧
      gives (.vmax m ty d a b) (fun l j => if (B l j).slt (A l j) then A l j else B l j)) ∧
    (ty = .u32 →
      (m.sat = true →
        gives (.vadd m ty d a b) (fun l j => BitVec.ofNat w (min ((A l j).toNat + (B l j).toNat) (2 ^ 32 - 1))) ∧
        gives (.vsub m ty d a b) (fun l j => BitVec.ofNat w ((A l j).toNat - (B l j).toNat))) ∧
      gives (.vmin m ty d a b) (fun l j => if (B l j).ult (A l j) then B l j else A l j) ∧
      gives (.vmax m ty d a b) (fun l j => if (B l j).ult (A l j) then A l j else B l j)) ∧
    (ty = .u32 ∨ ty = .i32 →
      vecDone s (.vpopc m ty d a) d m.k m.z 32 fun l _ => (BitVec.ofNat 32 ((List.range 32).countP fun n => (lane s.th.v[a] l).getLsbD n), 0)) ∧
    (ty.isVec = true →
      gives (.vand m ty d a b) (fun l j => A l j &&& B l j) ∧ gives (.vor m ty d a b) (fun l j => A l j ||| B l j) ∧
      gives (.vxor m ty d a b) (fun l j => A l j ^^^ B l j)) ∧
    (vecDone s (.vdot4 m .i8x4 d a b) d m.k m.z 32 fun l _ =>
      let p (n : Nat) : Int := (elOf 8 (lane s.th.v[a] l) n).toInt * (elOf 8 (vsrcLane s.th b l) n).toInt
      let x : Int := (lane s.th.v[d] l).toInt + (p 0 + p 1 + p 2 + p 3)
      (BitVec.ofInt 32 (if m.sat then min (max x (-(2 ^ 31))) (2 ^ 31 - 1) else x), 0))

/-- R253, R254, R256, R257: vector arithmetic on floating-point elements; what the estimates of finite operands are is
stated in RoundingModes (log 70). -/
def Obligations.VectorFloatResults : Prop :=
  ∀ (s : State) (m : VMod) (ty : Ty) (d a : V) (b : VSrc), ty.isVecF = true →
    let w := elW ty
    let f := tyFmt ty
    let rm := rmOf s.th.rm
    let D (i j : Nat) := fdec f (elOf w (lane s.th.v[d] i) j).toNat
    let A (i j : Nat) := fdec f (elOf w (lane s.th.v[a] i) j).toNat
    let B (i j : Nat) := fdec f (elOf w (vsrcLane s.th b i) j).toNat
    let bitsA (i j : Nat) := elOf w (lane s.th.v[a] i) j
    let gives (i : Instr) (g : Nat → Nat → Nat × BitVec 5) : Prop := vecDone s i d m.k m.z w fun l j => (BitVec.ofNat w (g l j).1, (g l j).2)
    gives (.vadd m ty d a b) (fun l j => faddV f rm (A l j) (B l j)) ∧
    gives (.vsub m ty d a b) (fun l j => faddV f rm (A l j) (B l j).neg) ∧
    gives (.vmul m ty d a b) (fun l j => fmulV f rm (A l j) (B l j)) ∧
    gives (.vfma m ty d a b) (fun l j => ffmaV f rm (A l j) (B l j) (D l j)) ∧
    gives (.vfms m ty d a b) (fun l j => ffmaV f rm (A l j) (B l j) (D l j).neg) ∧
    gives (.vmin m ty d a b) (fun l j => fminmax f false (bitsA l j).toNat (elOf w (vsrcLane s.th b l) j).toNat) ∧
    gives (.vmax m ty d a b) (fun l j => fminmax f true (bitsA l j).toNat (elOf w (vsrcLane s.th b l) j).toNat) ∧
    vecDone s (.vabs m ty d a) d m.k m.z w (fun l j => (bitsA l j &&& ~~~BitVec.intMin w, 0)) ∧
    vecDone s (.vneg m ty d a) d m.k m.z w (fun l j => (bitsA l j ^^^ BitVec.intMin w, 0)) ∧
    (ty = .f32 →
      gives (.vdiv m ty d a b) (fun l j => fdivV f rm (A l j) (B l j)) ∧ gives (.vsqrt m ty d a) (fun l j => fsqrtV f rm (A l j)) ∧
      gives (.vrcp m ty d a) (fun l j => frcp (A l j)) ∧ gives (.vrsq m ty d a) (fun l j => frsq (A l j)) ∧
      gives (.vexp2 m ty d a) (fun l j => fexp2 (A l j)) ∧ gives (.vlog2 m ty d a) (fun l j => flog2 (A l j))) ∧
    -- Table 12.3, with NaN operands
    (∀ (n : Bool) (e : Int) (sg : Bool),
      frcp (.fin n 0 e) = (f32F.inf n, fDZ) ∧ frsq (.fin n 0 e) = (f32F.inf n, fDZ) ∧ fexp2 (.fin n 0 e) = (0x3F800000, 0) ∧
      flog2 (.fin n 0 e) = (f32F.inf true, fDZ) ∧ frcp (.inf n) = (f32F.zero n, 0) ∧ frsq (.inf false) = (0, 0) ∧
      frsq (.inf true) = (f32F.nan, fNV) ∧ fexp2 (.inf false) = (f32F.inf false, 0) ∧ fexp2 (.inf true) = (0, 0) ∧
      flog2 (.inf false) = (f32F.inf false, 0) ∧ flog2 (.inf true) = (f32F.nan, fNV) ∧
      (frcp (.nan sg)).1 = f32F.nan ∧ (frsq (.nan sg)).1 = f32F.nan ∧ (fexp2 (.nan sg)).1 = f32F.nan ∧ (flog2 (.nan sg)).1 = f32F.nan) ∧
    (∀ (mant : Nat) (e : Int), mant ≠ 0 → frsq (.fin true mant e) = (f32F.nan, fNV) ∧ flog2 (.fin true mant e) = (f32F.nan, fNV) ∧
      ∀ n, frcp (.fin n mant e) = fdivV f32F .rne (.fin false 1 0) (.fin n mant e))

/-- R258, R259, R263 to R267: comparison, selection, permutation, lanes and masks. -/
def Obligations.VectorMovesAndMasks : Prop :=
  ∀ (s : State) (c : Cond) (ty : Ty) (k kd ka kb : K) (z : Bool) (d a v : V) (b : VSrc) (g gd : G) (n : BitVec 4) (x : BitVec 16),
    let A (i : Nat) := lane s.th.v[a] i
    let B (i : Nat) := vsrcLane s.th b i
    (ty = .u32 ∨ ty = .i32 → c ≠ .un → ∃ q : BitVec 16, exec (.vcmp c ty kd a b) s = .next (afterTh s fun th => wrK th kd q) ∧
      ∀ i, i < 16 → q.getLsbD i = (match c with
        | .eq => A i == B i
        | .ne => A i != B i
        | .lt => if ty = .u32 then (A i).ult (B i) else (A i).slt (B i)
        | .le => if ty = .u32 then (A i).ule (B i) else (A i).sle (B i)
        | .gt => if ty = .u32 then (B i).ult (A i) else (B i).slt (A i)
        | .ge => if ty = .u32 then (B i).ule (A i) else (B i).sle (A i)
        | .un => false)) ∧
    (∃ q : BitVec 16, exec (.vcmp c .f32 kd a b) s = .next (afterTh s fun th =>
        let t := wrK th kd q
        { t with fst := t.fst ||| (List.range 16).foldl (fun fl i => fl ||| (fcond c (fdec f32F (A i).toNat) (fdec f32F (B i).toNat)).2) 0 }) ∧
      ∀ i, i < 16 → q.getLsbD i = (fcond c (fdec f32F (A i).toNat) (fdec f32F (B i).toNat)).1) ∧
    (ty.isVec = true →
      (∃ th : Thread, exec (.vsel k ty d a b) s = .next (afterTh s fun _ => th) ∧ th = wrV s.th d th.v[d] ∧
        ∀ i, i < 16 → lane th.v[d] i = if (rdK s.th k).getLsbD i then A i else B i) ∧
      (vecDone s (.vperm ty k z d a v) d k z 32 fun l _ => (lane s.th.v[a] ((lane s.th.v[v] l).toNat % 16), 0)) ∧
      (vecDone s (.vbcast ty k z d (.g g)) d k z 32 fun _ _ => ((rdG s.th g).setWidth 32, 0)) ∧
      (vecDone s (.vbcast ty k z d (.v a n)) d k z 32 fun _ _ => (A n.toNat, 0)) ∧
      exec (.vext ty gd a n) s = .next (afterTh s fun th =>
        wrG th gd (if ty = .i32 then (A n.toNat).signExtend 64 else (A n.toNat).setWidth 64)) ∧
      (∃ th : Thread, exec (.vins ty d g n) s = .next (afterTh s fun _ => th) ∧ th = wrV s.th d th.v[d] ∧
        ∀ i, i < 16 → lane th.v[d] i = if i = n.toNat then (rdG s.th g).setWidth 32 else lane s.th.v[d] i)) ∧
    -- masks
    exec (.kand kd ka kb) s = .next (afterTh s fun th => wrK th kd (rdK s.th ka &&& rdK s.th kb)) ∧
    exec (.kor kd ka kb) s = .next (afterTh s fun th => wrK th kd (rdK s.th ka ||| rdK s.th kb)) ∧
    exec (.knot kd ka) s = .next (afterTh s fun th => wrK th kd (~~~rdK s.th ka)) ∧
    exec (.kmov (.kk kd ka)) s = .next (afterTh s fun th => wrK th kd (rdK s.th ka)) ∧
    exec (.kmov (.gk kd g)) s = .next (afterTh s fun th => wrK th kd ((rdG s.th g).setWidth 16)) ∧
    exec (.kmov (.kg gd ka)) s = .next (afterTh s fun th => wrG th gd ((rdK s.th ka).setWidth 64)) ∧
    exec (.kmov (.imm kd x)) s = .next (afterTh s fun th => wrK th kd x) ∧
    exec (.kpopc gd ka) s = .next (afterTh s fun th => wrG th gd (w64 ((List.range 16).countP fun i => (rdK s.th ka).getLsbD i)))

/-- R260 to R262, R264, R265: conversion, the graded forms, reduction and scan. -/
def Obligations.VectorConvertReduce : Prop :=
  ∀ (s : State) (rm : RSel) (k : K) (z : Bool) (d a : V) (g gd : G) (op : RedOp) (ex : Bool) (part : BitVec 2) (tier : BitVec 3),
    let on := (List.range 16).filter fun i => (rdK s.th k).getLsbD i
    let A (i : Nat) := lane s.th.v[a] i
    let r := rselMode s.th rm
    -- VCVT: equal widths, widening, narrowing
    (vecDone s (.vcvt rm k z .f32 .i32 0 d a) d k z 32 fun l _ =>
      let x := fcvtI f32F r (A l).toInt
      (BitVec.ofNat 32 x.1, x.2)) ∧
    (vecDone s (.vcvt rm k z .i32 .f32 0 d a) d k z 32 fun l _ =>
      let x := fcvtToI r (-(2 ^ 31)) (2 ^ 31 - 1) (fdec f32F (A l).toNat)
      (BitVec.ofInt 32 x.1, x.2)) ∧
    (vecDone s (.vcvt rm k z .f32 .h16x2 part d a) d k z 32 fun l _ =>
      let x := fcvtF f32F r (fdec h16F (elOf 16 (A l) part.toNat).toNat)
      (BitVec.ofNat 32 x.1, x.2)) ∧
    (vecDone s (.vcvt rm k z .i8x4 .i32 part d a) d k z 8 fun l j =>
      (if j = part.toNat then BitVec.ofInt 8 (min (max (A l).toInt (-128)) 127) else elOf 8 (lane s.th.v[d] l) j, 0)) ∧
    (∀ dt st, dt.isVec = true → st.isVec = true →
      let wd := elW dt
      let ws := elW st
      let conv (x : BitVec ws) : BitVec wd × BitVec 5 :=
        let i : Int := if st = .u32 then x.toNat else x.toInt
        let lo : Int := if dt = .u32 then 0 else -(2 ^ (wd - 1))
        let hi : Int := if dt = .u32 then 2 ^ 32 - 1 else 2 ^ (wd - 1) - 1
        let rounded (n : Bool) (mant : Nat) (e : Int) : BitVec wd × BitVec 5 :=
          let y := fround (tyFmt dt) r n mant e
          (BitVec.ofNat wd y.1, y.2)
        if st.isVecF then
          match fdec (tyFmt st) x.toNat with
          | .nan sg => if dt.isVecF then (BitVec.ofNat wd (tyFmt dt).nan, if sg then fNV else 0) else (0, fNV)
          | .inf n => if dt.isVecF then (BitVec.ofNat wd ((tyFmt dt).inf n), 0) else (BitVec.ofInt wd (if n then lo else hi), fNV)
          | .fin n mant e =>
            if dt.isVecF then rounded n mant e
            else
              let q := rquant r n mant e 0
              let v : Int := if n then -(q.1 : Int) else q.1
              if v < lo then (BitVec.ofInt wd lo, fNV) else if hi < v then (BitVec.ofInt wd hi, fNV)
              else (BitVec.ofInt wd v, if q.2 then fNX else 0)
        else if dt.isVecF then rounded (decide (i < 0)) i.natAbs 0
        else (BitVec.ofInt wd (min (max i lo) hi), 0)
      (ws = wd → vecDone s (.vcvt rm k z dt st 0 d a) d k z wd fun l j => conv (elOf ws (A l) j)) ∧
      (ws < 32 → wd = 32 → part.toNat * ws < 32 → vecDone s (.vcvt rm k z dt st part d a) d k z wd fun l _ => conv (elOf ws (A l) part.toNat)) ∧
      (wd < 32 → ws = 32 → part.toNat * wd < 32 → vecDone s (.vcvt rm k z dt st part d a) d k z wd fun l j =>
        if j = part.toNat then conv (elOf ws (A l) 0) else (elOf wd (lane s.th.v[d] l) j, 0))) ∧
    (∀ dt st, dt.isVec = true → st.isVec = true → ∃ th : Thread, exec (.vcvt rm k z dt st part d a) s = .next (afterTh s fun _ => th) ∧
      (∀ q : V, q ≠ d → th.v[q] = s.th.v[q]) ∧ th.g = s.th.g ∧ th.p = s.th.p ∧ th.k = s.th.k) ∧
    -- VQNT and VDQT
    (∀ ty sc, let pair := (s.th.v[a].toList ++ s.th.v[nextV a].toList)
      let els := qntEls ty pair
      let E := if ty = .f32 then (match sc with | some e => fld (rdG s.th e) 0 8 | none => derivedE els) else 127 + tierF tier.toNat
      let u := quantUnit tier.toNat E els
      exec (.vqnt ty d a tier sc) s = .next (afterTh s fun th => wrPair th d (u ++ List.replicate (128 - u.length) 0)) ∧ 8 ≤ u.length) ∧
    (exec (.vdqt d a tier) s = .next (afterTh s fun th =>
      let u := (s.th.v[a].toList ++ s.th.v[nextV a].toList).flatMap fun x => leBytes 4 x.toNat
      wrPair th d ((unitSigs tier.toNat u).flatMap fun x => leBytes 4 (dqtEl tier.toNat (unitE u) x).toNat))) ∧
    (∀ E (sig : Int), tier.toNat ≤ 4 → dqtEl tier.toNat 0 sig = 0 ∧ dqtEl tier.toNat 255 sig = 0x7FC00000 ∧
      (1 ≤ E → E ≤ 254 → dqtEl tier.toNat E (-(2 ^ (tierS tier.toNat - 1))) = 0x7FC00000) ∧
      (1 ≤ E → E ≤ 254 → sig.natAbs < 2 ^ (tierS tier.toNat - 1) →
        (fdec f32F (dqtEl tier.toNat E sig).toNat).rat = (sig : ℚ) * 2 ^ ((E : Int) - 127 - tierF tier.toNat))) ∧
    -- VRED
    (∀ ty, ty = .u32 ∨ ty = .i32 →
      let result (x : BitVec 32) : State := afterTh s fun th => wrG th gd (if ty = .i32 then x.signExtend 64 else x.setWidth 64)
      exec (.vred .sum ty k gd a) s = .next (result ((on.map A).foldl (· + ·) 0)) ∧
      exec (.vred .and ty k gd a) s = .next (result ((on.map A).foldl (· &&& ·) (BitVec.allOnes 32))) ∧
      exec (.vred .or ty k gd a) s = .next (result ((on.map A).foldl (· ||| ·) 0)) ∧
      exec (.vred .xor ty k gd a) s = .next (result ((on.map A).foldl (· ^^^ ·) 0)) ∧
      exec (.vred .min .u32 k gd a) s = .next (afterTh s fun th =>
        wrG th gd (((on.map A).foldl (fun x y => if y.ult x then y else x) (BitVec.allOnes 32)).setWidth 64)) ∧
      exec (.vred .max .i32 k gd a) s = .next (afterTh s fun th =>
        wrG th gd (((on.map A).foldl (fun x y => if x.slt y then y else x) (BitVec.intMin 32)).signExtend 64))) ∧
    (∀ i j, on = [i, j] →
      let x := faddV f32F .rne (fdec f32F (A i).toNat) (fdec f32F (A j).toNat)
      exec (.vred .sum .f32 k gd a) s = .next (afterTh s fun th =>
        let t := wrG th gd (w64 (x.1 % 2 ^ 32))
        { t with fst := t.fst ||| x.2 })) ∧
    (on = [] → exec (.vred .sum .f32 k gd a) s = .next (afterTh s fun th => wrG th gd 0) ∧
      exec (.vred .min .f32 k gd a) s = .next (afterTh s fun th => wrG th gd (w64 (f32F.inf false)))) ∧
    -- VSCAN
    (∀ ty, ty = .u32 ∨ ty = .i32 →
      (vecDone s (.vscan .sum ex ty k z d a) d k z 32 fun l _ =>
        (((on.filter fun j => if ex then decide (j < l) else decide (j ≤ l)).map A).foldl (· + ·) 0, 0)) ∧
      (vecDone s (.vscan .or ex ty k z d a) d k z 32 fun l _ =>
        (((on.filter fun j => if ex then decide (j < l) else decide (j ≤ l)).map A).foldl (· ||| ·) 0, 0)) ∧
      (vecDone s (.vscan .xor ex ty k z d a) d k z 32 fun l _ =>
        (((on.filter fun j => if ex then decide (j < l) else decide (j ≤ l)).map A).foldl (· ^^^ ·) 0, 0)) ∧
      (vecDone s (.vscan .and ex ty k z d a) d k z 32 fun l _ =>
        (((on.filter fun j => if ex then decide (j < l) else decide (j ≤ l)).map A).foldl (· &&& ·) (BitVec.allOnes 32), 0)) ∧
      (vecDone s (.vscan .min ex ty k z d a) d k z 32 fun l _ =>
        (((on.filter fun j => if ex then decide (j < l) else decide (j ≤ l)).map A).foldl
          (fun x y => if (if ty = .i32 then y.slt x else y.ult x) then y else x) (if ty = .i32 then BitVec.intMax 32 else BitVec.allOnes 32), 0)) ∧
      (vecDone s (.vscan .max ex ty k z d a) d k z 32 fun l _ =>
        (((on.filter fun j => if ex then decide (j < l) else decide (j ≤ l)).map A).foldl
          (fun x y => if (if ty = .i32 then x.slt y else x.ult y) then y else x) (if ty = .i32 then BitVec.intMin 32 else 0), 0))) ∧
    -- on binary32: the active lanes up to the lane, each entering what those before it give, with the flags of every combination
    (op = .sum ∨ op = .min ∨ op = .max → vecDone s (.vscan op ex .f32 k z d a) d k z 32 fun l _ =>
      let one (x : BitVec 32 × BitVec 5) (y : BitVec 32) : BitVec 32 × BitVec 5 :=
        let v := if op = .sum then faddV f32F .rne (fdec f32F x.1.toNat) (fdec f32F y.toNat) else fminmax f32F (op == .max) x.1.toNat y.toNat
        (BitVec.ofNat 32 v.1, x.2 ||| v.2)
      match on.filter fun j => if ex then decide (j < l) else decide (j ≤ l) with
      | [] => (if op = .sum then 0 else if op = .min then 0x7F800000 else 0xFF800000, 0)
      | j :: js => (js.map A).foldl one (A j, 0))

/-- R343 to R347, R353, R354: queues created, their packets taken (those of a GRAPH apart), stops and resets, promotion,
early fills; TX and TY of the KIND 2 report and that success has no mailbox reply are log 60's readings. -/
def Obligations.QueueEvents : Prop :=
  ∀ (s : State) (n q : Nat) (x : Queue) (p : Part) (k : Packet) (d : QDesc) (pid : Nat),
    -- the wake word
    (deliverable s n = some k → k.body = .wakeNotice q → s.queue q = some x → s.part x.pid = some p → x.stopped = true ∨ procUp s p x = false →
      exec (.wakeNotice n) s = .next (s.dropPkt n)) ∧
    (∀ s1 v, deliverable s n = some k → k.body = .wakeNotice q → s.queue q = some x → s.part x.pid = some p → x.stopped = false →
      procUp s p x = true → procWord (s.dropPkt n) p x.desc.wake = .ok (s1, v) →
      (v.toNat = x.w → exec (.wakeNotice n) s = .next s1) ∧
      (x.w < v.toNat → v.toNat ≤ x.r + 2 ^ x.logn → exec (.wakeNotice n) s = .next (s1.setQueue q { x with w := v.toNat })) ∧
      (v.toNat < x.w ∨ x.r + 2 ^ x.logn < v.toNat → s1.queue q = some x → s1.part x.pid = some p →
        ∃ u : State, exec (.wakeNotice n) s = .next u ∧ u.queue q = some { x with stopped := true } ∧
          HostOut.report 64 (reportWords 2 1 x.pid (u.pfSeq) (w64 x.r) 0 0 (fld x.desc.wake 44 7) (fld x.desc.wake 51 6)) none ∈ u.out)) ∧
    -- taking a packet
    (s.queue q = some x → s.part x.pid = some p →
      (x.stopped = true ∨ procUp s p x = false ∨ x.w ≤ x.r → exec (.packetTake q) s = .next s) ∧
      (x.stopped = false → procUp s p x = true → x.r < x.w → x.pkts = [] → ∀ s1 l, procRead s p (x.desc.ring + w64 (x.r % 2 ^ x.logn * 128)) 128 = .ok (s1, l) →
        let w := bytesWords 16 l
        (packetBad s1 p w = none → pkKind w ≠ 2 → ∀ s2, procWrite s1 p x.desc.ridx (wBytes (w64 (x.r + 1))) = .ok s2 →
          exec (.packetTake q) s = .next (s2.setQueue q { x with
            r := x.r + 1
            pkts := [{ num := x.r, ws := w, started := false, done := false, copy := none, nodes := [], graph := [], order := 0 }] })) ∧
        (∀ e, packetBad s1 p w = some e → s1.part x.pid = some p →
          ∃ u : State, exec (.packetTake q) s = .next u ∧ u.queue q = some { x with stopped := true, untaken := true })) ∧
      -- resets
      (x.stopped = false → exec (.queueResetRetry q) s = .next s ∧ exec (.queueResetSkip q) s = .next s) ∧
      (x.stopped = true →
        (∀ s1, procWrite (s.setQueue q { x with stopped := false, untaken := false, pkts := x.pkts.filter fun k => !k.done }) p
            x.desc.qsta (wBytes 0) = .ok s1 →
          exec (.queueResetRetry q) s = .next (readWake s1 q) ∧ (x.untaken = false → exec (.queueResetSkip q) s = .next (readWake s1 q))) ∧
        (x.untaken = true → ∀ s1 s2, procWrite (s.setQueue q { x with stopped := false, untaken := false, r := x.r + 1
                                                                      pkts := x.pkts.filter fun k => !k.done }) p x.desc.qsta (wBytes 0) = .ok s1 →
          procWrite s1 p x.desc.ridx (wBytes (w64 (x.r + 1))) = .ok s2 → exec (.queueResetSkip q) s = .next (readWake s2 q))) ∧
      -- promotion
      (∀ c, x.since = some c → queueReady s x = true →
        let f := s.field (fieldOf (wakeHome p x))
        let now := (s.tile (wakeHome p x)).lcyc
        (c + f.promoteInt ≤ now → exec (.promoteExpiry q) s = .next (s.setQueue q { x with eff := min 3 (x.eff + 1), since := some now })) ∧
        (now < c + f.promoteInt → exec (.promoteExpiry q) s = .next s)) ∧
      -- early fills behind a blocked packet
      (∀ b, nextPkt x = some b → (canStart s p x b = true ∨ procUp s p x = false ∨ x.w ≤ x.r → exec (.packetPrefetch q) s = .next s) ∧
        (canStart s p x b = false → procUp s p x = true → x.w = x.r + 1 → ∀ s1 l, procRead s p (x.desc.ring + w64 (x.r % 2 ^ x.logn * 128)) 128 = .ok (s1, l) →
          pkKind (bytesWords 16 l) ≠ 2 → exec (.packetPrefetch q) s = .next (prefillLaunch p (1 + q * 2 ^ 32 + x.r) s (bytesWords 16 l))))) ∧
    -- creation
    (s.part pid = some p →
      (queueCode s p d ≠ 0 → exec (.createQueue pid d) s = .next { s with out := s.out ++ [HostOut.mailbox (queueCode s p d)] }) ∧
      (queueCode s p d = 0 → ∃ (u : State) (q : Nat), exec (.createQueue pid d) s = .next u ∧
        u.queue q = some { pid := pid, desc := d, logn := fld d.cfg 4 4, cls := fld d.cfg 0 2, eff := fld d.cfg 0 2, since := none, w := 0, r := 0
                           pkts := [], stopped := false, untaken := false } ∧
        (d.wake, q) ∈ (u.tile (p.at (fld d.wake 44 7) (fld d.wake 51 6))).wakeTab ∧ u.out = s.out))

/-- R348, R352, R353, R356: packets start in their queue's turn. -/
def Obligations.PacketStarts : Prop :=
  ∀ (s : State) (q j : Nat) (x : Queue) (p : Part) (k : QPkt), s.queue q = some x → s.part x.pid = some p → p.pid = x.pid → x.pkts = [k] →
    k.started = false → k.num = j → chosenQueue s (fieldOf (wakeHome p x)) = some q →
    let w := k.ws
    let turn (l : List QPkt) : Queue := { x with pkts := l, eff := x.cls, since := none }
    -- a packet of another kind is not started by this event
    (pkKind w ≠ 5 → exec (.barrierPacket q j) s = .next s) ∧ (pkKind w ≠ 0 → exec (.launch q j) s = .next s) ∧
    (pkKind w = 5 → pkCnt w = 0 → ∃ u : State, exec (.barrierPacket q j) s = .next u ∧ u.queue q = some (turn []) ∧ u.mem = s.mem) ∧
    (pkKind w = 5 → pkCnt w ≠ 0 → fld (lget w 0 0) 32 32 ≠ 0 → ∀ s1, procIncr s p (pkCnt w) (fld (lget w 0 0) 32 32) = .ok s1 → s1.queue q = some x →
      ∃ u : State, exec (.barrierPacket q j) s = .next u ∧ u.queue q = some (turn []) ∧ u.mem = s1.mem) ∧
    (pkKind w = 4 → pkCnt w = 0 → ∀ s1, procIncr (s.setQueue q { x with pkts := [{ k with started := true }] }) p (lget w 2 0) (lget w 3 0).toNat = .ok s1 →
      s1.queue q = some { x with pkts := [{ k with started := true }] } → s1.part x.pid = some p →
      ∃ u : State, exec (.signal q j) s = .next u ∧ u.queue q = some (turn []) ∧ u.mem = s1.mem) ∧
    (pkKind w = 3 → pkCnt w = 0 → ∀ s1 v, procWord s p (lget w 2 0) = .ok (s1, v) → (lget w 3 0).toNat ≤ v.toNat → s1.queue q = some x →
      s1.part x.pid = some p → ∃ u : State, exec (.waitPacket q j) s = .next u ∧ u.queue q = some (turn []) ∧ u.mem = s1.mem) ∧
    (pkKind w = 1 → ∀ h off y, procHome s p (lget w 2 0) 128 aRead = .ok (h, off) → readCard s h false (lget w 2 0) (bit (lget w 3 0) 0) = .ok y →
      (s.tile h).jobs.length < 64 →
      ∃ (u : State) (z : Job), exec (.jobPacket q j) s = .next u ∧ u.queue q = some (turn [{ k with started := true }]) ∧
        (u.tile h).jobs = (s.tile h).jobs ++ [z] ∧ z.q = some (q, j, 0) ∧ z.kind = y.kind ∧ z.card = lget w 2 0 ∧ z.prm = y.prm) ∧
    (pkKind w = 2 → ∀ c s1 s2, freeCopy s p k = some c → copyNodes p k c (List.range (goNodes k.graph)) s = .ok s1 →
      applyPatches p k c (patches k.graph (patchCount w)) s1 = .ok s2 → s2.queue q = some x →
      ∃ u : State, exec (.graph q j) s = .next u ∧ u.mem = s2.mem ∧
        u.queue q = some (turn [{ k with started := true, copy := some c, nodes := List.replicate (goNodes k.graph) .waiting, order := s2.reqNo }])) ∧
    (pkKind w = 0 → (p.rectTiles (lpRect w)).Nodup → ∀ li s1, lowestFree (p.launches.map (·.1)) 0 64 = some li →
      procWrite s p (lget w 6 0) (wBytes (w64 (lpQuota w * (lpRect w).w * (lpRect w).h))) = .ok s1 → s1.part x.pid = some p → s1.queue q = some x →
      (∀ t ∈ p.rectTiles (lpRect w), (s1.tile t).pid = x.pid) →
      let l (holds : Bool) (begun : List Tile) : Launch :=
        { li := li, no := 64 * p.launchSeq + li, q := q, pkt := j, node := none, prio := lpPrio w, dom := fld (lget w 3 0) 40 2, quota := lpQuota w
          rect := lpRect w, pc := lget w 2 0, args := lget w 4 0, argsz := lpArgsz w, lockq := fld (lget w 5 0) 16 14
          seeds := (w.drop 7).take 6, lwa := lget w 6 0, holds := holds, victims := [], begun := begun }
      (lpPre w = false → ∃ (u : State) (y : Part), exec (.launch q j) s = .next u ∧ u.mem = s1.mem ∧
        u.queue q = some (turn [{ k with started := true }]) ∧
        (∀ t ∈ p.rectTiles (lpRect w), (u.tile t).pops = (s1.tile t).pops ++
            [{ li := li, made := 0, quota := lpQuota w, placed := emptyTile (s1.tile t) }] ∧ (u.tile t).depths = []) ∧
        u.part x.pid = some y ∧ y.launchSeq = p.launchSeq + 1 ∧ afind y.launches li = some (l false ((p.rectTiles (lpRect w)).foldl sadd []))) ∧
      -- a PRE launch with no launch of lower priority in its partition holds its rectangle against none
      (lpPre w = true → (∀ e ∈ p.launches, lpPrio w ≤ e.2.prio) → ∃ (u : State) (y : Part), exec (.launch q j) s = .next u ∧ u.mem = s1.mem ∧
        u.queue q = some (turn [{ k with started := true }]) ∧ (∀ t ∈ p.rectTiles (lpRect w), (u.tile t).pops = (s1.tile t).pops) ∧
        u.part x.pid = some y ∧ y.launchSeq = p.launchSeq + 1 ∧ afind y.launches li = some (l true [])))

/-- R348, R350, R356, R372, R373: nodes of a graph, held tiles and the end of a launch. -/
def Obligations.LaunchEvents : Prop :=
  ∀ (s : State) (q j t li : Nat) (x : Queue) (p : Part) (l : Launch),
    (∀ k nd, s.queue q = some x → s.part x.pid = some p → x.pkts = [k] → k.num = j → k.copy.isSome = true →
      (procUp s p x = false ∨ nodeReady s p k nd = false → exec (.graphNodeStart q j nd) s = .next s) ∧
      (procUp s p x = true → nodeReady s p k nd = true → pkKind (nodeWs k.graph nd) = 4 → pkCnt (nodeWs k.graph nd) = 0 → ∀ s1,
        let started : QPkt := { k with nodes := k.nodes.set nd .started }
        procIncr (s.setQueue q { x with pkts := [started] }) p (lget (nodeWs k.graph nd) 2 0) (lget (nodeWs k.graph nd) 3 0).toNat = .ok s1 →
        s1.queue q = some { x with pkts := [started] } → s1.part x.pid = some p → (∃ m ∈ (started.nodes.set nd .done), m ≠ .done) →
        ∃ u : State, exec (.graphNodeStart q j nd) s = .next u ∧ u.mem = s1.mem ∧
          u.queue q = some { x with pkts := [{ k with nodes := k.nodes.set nd .done }] })) ∧
    -- a held tile
    (launchOf s t li = some l → s.part (s.tile t).pid = some p → l.holds = true → l.rect.has (t % 128 - p.x0) (t / 128 - p.y0) = true →
      t ∉ l.begun → l.li = li → holder s p.pid (some l.no) t = none →
      (l.victims = [] → ∃ u : State, exec (.tileVacated t li) s = .next u ∧ u.mem = s.mem ∧ u.net = s.net ∧
        u.tile t = { s.tile t with pops := (s.tile t).pops ++
          [{ li := li, made := 0, quota := l.quota, placed := emptyTile (s.tile t) }], depths := [] } ∧
        (p.pid = (s.tile t).pid → ∃ y, u.part p.pid = some y ∧ afind y.launches li = some { l with begun := sadd l.begun t })) ∧
      (∀ c y v r, c < 32 → l.victims = [(v, r)] → (s.tile t).ctxs = [(c, y)] → y.st = .ready → y.th.launch = some v → y.gang = .none → y.wait = .none →
        y.outs ≠ [] → (s.tile t).panes = [] → (s.tile t).ports = [] → (s.tile t).comb = [] → (s.tile t).pops = [] → (s.tile t).arrSides = [] →
        (s.tile t).deque = [] → (s.tile t).spCount = 0 → (s.tile t).moving = [] →
        ∃ u : State, exec (.tileVacated t li) s = .next u ∧ (u.tile t).pops = [] ∧ (u.ctx t c).th = y.th ∧ (u.ctx t c).st = .packing ∧
          (u.ctx t c).mig = some ⟨relocMap p l v t, 3, 0, none, 0⟩)) ∧
    (launchOf s t li = some l → l.holds = false ∨ t ∈ l.begun ∨ (holder s (s.tile t).pid (some l.no) t).isSome = true →
      s.part (s.tile t).pid = some p → p.pid = (s.tile t).pid → exec (.tileVacated t li) s = .next s) ∧
    -- the end of a launch
    (∀ src dst no pid, s.net = [⟨src, dst, 7, .launchDone pid no, []⟩] → s.links = [] → no % 64 = li → s.part pid = some p → partUp s p = true →
      p.launchNo no = some l → l.li = li → l.node = none → p.pid = pid →
      (∀ y, s.queue l.q = some y → ∀ k ∈ y.pkts, pkCnt k.ws = 0) →
      ∃ u : State, exec (.launchEnd pid li) s = .next u ∧
        (∀ t ∈ p.tiles, (∀ e ∈ (u.tile t).pops, e.li ≠ li) ∧ (∀ e ∈ (u.tile t).locks, e.2.li ≠ some no) ∧ (∀ r ∈ (u.tile t).deque, r.lch ≠ li) ∧
          (u.tile t).ccache = []) ∧
        (∀ y, u.part pid = some y → afind y.launches li = none) ∧
        (∀ y, s.queue l.q = some y → u.queue l.q = some { y with pkts := y.pkts.filter fun k => k.num != l.pkt } ∨ u.queue l.q = some y)) ∧
    -- a notice of an earlier launch of the index has no effect but that it is gone
    (∀ src dst no pid, s.net = [⟨src, dst, 7, .launchDone pid no, []⟩] → s.links = [] → no % 64 = li → s.part pid = some p →
      (partUp s p = true → p.launchNo no = none → exec (.launchEnd pid li) s = .next (s.dropPkt 0)) ∧
      (partUp s p = false → exec (.launchEnd pid li) s = .next s)) ∧
    (∀ pid, s.net = [] → exec (.launchEnd pid li) s = .next s)

/-- R28, R53, R56, R138, R378 to R382, R386: partitions made and ended, their keys, segments and
groups. The opening of a sealed key is opaque (log 13), which half of it is the data key log 65's reading, the place of a
report in the ring log 91's, the report of a group entry log 83's. -/
def Obligations.PartitionEvents : Prop :=
  ∀ (s : State) (r : PartReq) (pid : Nat) (p : Part) (k : Fin 16) (t seg link : Nat) (l : List Byte) (g : PeerTarget) (i : Fin 64) (v : Word),
    -- creation
    (partOk s r = false → exec (.createPartition r) s = .next s) ∧
    (partOk s r = true → ∃ (u : State) (q : Part), exec (.createPartition r) s = .next u ∧ u.part r.pid = some q ∧ q.pid = r.pid ∧
      q.x0 = r.x0 ∧ q.y0 = r.y0 ∧ q.w = r.w ∧ q.h = r.h ∧ q.segKey = [] ∧ q.peers = [] ∧ q.launches = [] ∧ q.halted = false ∧
      (∀ a ∈ q.tiles,
        (u.tile a).prt = w64 (r.pid * 2 ^ 48 + r.w * 2 ^ 40 + r.h * 2 ^ 32 + r.x0 * 2 ^ 8 + r.y0) ∧
        (u.tile a).tco = w64 (a / 128 * 2 ^ 40 + a % 128 * 2 ^ 32 + (a % 128 - r.x0) * 2 ^ 8 + (a / 128 - r.y0)) ∧
        (u.tile a).npn = npWord u q.rect a .n ∧ (u.tile a).npe = npWord u q.rect a .e ∧ (u.tile a).nps = npWord u q.rect a .s ∧
        (u.tile a).npw = npWord u q.rect a .w ∧ (u.tile a).scope = scopeTable u q.rect a ∧
        (u.tile a).keys = [] ∧ (u.tile a).wins = [] ∧ (u.tile a).tlb = [] ∧
        (Memory.wf s.mem → (∀ o, heldBase ≤ o → o < heldBase + 0x4000 → cget u.mem (vKey a o) = 0) ∧
          (∀ o, saveBase ≤ o → o < 2 ^ 30 → cget u.mem (vKey a o) = 0))) ∧
      (∀ a, q.tiles.contains a = false → u.tile a = s.tile a)) ∧
    (s.part pid = some p → p.pid = pid →
      -- destruction
      (∃ u : State, exec (.destroyPartition pid) s = .next u ∧ u.part pid = none ∧ (∀ e ∈ u.queues, e.2.pid ≠ pid) ∧
        (∀ y ∈ u.net, ofPart s p y = false) ∧ (∀ a ∈ p.tiles, u.tile a = bareTile (s.tile a) a) ∧
        (∀ a, p.tiles.contains a = false → u.tile a = s.tile a) ∧
        (Memory.wf s.mem → (∀ a ∈ p.tiles, ∀ o, o < 2 ^ 30 → cget u.mem (vKey a o) = 0) ∧
          (∀ a ∈ p.tiles, ∀ o, o < 0x40000 → cget u.mem (pKey a o) = 0) ∧ (∀ c ∈ p.chans, ∀ o, o < 2 ^ 41 → cget u.mem (eKey c o) = 0))) ∧
      -- keys
      (k = 0 ∨ crownOf s = none → exec (.keyLoad pid k l) s = .next s) ∧
      (k ≠ 0 → (crownOf s).isSome = true → match Config.gcmOpen p.tkey l with
        | none => exec (.keyLoad pid k l) s = .next s
        | some m => if m.length ≠ 32 then exec (.keyLoad pid k l) s = .next s else
          let slot : KeySlot := .loaded (BitVec.ofNat 128 (leNat (m.take 16))) (BitVec.ofNat 128 (leNat (m.drop 16)))
          ∃ (u : State) (q : Part), exec (.keyLoad pid k l) s = .next u ∧ (∀ a ∈ p.tiles, (u.tile a).key k.val = slot) ∧ u.mem = s.mem ∧
            (∀ (a : Tile) (j : Nat), j ≠ k.val → (u.tile a).key j = (s.tile a).key j) ∧
            u.part pid = some q ∧ (∀ c ∈ p.chans, aget q.edgeKeys (16 * crescentOf c + k.val) .empty = slot)) ∧
      (k ≠ 0 → p.tiles.contains t = true → ∃ u : State, exec (.keyRevoke pid k t) s = .next u ∧ (u.tile t).key k.val = .revoked ∧
        (∀ e ∈ (u.tile t).dirty, e.2.key ≠ k.val) ∧ (∀ j, j ≠ k.val → (u.tile t).key j = (s.tile t).key j) ∧
        u.part pid = some { p with revoking := p.revoking ++ [(k.val, t)] } ∧ u.net = s.net) ∧
      (k ≠ 0 → p.chans = [] →
        ((∀ t ∈ p.tiles, (k.val, t) ∈ p.revoking) → (crownOf s).isSome = true → ∃ u : State, exec (.revocationDone pid k) s = .next u ∧ u.mem = s.mem ∧
          HostOut.report 64 (reportWords 5 0 pid (s.pfSeq + 1) 0 0 k.val 0 0) none ∈ u.out ∧
          HostOut.report pid (reportWords 5 0 pid (p.repSeq + 1) 0 0 k.val 0 0) (reportPlace p (p.repSeq + 1)) ∈ u.out ∧
          HostOut.msix pid (Config.msixVector pid 5 % 64) ∈ u.out ∧
          u.part pid = some { p with revoking := p.revoking.filter fun e => e.1 != k.val, repSeq := p.repSeq + 1 }) ∧
        (t ∈ p.tiles → (k.val, t) ∉ p.revoking → exec (.revocationDone pid k) s = .next s) ∧
        (crownOf s = none → exec (.revocationDone pid k) s = .next s)) ∧
      -- segments
      (seg < 2048 * p.chans.length →
        exec (.edgeSegmentKey pid seg k) s = .next (s.setPart { p with segKey := aput p.segKey seg k.val }) ∧
        (link ∈ p.links → exec (.peerSegment pid seg link g) s = .next (s.setPart { p with peers := aput p.peers seg (link, g) }))) ∧
      (2048 * p.chans.length ≤ seg → exec (.edgeSegmentKey pid seg k) s = .next s ∧ exec (.peerSegment pid seg link g) s = .next s)) ∧
    -- groups
    (groupBusy s t i.val = false → groupReserved v = false → ∃ u : State, exec (.groupTableWrite t i v) s = .next u ∧ u.mem = s.mem ∧
      (u.tile t).groups = aput (s.tile t).groups i.val v ∧ (∀ c ∈ (u.tile t).colls, c.grp ≠ i.val) ∧ (u.tile t).jobs = (s.tile t).jobs ∧
      (u.tile t).ctxs = (s.tile t).ctxs ∧ ∀ a, a ≠ t → u.tile a = s.tile a) ∧
    (groupBusy s t i.val = true → exec (.groupTableWrite t i v) s = .next s) ∧
    (groupBusy s t i.val = false → groupReserved v = true → exec (.groupTableWrite t i v) s = .next (refuseReport s t .sreg 0))

/-- R58, R93, R99, R101, R157, R194, R196, R268, R344, R353, R371, R385, R386, R388 to R390: images, parameters, requests of the
host, links, retirement, retention. The model's choices: KIND 9 with cause 0 (log 50), no retirement with jobs in the window
(log 58) and PID 63 in its report (log 92), no request of a stopped partition served (log 57), the KIND 1 report of a host's
refused request (log 66), frames (log 114), what a module reset keeps (log 115). -/
def Obligations.ModuleServices : Prop :=
  ∀ (s : State) (p : Part) (pid sc off t v link a b sector : Nat) (image l : List Byte) (places : List Nat) (arr : Arr) (f : Nat) (ad w : Word)
    (spares : SpareMap) (bands : List Nat) (tests : TestMap),
    (s.part pid = some p → p.pid = pid →
      let pl := imgWord image 0x30
      -- load images
      (∀ c, imageCause s p (fld pl 0 16) (fld pl 16 8) = some c →
        exec (.loadImage pid image places) s = .next (hostReport s true 9 (causeCode c) pid 0 0 0 0 0)) ∧
      (imageCause s p (fld pl 0 16) (fld pl 16 8) = none → imageOk image = false ∨ (imgSegs image places).all (segChecks p) = false →
        exec (.loadImage pid image places) s = .next (hostReport s true 9 0 pid 0 0 0 0 0)) ∧
      (imageCause s p (fld pl 0 16) (fld pl 16 8) = none → imageOk image = true → (imgSegs image places).all (segChecks p) = true →
        fld pl 0 16 ≠ 0 → let s0 := s.setPart { p with band := fld pl 0 16 }
        (imgSegs image places = [] → exec (.loadImage pid image places) s =
          .next { s0 with out := s.out ++ [HostOut.launches pid (imgLaunches image)] }) ∧
        (∀ g, imgSegs image places = [g] → bit g.attr 7 = false →
          (∀ u, placeSeg [g] g s0 (segTile p g) = some u →
            exec (.loadImage pid image places) s = .next { u with out := u.out ++ [HostOut.launches pid (imgLaunches image)] }) ∧
          (placeSeg [g] g s0 (segTile p g) = none → exec (.loadImage pid image places) s = .next (hostReport s true 9 0 pid 0 0 0 0 0)))) ∧
      -- an empty segment maps nothing; one of whole pages is stored with zeros behind its bytes, and then its leaves are put
      (∀ segs g t, bit (s.tile t).vtb 0 = true → (s.tile t).wins = [] →
        (g.mlen = 0 → ∃ u, placeSeg segs g s t = some u ∧ u.mem = cputs s.mem (vKey t g.pa) g.bytes) ∧
        (∀ u, placeSeg segs g s t = some u → (u.tile t).tlb = [] ∧ ∃ s1 s2 : State, putPages segs g t (g.mlen / segPage g) s1 = some s2 ∧ u.mem = s2.mem ∧
          s1.mem = cputs (czero s.mem (vKey t g.pa) g.mlen) (vKey t g.pa) g.bytes)) ∧
      -- requests of the host
      (partUp s p = false ∨ 512 < l.length → exec (.bar2Request sc pid off (some l) 0) s = .next s) ∧
      (partUp s p = false ∨ 4096 < l.length → exec (.bar2Request sc pid off none l.length) s = .next s) ∧
      (p.scs.contains sc = true → partUp s p = true → off + l.length ≤ 2 ^ 34 → 0 < l.length →
        let va := aget p.apb sc 0 + w64 off
        va.toNat % 16 + l.length ≤ 16 →
        (∀ h o s1 m, resolve s (p.at 0 0) false va aRead l.length = .ok (.tile h o) → readHome s h o l.length aRead = .ok (s1, m) →
          exec (.bar2Request sc pid off none l.length) s = .next { s1 with out := s1.out ++ [HostOut.read sc (some m)] }) ∧
        (∀ h o s1, resolve s (p.at 0 0) false va aWrite l.length = .ok (.tile h o) → writeHome s h o l aWrite = .ok s1 →
          exec (.bar2Request sc pid off (some l) 0) s = .next s1) ∧
        (∀ tr, resolve s (p.at 0 0) false va aWrite l.length = .error tr → s.queues = [] →
          ∃ u : State, exec (.bar2Request sc pid off (some l) 0) s = .next u ∧ u.mem = s.mem ∧
            HostOut.report 64 (reportWords 1 (causeCode tr.cause) pid (s.pfSeq + 1) 0 tr.addr 0 0 0) none ∈ u.out))) ∧
    -- a peer's wake store
    (s.parts = [(pid, p)] → partUp s p = false → exec (.peerWakeStore link ad w) s = .next s) ∧
    (s.parts = [(pid, p)] → link ∈ p.links → partUp s p = true → ∀ n, (ad, n) ∈ (s.tile (p.at (fld ad 44 7) (fld ad 51 6))).wakeTab → ∀ u,
      procWrite s p ad (wBytes w) = .ok u → exec (.peerWakeStore link ad w) s = .next u) ∧
    -- parameters
    (exec (.setParameter t .holdLimit v) s = .next (if 256 ≤ v ∧ v ≤ 2 ^ 20 then s.modTile t fun x => { x with holdLimit := v } else s)) ∧
    (exec (.setParameter t .bounceLim v) s = .next (if v ≤ 7 then s.modTile t fun x => { x with bounceLim := v } else s)) ∧
    (exec (.setParameter t .pinSpan v) s = .next (if 1 ≤ v ∧ v ≤ 65535 then s.modTile t fun x => { x with pinSpan := v } else s)) ∧
    (exec (.setParameter t .drainInt v) s = .next (if 64 ≤ v ∧ v ≤ 65536 then s.modTile t fun x => { x with drainInt := v } else s)) ∧
    (exec (.setParameter t .balInt v) s = .next (if 256 ≤ v ∧ v ≤ 2 ^ 20 then s.modTile t fun x => { x with balInt := v } else s)) ∧
    (exec (.setParameter t .promoteInt v) s =
      .next (if 1024 ≤ v ∧ v ≤ 2 ^ 24 then s.modField (fieldOf t) fun x => { x with promoteInt := v } else s)) ∧
    (exec (.setBudget v) s = .next (if 10000 ≤ v ∧ v ≤ 25000 then { s with budget := v } else s)) ∧
    -- retirement
    (∀ c, spareFor s t = some c → (s.tile t).jobs ≠ [] → exec (.retireTile t) s = .next s) ∧
    (∀ c, spareFor s t = some c → (s.tile t).jobs = [] →
      ∃ u : State, exec (.retireTile t) s = .next u ∧ (u.tile t).px = c ∧ (u.tile t).py = spareRow t ∧ u.mem = s.mem ∧
        u.retired = aput s.retired (blockOf t) (aget s.retired (blockOf t) [] ++ [c]) ∧ (u.tile t).ctxs = (s.tile t).ctxs ∧
        match s.parts.find? fun e => e.2.tiles.contains t with
        | some e => HostOut.report 64 (reportWords 4 0 e.2.pid (s.pfSeq + 1) 0 0 0 (s.tile t).lx (s.tile t).ly) none ∈ u.out
        | none => HostOut.report 64 (reportWords 4 0 63 (s.pfSeq + 1) 0 0 0 0 0) none ∈ u.out) ∧
    (spareFor s t = none →
      ∃ u : State, exec (.retireTile t) s = .next u ∧ blockOf t ∈ u.unavailable ∧ u.tiles = s.tiles ∧ u.mem = s.mem ∧
        ∀ e, (s.parts.find? fun e => e.2.tiles.contains t) = some e → u.part e.2.pid = some { e.2 with halted := true }) ∧
    -- links and routers
    (a < 16384 → b < 16384 → ∃ u : State, exec (.linkReset a b) s = .next u ∧ u.net = s.net ∧ u.mem = s.mem ∧ ∀ i j, (i, j) = (a, b) ∨ (i, j) = (b, a) →
      (u.link i j).kept = (s.link i j).kept ∧ (u.link i j).wire = (s.link i j).kept ∧ (u.link i j).retries = 0 ∧
      (u.link i j).resets = (s.link i j).resets + 1 ∧
      ∀ v, v < 8 → ((u.link i j).vc v).next = ((s.link i j).vc v).next ∧ ((u.link i j).vc v).due = ((s.link i j).vc v).due) ∧
    ((s.link a b).retries < 8 → ∃ u : State, exec (.linkRetry a b) s = .next u ∧ (u.link a b).retries = (s.link a b).retries + 1 ∧
      (u.link a b).wire = (s.link a b).kept.filter (s.link a b).pending ∧ (u.link a b).kept = (s.link a b).kept ∧ u.net = s.net ∧
      ∀ n, standsAt s a = some n → (u.tile n).cecnt = (s.tile n).cecnt + 1 ∧
        HostOut.report 64 (reportWords 8 0 63 (s.pfSeq + 1) 0 0 ((s.tile n).cecnt + 1).toNat 0 0) none ∈ u.out) ∧
    (8 ≤ (s.link a b).retries → exec (.linkRetry a b) s = exec (.linkReset a b) s) ∧
    exec (.routerFailure f) s = .next (s.modField f fun x => { x with down := true }) ∧
    (crownOf s = none → exec (.linkTraining link) s = .next s) ∧
    (link < 16 → (crownOf s).isSome = true → ∃ (u : State) (key : BitVec 128), exec (.linkTraining link) s = .next u ∧ afind u.linkKeys link = some key ∧
      (∀ j, j ≠ link → afind u.linkKeys j = afind s.linkKeys j) ∧ u.mem = s.mem ∧ u.tiles = s.tiles) ∧
    -- retention and scrubbing
    (mayRetain (s.tile t) arr = true → arr ∉ (s.tile t).retained →
      (s.latent = [] → exec (.retentionEntry t arr) s = .next (s.modTile t fun x => { x with retained := x.retained ++ [arr] })) ∧
      ∃ u : State, exec (.retentionEntry t arr) s = .next u ∧ (u.tile t).retained = (s.tile t).retained ++ [arr] ∧ u.mem = s.mem) ∧
    (mayRetain (s.tile t) arr = false → exec (.retentionEntry t arr) s = .next s) ∧
    (∃ u : State, exec (.retentionExit t arr) s = .next u ∧ arr ∉ (u.tile t).retained ∧ u.mem = s.mem) ∧
    (sector < 2 ^ 25 → (s.tile t).retained = [] → afind (s.tile t).dirty (sector / 4) = none → ∃ u : State, exec (.scrub t sector) s = .next u ∧ u.mem = s.mem ∧
      (∀ n, n ∈ wordsOf (vKey t (32 * sector)) 32 → n ∉ u.latent ∧ (n ∈ s.latent → n ∈ u.poison)) ∧
      (∀ n, n ∉ wordsOf (vKey t (32 * sector)) 32 → (n ∈ u.latent ↔ n ∈ s.latent) ∧ (n ∈ u.poison ↔ n ∈ s.poison))) ∧
    -- bring-up
    (s.up = true → exec (.bringUp spares bands tests) s = .next s) ∧
    (s.up = false → ∃ u : State, exec (.bringUp spares bands tests) s = .next u ∧ u.up = true ∧ u.mem = s.mem ∧
      (∀ g, g < 64 → (u.field g).lease = .follower ∧ (u.field g).epoch = 0 ∧ (u.field g).allot = s.budget / 64 ∧ ((u.field g).down = true ↔ g ∈ tests.failed) ∧
        let b := lget bands g (s.field g).band
        (u.field g).band = if 2200 ≤ b ∧ b ≤ 2800 ∧ b % 50 = 0 then b else (s.field g).band) ∧
      (∀ n ∈ tests.reduced, (u.tile n).lanes = 8)) ∧
    -- a module reset, after which bring-up runs again
    (let u := moduleReset s
     u.up = false ∧ u.stopped = false ∧ u.parts = [] ∧ u.queues = [] ∧ u.net = [] ∧ u.mem = ((s.parts.map (·.1)).foldl dropPart s).mem ∧
       u.budget = s.budget ∧ u.retired = s.retired ∧ u.unavailable = s.unavailable)

/-- R387, R388, R390: the crown lease, the power that it shares within free shares (log 51), cooling,
attestation with an opaque signature (log 13). A candidate that asks itself too, on VC7, is log 64's reading; a crown
elected later that is told of cooling is log 105's. -/
def Obligations.CrownAndPower : Prop :=
  ∀ (s : State) (f g n e k pid : Nat) (p : Packet) (demand : List Nat),
    let x := s.field f
    let asks : Field := { x with lease := .candidate, epoch := x.epoch + 1, votes := [], timer := x.cyc }
    -- timeouts
    (x.lease = .follower → x.down = false → x.timer + 2 ^ 24 ≤ x.cyc → ∃ u : State, exec (.leaseTimeout f) s = .next u ∧ u.field f = asks ∧
      u.net = s.net ++ (List.range 64).map fun j => ⟨10000 + f, 10000 + j, 7, .voteReq f (x.epoch + 1), []⟩) ∧
    (x.lease ≠ .follower ∨ x.down = true ∨ x.cyc < x.timer + 2 ^ 24 → exec (.leaseTimeout f) s = .next s) ∧
    (x.lease = .candidate → x.down = false → x.timer + 2 ^ 20 * (1 + f) ≤ x.cyc → ∃ u : State, exec (.candidateTimeout f) s = .next u ∧ u.field f = asks ∧
      u.net = s.net ++ (List.range 64).map fun j => ⟨10000 + f, 10000 + j, 7, .voteReq f (x.epoch + 1), []⟩) ∧
    (x.lease ≠ .candidate ∨ x.cyc < x.timer + 2 ^ 20 * (1 + f) → exec (.candidateTimeout f) s = .next s) ∧
    (x.acts = true → x.renewAt ≤ x.cyc → ∃ u : State, exec (.crownRenewal f) s = .next u ∧
      u.field f = { x with acks := [], renewAt := x.cyc + 2 ^ 22, renewNo := x.renewNo + 1 } ∧
      u.net = s.net ++ (List.range 64).map fun j => ⟨10000 + f, 10000 + j, 7, .renew f x.epoch (x.renewNo + 1), []⟩) ∧
    (x.acts = false ∨ x.cyc < x.renewAt → exec (.crownRenewal f) s = .next s) ∧
    (x.lease = .crown → x.timer + 2 ^ 23 ≤ x.cyc →
      exec (.crownExpiry f) s = .next (s.modField f fun x => { x with lease := .follower, timer := x.cyc })) ∧
    (x.cyc < x.timer + 2 ^ 23 → exec (.crownExpiry f) s = .next s) ∧
    -- messages at core f
    (deliverable s n = some p → p.dst = 10000 + f → x.down = false →
      (p.body = .voteReq g e →
        (e < x.epoch → exec (.voteRequest n) s = .next (s.dropPkt n)) ∧
        (x.epoch ≤ e → ∃ u : State, exec (.voteRequest n) s = .next u ∧ (u.field f).epoch = e ∧ (u.field f).voted = max x.voted e ∧
          (x.epoch < e → (u.field f).lease = .follower) ∧
          u.net = (s.dropPkt n).net ++ if x.voted < e then [⟨10000 + f, 10000 + g, 7, .vote f e, []⟩] else [])) ∧
      (p.body = .vote g e →
        (e < x.epoch ∨ (e = x.epoch ∧ x.lease ≠ .candidate) → exec (.vote n) s = .next (s.dropPkt n)) ∧
        (e = x.epoch → x.lease = .candidate → (sadd x.votes g).length < 33 →
          exec (.vote n) s = .next ((s.dropPkt n).modField f fun x => { x with votes := sadd x.votes g })) ∧
        (e = x.epoch → x.lease = .candidate → 33 ≤ (sadd x.votes g).length → ∃ u : State, exec (.vote n) s = .next u ∧ (u.field f).lease = .crown ∧
          (u.field f).epoch = e ∧ (u.field f).shareAt = x.cyc ∧ HostOut.report 64 (reportWords 7 0 63 (s.pfSeq + 1) 0 0 e 0 0) none ∈ u.out ∧ (s.cooling = true → (u.field f).cool = true))) ∧
      (p.body = .renew g e k →
        (e < x.epoch → exec (.renewal n) s = .next (s.dropPkt n)) ∧
        (x.epoch ≤ e → ∃ u : State, exec (.renewal n) s = .next u ∧ (u.field f).epoch = e ∧
          (x.epoch < e ∨ x.lease = .follower → (u.field f).lease = .follower ∧ (u.field f).timer = x.cyc) ∧
          u.net = (s.dropPkt n).net ++ [⟨10000 + f, 10000 + g, 7, .renewAck f e k, []⟩])) ∧
      -- an acknowledgement counts for the crown's latest renewal alone
      (p.body = .renewAck g e k → x.acts = true → e = x.epoch →
        (k ≠ x.renewNo → exec (.renewal n) s = .next (s.dropPkt n)) ∧
        (k = x.renewNo → ∃ u : State, exec (.renewal n) s = .next u ∧ (u.field f).acks = sadd x.acks g ∧ (u.field f).lease = .crown ∧
          (x.acks.length < 33 → (sadd x.acks g).length = 33 → (u.field f).timer = x.cyc))) ∧
      -- a share of the budget
      (p.body = .share g e k →
        (e < x.epoch → exec (.renewal n) s = .next (s.dropPkt n)) ∧
        (x.epoch ≤ e → ∃ u : State, exec (.renewal n) s = .next u ∧ (u.field f).allot = k ∧ (u.field f).epoch = e ∧ u.net = (s.dropPkt n).net))) ∧
    -- the cores' clocks differ by no more than 1.25
    ((∀ i j, i < 64 → j < 64 → 4 * lget demand i 0 ≤ 5 * lget demand j 0) → f < 64 →
      (fwTick s demand).field f = { x with cyc := x.cyc + lget demand f 0 }) ∧
    (∀ i j, i < 64 → j < 64 → 5 * lget demand j 0 < 4 * lget demand i 0 → fwTick s demand = s) ∧
    -- power and cooling
    (crownOf s = some f → x.shareAt ≤ x.cyc → ∃ (u : State) (l : List Nat), exec (.budgetShare demand) s = .next u ∧
      l.length = 64 ∧ (∀ w ∈ l, 150 ≤ w) ∧ l.sum ≤ max s.budget 9600 ∧
      (∀ j, j < 64 → (u.field j).demand = lget demand j 0) ∧ (u.field f).shareAt = x.cyc + 2 ^ 20 ∧
      u.net = s.net ++ (List.range 64).map fun j => ⟨10000 + f, 10000 + j, 7, .share f x.epoch (lget l j 150), []⟩) ∧
    (crownOf s = none ∨ (crownOf s = some f ∧ x.cyc < x.shareAt) → exec (.budgetShare demand) s = .next s) ∧
    (s.cooling = false → ∃ u : State, exec .coolingFault s = .next u ∧ u.cooling = true ∧ (∀ j, allotment u j = (s.field j).allot / 2) ∧
      (∀ c, crownOf s = some c → (u.field c).cool = true ∧ HostOut.report 64 (reportWords 6 0 63 (s.pfSeq + 1) 0 0 0 0 0) none ∈ u.out) ∧
      (crownOf s = none → u.out = s.out)) ∧
    (s.cooling = true → exec .coolingFault s = .next s) ∧ (s.cooling = false → exec .coolingClear s = .next s) ∧
    (s.cooling = true → ∃ u : State, exec .coolingClear s = .next u ∧ u.cooling = false ∧
      ∀ j, allotment u j = (s.field j).allot ∧ (u.field j).cool = false) ∧
    exec .thermalStop s = .next { s with stopped := true } ∧
    -- attestation
    (∀ q, s.part pid = some q → (crownOf s).isSome = true → ∃ (u : State) (d : BitVec 256), exec (.attestationReport pid) s = .next u ∧
      u.out = s.out ++ [HostOut.attest d (Config.sm2Sign d)] ∧ u.mem = s.mem ∧ u.tiles = s.tiles)

/-- Every step keeps memory in its canonical form. -/
def Obligations.MemOkKept : Prop :=
 ∀ s u : State, s.memOk → step s = .next u → u.memOk

/-- R171, R177, R197, R223, R253: what the register instructions leave unchanged, and that they complete. -/
def Obligations.RegisterFrame : Prop :=
  ∀ (s : State) (i : Instr) (l : List RegId), regDest i = some l → i.wf = true → s.me.stepping = false →
    ∃ u : State, exec i s = .next u ∧ regFrame s u l ∧ (mayFlag i = false → u.th.fst = s.th.fst) ∧
      (∀ b, s.th.fst.getLsbD b = true → u.th.fst.getLsbD b = true) ∧
      (s.me.gang = .none → u.th.pc = s.th.pc + 12)

/-- R49, R225, R228, R230, R232 to R234, R380: what loads and stores at the executing tile leave unchanged. -/
def Obligations.StoreFrame : Prop :=
  ∀ (s : State) (ty : Ty) (d cnt : G) (m : MemX) (mb : MemB) (inc : BitVec 4) (k : K) (v bv : V) (sc : BitVec 2),
    ty.isMem = true → quiet s → Memory.wf s.mem →
    let t := s.cur.t
    let n := tyBits ty / 8
    let lanesOf := active (rdK s.th k)
    let blk := lanesOf.map fun i => (i, eaX s.th m + w64 (4 * i))
    let str := lanesOf.map fun i => (i, rdG s.th mb.base + simm mb.disp + (w64 i * rdG s.th cnt <<< sc.toNat))
    let idx := lanesOf.map fun i => (i, rdG s.th mb.base +
      (((lane (rdV s.th (Fin.ofNat 8 (bv.val + 1))) i ++ lane (rdV s.th bv) i : BitVec 64)) <<< sc.toNat) + simm mb.disp)
    let lanesKept (l : List (Nat × Word)) (u : State) : Prop := ∀ a,
      (∀ e ∈ l, a < pKey t (fld e.2 0 40) ∨ pKey t (fld e.2 0 40) + 4 ≤ a) → cget u.mem a = cget s.mem a
    let inPane (l : List (Nat × Word)) : Prop := ∀ e ∈ l, homeFor s e.2 aWrite 4 = .ok (.tile t (fld e.2 0 44)) ∧ fld e.2 40 4 = 2
    let inVault (l : List (Nat × Word)) : Prop := ∀ e ∈ l, homeFor s e.2 aWrite 4 = .ok (.tile t (fld e.2 0 44)) ∧ fld e.2 40 4 = 0
    -- lane by lane, and granule by granule the runs of adjoining lanes
    let single (l : List (Nat × Word)) : List (Nat × List Byte) := l.map fun e => (fld e.2 0 44, leBytes 4 (lane (rdV s.th v) e.1).toNat)
    let runs (l : List (Nat × Word)) : List (Nat × List Byte) :=
      (granules (l.map fun e => (e.1, e.2, Home.tile t (fld e.2 0 44)))).flatMap fun g => (laneRuns (rdV s.th v) g).map fun e => (fld e.1 0 44, e.2)
    let stores (l : List (Nat × List Byte)) (u : State) : Prop := u.mem = s.mem ∨ ∃ s1 : State, u = s1.retire ∧ storeChain t l s s1
    (∀ off u, ownPiece s (eaX s.th m) aRead n off → (exec (.ld ty d m) s = .next u ∨ exec (.get ty d m) s = .next u) → u.mem = s.mem) ∧
    (∀ off u, ownPiece s (eaX s.th m) aWrite n off → (exec (.st ty d m) s = .next u ∨ exec (.put ty d m) s = .next u) →
      keptOutside s u t off n) ∧
    (∀ off u, ownPiece s (eaB s.th mb) aWrite n off → exec (.putc ty d mb cnt inc) s = .next u → keptOutside s u t off n) ∧
    (∀ off l u, writeHome s t off l aWrite = .ok u → keptOutside s u t off l.length) ∧
    (∀ u, inPane blk → exec (.vst ty k v m) s = .next u → lanesKept blk u) ∧
    (∀ u, inPane str → exec (.vsts ty k sc v mb cnt) s = .next u → lanesKept str u) ∧
    (∀ u, inPane idx → exec (.vscat ty k sc v mb bv) s = .next u → lanesKept idx u) ∧
    -- in vault space, at the address that each store's own translation gives
    (∀ u, inVault blk → exec (.vst ty k v m) s = .next u → stores (runs blk) u) ∧
    (∀ u, inVault str → exec (.vsts ty k sc v mb cnt) s = .next u → stores (single str) u) ∧
    (∀ u, inVault idx → exec (.vscat ty k sc v mb bv) s = .next u → stores (single idx) u)
end

