-- ==== Sys2Proof/Laws/Codec.lean ====
section
/-! SUPPORT. Sys2Proof/Laws/Codec.lean: every operand, code and field of a word reads back as it was written (09 R166 to R173),
one lemma each. -/

namespace Sys2Proof

@[simp] theorem gOf_gByte (r : G) : gOf (gByte r) = r := by revert r; decide
@[simp] theorem vOf_vByte (r : V) : vOf (vByte r) = r := by revert r; decide
@[simp] theorem pOf_pByte (r : P) : pOf (pByte r) = r := by revert r; decide
@[simp] theorem kOf_kByte (r : K) : kOf (kByte r) = r := by revert r; decide
@[simp] theorem hOf_hByte (r : H) : hOf (hByte r) = r := by revert r; decide
@[simp] theorem dirOf_dirByte (d : Dir) : dirOf (dirByte d) = d := by cases d <;> rfl
@[simp] theorem dirOfImm_imm (d : Dir) : dirOfImm d.imm = d := by cases d <;> rfl
@[simp] theorem gpOf_gpByte (x : GP) : gpOf (gpByte x) = x := by
  cases x with
  | g r => revert r; decide
  | port d => cases d <;> rfl
@[simp] theorem tyOf_code (t : Ty) : tyOf t.code = t := by cases t <;> rfl
@[simp] theorem condOf_code (c : Cond) : condOf c.code = c := by cases c <;> rfl
@[simp] theorem rselOf_code (c : RSel) : rselOf c.code = c := by cases c <;> rfl
@[simp] theorem redOf_code (c : RedOp) : redOf c.code = c := by cases c <;> rfl
@[simp] theorem srOf_code (r : Sr) : srOf r.code = r := by
  cases r with
  | np d => cases d <;> rfl
  | rpc i => revert i; decide
  | win n w => revert n w; decide
  | _ => rfl
@[simp] theorem pFxOf_pFx (p : P) : pFxOf (pFx p) = p := by revert p; decide
@[simp] theorem kFxOf_kFx (k : K) : kFxOf (kFx k) = k := by revert k; decide
@[simp] theorem kFxOf_scale (k : K) (x : BitVec 2) : kFxOf (kFx k ||| x.setWidth 4) = k := by revert k x; decide
@[simp] theorem kFxOf_bfx (k : K) (z : Bool) : kFxOf (kFx k ||| bfx z) = k := by revert k z; decide
@[simp] theorem vmodOf_fx (m : VMod) : vmodOf m.fx = m := by
  obtain ⟨k, s, z⟩ := m; revert k s z; decide
@[simp] theorem pFxOf_indirect (p : P) : pFxOf (8#4 ||| pFx p) = p := by revert p; decide
@[simp] theorem fin_code (c : Fin 16) : Fin.ofNat 16 (BitVec.ofNat 4 c.val).toNat = c := by revert c; decide
@[simp] theorem low2_kFx (k : K) : (kFx k).setWidth 2 = 0 := by revert k; decide
@[simp] theorem bit0_kFx (k : K) : (kFx k)[0] = false := by revert k; decide
@[simp] theorem bit0_bfx (z : Bool) : (bfx z)[0] = z := by revert z; decide
@[simp] theorem bit0_bimm (z : Bool) : (bimm z)[0] = z := by revert z; decide
@[simp] theorem bit3_pFx (p : P) : (pFx p)[3] = false := by revert p; decide
@[simp] theorem bit3_redCode (o : RedOp) : o.code[3] = false := by cases o <;> rfl
@[simp] theorem rel_code (b : Bool) : ((if b = true then 2#2 else 0#2) == 2#2) = b := by revert b; decide

-- Immediates that hold several numbers.
@[simp] theorem pos_imm (p : BitVec 6) (l : BitVec 7) : (p.setWidth 32 ||| l.setWidth 32 <<< 8).extractLsb' 0 6 = p := by
  apply BitVec.eq_of_getLsbD_eq; intro i hi
  simp [show i < 32 by omega, show i < 8 by omega]; omega
@[simp] theorem len_imm (p : BitVec 6) (l : BitVec 7) : (p.setWidth 32 ||| l.setWidth 32 <<< 8).extractLsb' 8 7 = l := by
  apply BitVec.eq_of_getLsbD_eq; intro i hi
  simp [show 8 + i < 32 by omega, show ¬ 8 + i < 8 by omega, hi, BitVec.getLsbD_of_ge p (8 + i) (by omega)]
@[simp] theorem lead_k (k : BitVec 3) (d : Dir) : (k.setWidth 32 ||| d.imm <<< 8).setWidth 3 = k := by
  cases d <;> revert k <;> decide
@[simp] theorem lead_dir (k : BitVec 3) (d : Dir) : dirOfImm ((k.setWidth 32 ||| d.imm <<< 8) >>> 8) = d := by
  cases d <;> revert k <;> decide
@[simp] theorem cvt_rm (r : BitVec 4) (t : BitVec 4) (p : BitVec 2) :
    (r.setWidth 32 <<< 4 ||| t.setWidth 32 ||| p.setWidth 32 <<< 8).extractLsb' 4 4 = r := by revert r t p; decide
@[simp] theorem cvt_ty (r : BitVec 4) (t : BitVec 4) (p : BitVec 2) :
    (r.setWidth 32 <<< 4 ||| t.setWidth 32 ||| p.setWidth 32 <<< 8).setWidth 4 = t := by revert r t p; decide
@[simp] theorem cvt_part (r : BitVec 4) (t : BitVec 4) (p : BitVec 2) :
    (r.setWidth 32 <<< 4 ||| t.setWidth 32 ||| p.setWidth 32 <<< 8).extractLsb' 8 2 = p := by revert r t p; decide
@[simp] theorem qnt_tier (t : BitVec 3) (b : Bool) : (t.setWidth 32 ||| bimm b <<< 3).setWidth 3 = t := by revert t b; decide
@[simp] theorem scan_op (o : RedOp) (b : Bool) : redOf (o.code ||| bimm b <<< 3) = o := by cases o <;> revert b <;> decide

-- Operand B and the other operands with several forms.
@[simp] theorem srcOf_src (o fn d a ty sc od fx) (b : Src) :
    srcOf ⟨o, fn, d, a, srcB b, ty, sc, od, srcIms b, srcZx b, fx, srcImm b⟩ = b := by
  cases b <;> simp [srcOf, srcB, srcIms, srcZx, srcImm]
@[simp] theorem gsrcOf_src (o fn d a ty sc od fx) (b : GSrc) :
    gsrcOf ⟨o, fn, d, a, gsrcB b, ty, sc, od, gsrcIms b, gsrcZx b, fx, gsrcImm b⟩ = b := by
  cases b <;> simp [gsrcOf, gsrcB, gsrcIms, gsrcZx, gsrcImm]
@[simp] theorem fsrcOf_src (o fn d a ty sc od z fx) (b : FSrc) :
    fsrcOf ⟨o, fn, d, a, fsrcB b, ty, sc, od, fsrcIms b, z, fx, fsrcImm b⟩ = b := by
  cases b <;> simp [fsrcOf, fsrcB, fsrcIms, fsrcImm]
theorem gByte_lt (r : G) : (gByte r).toNat < 0x20 := by revert r; decide
theorem vByte_ge (r : V) : ¬ (vByte r).toNat < 0x20 := by revert r; decide
theorem kByte_ge (r : K) : ¬ (kByte r).toNat < 0x20 := by revert r; decide
@[simp] theorem vsrcOf_src (o fn d a ty sc od z fx) (b : VSrc) :
    vsrcOf ⟨o, fn, d, a, vsrcB b, ty, sc, od, vsrcIms b, z, fx, vsrcImm b⟩ = b := by
  cases b <;> simp [vsrcOf, vsrcB, vsrcIms, vsrcImm, gByte_lt, vByte_ge]
@[simp] theorem bsrcOf_src (o fn d b ty sc od s z fx) (a : BSrc) :
    bsrcOf ⟨o, fn, d, bsrcA a, b, ty, sc, od, s, z, fx, bsrcImm a⟩ = a := by
  cases a <;> simp [bsrcOf, bsrcA, bsrcImm, gByte_lt, vByte_ge]
@[simp] theorem kfOf_form (o fn b ty sc od z fx) (k : KForm) :
    kfOf ⟨o, fn, kfD k, kfA k, b, ty, sc, od, kfIms k, z, fx, kfImm k⟩ = k := by
  cases k <;> simp [kfOf, kfD, kfA, kfIms, kfImm, gByte_lt, kByte_ge]
@[simp] theorem optG_scale (o : Option G) : (if o.isSome = true then some (gOf (optB o)) else none) = o := by
  cases o <;> simp [optB]

-- The word.
theorem high_append {m k : Nat} (x : BitVec m) (y : BitVec k) (s n : Nat) (h : k ≤ s) :
    (x ++ y).extractLsb' s n = x.extractLsb' (s - k) n := by
  apply BitVec.eq_of_getLsbD_eq; intro i hi
  simp [hi, BitVec.getLsbD_append, show ¬ s + i < k by omega, show s + i - k = s - k + i by omega]
theorem low_append {m k : Nat} (x : BitVec m) (y : BitVec k) (s n : Nat) (h : s + n ≤ k) :
    (x ++ y).extractLsb' s n = y.extractLsb' s n := by
  apply BitVec.eq_of_getLsbD_eq; intro i hi
  simp [hi, BitVec.getLsbD_append, show s + i < k by omega]
/-- R166: the fields of a packed word. -/
@[simp] theorem fieldsOf_packWord (h : Hdr) (f : Fields) : fieldsOf (packWord h f) = f := by
  obtain ⟨opc, fn, d, a, b, ty, scp, ord, ims, izx, fx, imm⟩ := f
  simp (disch := omega) only [fieldsOf, packWord, Fields.mk.injEq, high_append, low_append, Nat.reduceSub, Nat.sub_self,
    BitVec.getLsbD_append, Nat.reduceLT, if_true, if_false]
  simp
/-- R168, R149, R150: the guard and hints of a packed word. -/
@[simp] theorem hdrOf_packWord (h : Hdr) (f : Fields) : hdrOf (packWord h f) = h := by
  obtain ⟨gn, gp, st, yld⟩ := h
  simp (disch := omega) only [hdrOf, packWord, Hdr.mk.injEq, high_append, low_append, Nat.reduceSub, Nat.sub_self,
    BitVec.getLsbD_append, Nat.reduceLT, if_true, if_false]
  simp
/-- R166: the major opcode and bit 72 of a packed word. -/
@[simp] theorem opc_packWord (h : Hdr) (f : Fields) : (packWord h f).extractLsb' 88 8 = f.opc :=
  congrArg Fields.opc (fieldsOf_packWord h f)
@[simp] theorem bit72_packWord (h : Hdr) (f : Fields) : (packWord h f).getLsbD 72 = false := by
  simp only [packWord, BitVec.getLsbD_append, Nat.reduceSub, Nat.sub_self, Nat.reduceLT, if_true, if_false]
  rfl

end Sys2Proof
end

