-- ==== Sys2Proof/Laws/State.lean ====
section
/-! SUPPORT. Sys2Proof/Laws/State.lean: what each update of the state leaves alone, one lemma per field per update, and
reading back what was written through the accessors. -/

namespace Sys2Proof.Machine

-- Keyed lists.
@[simp] theorem aget_aput_same {α : Type} (l : Assoc α) (k : Nat) (v d : α) : aget (aput l k v) k d = v := by
  induction l with
  | nil => simp [aput, aget]
  | cons e r ih =>
    obtain ⟨j, w⟩ := e
    simp only [aput]
    split
    · simp [aget]
    · split
      · simp [aget]
      · simp [aget, *]
theorem aget_aput_ne {α : Type} (l : Assoc α) (k j : Nat) (v d : α) (h : j ≠ k) : aget (aput l k v) j d = aget l j d := by
  induction l with
  | nil => simp [aput, aget, Ne.symm h]
  | cons e r ih =>
    obtain ⟨i, w⟩ := e
    simp only [aput]
    split
    · subst_vars; simp [aget, Ne.symm h]
    · split
      · simp [aget, Ne.symm h]
      · simp only [aget, ih]

-- What each update leaves alone.
@[simp] theorem State.setTile_cur (s : State) (t : Tile) (x : TileSt) : (s.setTile t x).cur = s.cur := rfl
@[simp] theorem State.setTile_mem (s : State) (t : Tile) (x : TileSt) : (s.setTile t x).mem = s.mem := rfl
@[simp] theorem State.setTile_full (s : State) (t : Tile) (x : TileSt) : (s.setTile t x).full = s.full := rfl
@[simp] theorem State.setTile_poison (s : State) (t : Tile) (x : TileSt) : (s.setTile t x).poison = s.poison := rfl
@[simp] theorem State.setTile_latent (s : State) (t : Tile) (x : TileSt) : (s.setTile t x).latent = s.latent := rfl
@[simp] theorem State.setTile_net (s : State) (t : Tile) (x : TileSt) : (s.setTile t x).net = s.net := rfl
@[simp] theorem State.setTile_parts (s : State) (t : Tile) (x : TileSt) : (s.setTile t x).parts = s.parts := rfl
@[simp] theorem State.setTile_queues (s : State) (t : Tile) (x : TileSt) : (s.setTile t x).queues = s.queues := rfl
@[simp] theorem State.setTile_fields (s : State) (t : Tile) (x : TileSt) : (s.setTile t x).fields = s.fields := rfl
@[simp] theorem State.setTile_links (s : State) (t : Tile) (x : TileSt) : (s.setTile t x).links = s.links := rfl
@[simp] theorem State.setTile_linkKeys (s : State) (t : Tile) (x : TileSt) : (s.setTile t x).linkKeys = s.linkKeys := rfl
@[simp] theorem State.setTile_left (s : State) (t : Tile) (x : TileSt) : (s.setTile t x).left = s.left := rfl
@[simp] theorem State.setTile_badSpares (s : State) (t : Tile) (x : TileSt) : (s.setTile t x).badSpares = s.badSpares := rfl
@[simp] theorem State.setTile_spareVaults (s : State) (t : Tile) (x : TileSt) : (s.setTile t x).spareVaults = s.spareVaults := rfl
@[simp] theorem State.setTile_badLanes (s : State) (t : Tile) (x : TileSt) : (s.setTile t x).badLanes = s.badLanes := rfl
@[simp] theorem State.setTile_ringSlot (s : State) (t : Tile) (x : TileSt) : (s.setTile t x).ringSlot = s.ringSlot := rfl
@[simp] theorem State.setTile_hostReqs (s : State) (t : Tile) (x : TileSt) : (s.setTile t x).hostReqs = s.hostReqs := rfl
@[simp] theorem State.setTile_frameq (s : State) (t : Tile) (x : TileSt) : (s.setTile t x).frameq = s.frameq := rfl
@[simp] theorem State.setTile_frames (s : State) (t : Tile) (x : TileSt) : (s.setTile t x).frames = s.frames := rfl
@[simp] theorem State.setTile_ioq (s : State) (t : Tile) (x : TileSt) : (s.setTile t x).ioq = s.ioq := rfl
@[simp] theorem State.setTile_peerReqs (s : State) (t : Tile) (x : TileSt) : (s.setTile t x).peerReqs = s.peerReqs := rfl
@[simp] theorem State.setTile_retired (s : State) (t : Tile) (x : TileSt) : (s.setTile t x).retired = s.retired := rfl
@[simp] theorem State.setTile_unavailable (s : State) (t : Tile) (x : TileSt) : (s.setTile t x).unavailable = s.unavailable := rfl
@[simp] theorem State.setTile_up (s : State) (t : Tile) (x : TileSt) : (s.setTile t x).up = s.up := rfl
@[simp] theorem State.setTile_cooling (s : State) (t : Tile) (x : TileSt) : (s.setTile t x).cooling = s.cooling := rfl
@[simp] theorem State.setTile_stopped (s : State) (t : Tile) (x : TileSt) : (s.setTile t x).stopped = s.stopped := rfl
@[simp] theorem State.setTile_budget (s : State) (t : Tile) (x : TileSt) : (s.setTile t x).budget = s.budget := rfl
@[simp] theorem State.setTile_out (s : State) (t : Tile) (x : TileSt) : (s.setTile t x).out = s.out := rfl
@[simp] theorem State.setTile_pfSeq (s : State) (t : Tile) (x : TileSt) : (s.setTile t x).pfSeq = s.pfSeq := rfl
@[simp] theorem State.setTile_fresh (s : State) (t : Tile) (x : TileSt) : (s.setTile t x).fresh = s.fresh := rfl
@[simp] theorem State.setTile_reqNo (s : State) (t : Tile) (x : TileSt) : (s.setTile t x).reqNo = s.reqNo := rfl
@[simp] theorem State.setTile_agenda (s : State) (t : Tile) (x : TileSt) : (s.setTile t x).agenda = s.agenda := rfl
@[simp] theorem State.modTile_cur (s : State) (t : Tile) (f : TileSt → TileSt) : (s.modTile t f).cur = s.cur := rfl
@[simp] theorem State.modTile_mem (s : State) (t : Tile) (f : TileSt → TileSt) : (s.modTile t f).mem = s.mem := rfl
@[simp] theorem State.modTile_full (s : State) (t : Tile) (f : TileSt → TileSt) : (s.modTile t f).full = s.full := rfl
@[simp] theorem State.modTile_poison (s : State) (t : Tile) (f : TileSt → TileSt) : (s.modTile t f).poison = s.poison := rfl
@[simp] theorem State.modTile_latent (s : State) (t : Tile) (f : TileSt → TileSt) : (s.modTile t f).latent = s.latent := rfl
@[simp] theorem State.modTile_net (s : State) (t : Tile) (f : TileSt → TileSt) : (s.modTile t f).net = s.net := rfl
@[simp] theorem State.modTile_parts (s : State) (t : Tile) (f : TileSt → TileSt) : (s.modTile t f).parts = s.parts := rfl
@[simp] theorem State.modTile_queues (s : State) (t : Tile) (f : TileSt → TileSt) : (s.modTile t f).queues = s.queues := rfl
@[simp] theorem State.modTile_fields (s : State) (t : Tile) (f : TileSt → TileSt) : (s.modTile t f).fields = s.fields := rfl
@[simp] theorem State.modTile_links (s : State) (t : Tile) (f : TileSt → TileSt) : (s.modTile t f).links = s.links := rfl
@[simp] theorem State.modTile_linkKeys (s : State) (t : Tile) (f : TileSt → TileSt) : (s.modTile t f).linkKeys = s.linkKeys := rfl
@[simp] theorem State.modTile_left (s : State) (t : Tile) (f : TileSt → TileSt) : (s.modTile t f).left = s.left := rfl
@[simp] theorem State.modTile_badSpares (s : State) (t : Tile) (f : TileSt → TileSt) : (s.modTile t f).badSpares = s.badSpares := rfl
@[simp] theorem State.modTile_spareVaults (s : State) (t : Tile) (f : TileSt → TileSt) : (s.modTile t f).spareVaults = s.spareVaults := rfl
@[simp] theorem State.modTile_badLanes (s : State) (t : Tile) (f : TileSt → TileSt) : (s.modTile t f).badLanes = s.badLanes := rfl
@[simp] theorem State.modTile_ringSlot (s : State) (t : Tile) (f : TileSt → TileSt) : (s.modTile t f).ringSlot = s.ringSlot := rfl
@[simp] theorem State.modTile_hostReqs (s : State) (t : Tile) (f : TileSt → TileSt) : (s.modTile t f).hostReqs = s.hostReqs := rfl
@[simp] theorem State.modTile_frameq (s : State) (t : Tile) (f : TileSt → TileSt) : (s.modTile t f).frameq = s.frameq := rfl
@[simp] theorem State.modTile_frames (s : State) (t : Tile) (f : TileSt → TileSt) : (s.modTile t f).frames = s.frames := rfl
@[simp] theorem State.modTile_ioq (s : State) (t : Tile) (f : TileSt → TileSt) : (s.modTile t f).ioq = s.ioq := rfl
@[simp] theorem State.modTile_peerReqs (s : State) (t : Tile) (f : TileSt → TileSt) : (s.modTile t f).peerReqs = s.peerReqs := rfl
@[simp] theorem State.modTile_retired (s : State) (t : Tile) (f : TileSt → TileSt) : (s.modTile t f).retired = s.retired := rfl
@[simp] theorem State.modTile_unavailable (s : State) (t : Tile) (f : TileSt → TileSt) : (s.modTile t f).unavailable = s.unavailable := rfl
@[simp] theorem State.modTile_up (s : State) (t : Tile) (f : TileSt → TileSt) : (s.modTile t f).up = s.up := rfl
@[simp] theorem State.modTile_cooling (s : State) (t : Tile) (f : TileSt → TileSt) : (s.modTile t f).cooling = s.cooling := rfl
@[simp] theorem State.modTile_stopped (s : State) (t : Tile) (f : TileSt → TileSt) : (s.modTile t f).stopped = s.stopped := rfl
@[simp] theorem State.modTile_budget (s : State) (t : Tile) (f : TileSt → TileSt) : (s.modTile t f).budget = s.budget := rfl
@[simp] theorem State.modTile_out (s : State) (t : Tile) (f : TileSt → TileSt) : (s.modTile t f).out = s.out := rfl
@[simp] theorem State.modTile_pfSeq (s : State) (t : Tile) (f : TileSt → TileSt) : (s.modTile t f).pfSeq = s.pfSeq := rfl
@[simp] theorem State.modTile_fresh (s : State) (t : Tile) (f : TileSt → TileSt) : (s.modTile t f).fresh = s.fresh := rfl
@[simp] theorem State.modTile_reqNo (s : State) (t : Tile) (f : TileSt → TileSt) : (s.modTile t f).reqNo = s.reqNo := rfl
@[simp] theorem State.modTile_agenda (s : State) (t : Tile) (f : TileSt → TileSt) : (s.modTile t f).agenda = s.agenda := rfl
@[simp] theorem State.setCtx_cur (s : State) (t : Tile) (c : Nat) (x : Ctx) : (s.setCtx t c x).cur = s.cur := rfl
@[simp] theorem State.setCtx_mem (s : State) (t : Tile) (c : Nat) (x : Ctx) : (s.setCtx t c x).mem = s.mem := rfl
@[simp] theorem State.setCtx_full (s : State) (t : Tile) (c : Nat) (x : Ctx) : (s.setCtx t c x).full = s.full := rfl
@[simp] theorem State.setCtx_poison (s : State) (t : Tile) (c : Nat) (x : Ctx) : (s.setCtx t c x).poison = s.poison := rfl
@[simp] theorem State.setCtx_latent (s : State) (t : Tile) (c : Nat) (x : Ctx) : (s.setCtx t c x).latent = s.latent := rfl
@[simp] theorem State.setCtx_net (s : State) (t : Tile) (c : Nat) (x : Ctx) : (s.setCtx t c x).net = s.net := rfl
@[simp] theorem State.setCtx_parts (s : State) (t : Tile) (c : Nat) (x : Ctx) : (s.setCtx t c x).parts = s.parts := rfl
@[simp] theorem State.setCtx_queues (s : State) (t : Tile) (c : Nat) (x : Ctx) : (s.setCtx t c x).queues = s.queues := rfl
@[simp] theorem State.setCtx_fields (s : State) (t : Tile) (c : Nat) (x : Ctx) : (s.setCtx t c x).fields = s.fields := rfl
@[simp] theorem State.setCtx_links (s : State) (t : Tile) (c : Nat) (x : Ctx) : (s.setCtx t c x).links = s.links := rfl
@[simp] theorem State.setCtx_linkKeys (s : State) (t : Tile) (c : Nat) (x : Ctx) : (s.setCtx t c x).linkKeys = s.linkKeys := rfl
@[simp] theorem State.setCtx_left (s : State) (t : Tile) (c : Nat) (x : Ctx) : (s.setCtx t c x).left = s.left := rfl
@[simp] theorem State.setCtx_badSpares (s : State) (t : Tile) (c : Nat) (x : Ctx) : (s.setCtx t c x).badSpares = s.badSpares := rfl
@[simp] theorem State.setCtx_spareVaults (s : State) (t : Tile) (c : Nat) (x : Ctx) : (s.setCtx t c x).spareVaults = s.spareVaults := rfl
@[simp] theorem State.setCtx_badLanes (s : State) (t : Tile) (c : Nat) (x : Ctx) : (s.setCtx t c x).badLanes = s.badLanes := rfl
@[simp] theorem State.setCtx_ringSlot (s : State) (t : Tile) (c : Nat) (x : Ctx) : (s.setCtx t c x).ringSlot = s.ringSlot := rfl
@[simp] theorem State.setCtx_hostReqs (s : State) (t : Tile) (c : Nat) (x : Ctx) : (s.setCtx t c x).hostReqs = s.hostReqs := rfl
@[simp] theorem State.setCtx_frameq (s : State) (t : Tile) (c : Nat) (x : Ctx) : (s.setCtx t c x).frameq = s.frameq := rfl
@[simp] theorem State.setCtx_frames (s : State) (t : Tile) (c : Nat) (x : Ctx) : (s.setCtx t c x).frames = s.frames := rfl
@[simp] theorem State.setCtx_ioq (s : State) (t : Tile) (c : Nat) (x : Ctx) : (s.setCtx t c x).ioq = s.ioq := rfl
@[simp] theorem State.setCtx_peerReqs (s : State) (t : Tile) (c : Nat) (x : Ctx) : (s.setCtx t c x).peerReqs = s.peerReqs := rfl
@[simp] theorem State.setCtx_retired (s : State) (t : Tile) (c : Nat) (x : Ctx) : (s.setCtx t c x).retired = s.retired := rfl
@[simp] theorem State.setCtx_unavailable (s : State) (t : Tile) (c : Nat) (x : Ctx) : (s.setCtx t c x).unavailable = s.unavailable := rfl
@[simp] theorem State.setCtx_up (s : State) (t : Tile) (c : Nat) (x : Ctx) : (s.setCtx t c x).up = s.up := rfl
@[simp] theorem State.setCtx_cooling (s : State) (t : Tile) (c : Nat) (x : Ctx) : (s.setCtx t c x).cooling = s.cooling := rfl
@[simp] theorem State.setCtx_stopped (s : State) (t : Tile) (c : Nat) (x : Ctx) : (s.setCtx t c x).stopped = s.stopped := rfl
@[simp] theorem State.setCtx_budget (s : State) (t : Tile) (c : Nat) (x : Ctx) : (s.setCtx t c x).budget = s.budget := rfl
@[simp] theorem State.setCtx_out (s : State) (t : Tile) (c : Nat) (x : Ctx) : (s.setCtx t c x).out = s.out := rfl
@[simp] theorem State.setCtx_pfSeq (s : State) (t : Tile) (c : Nat) (x : Ctx) : (s.setCtx t c x).pfSeq = s.pfSeq := rfl
@[simp] theorem State.setCtx_fresh (s : State) (t : Tile) (c : Nat) (x : Ctx) : (s.setCtx t c x).fresh = s.fresh := rfl
@[simp] theorem State.setCtx_reqNo (s : State) (t : Tile) (c : Nat) (x : Ctx) : (s.setCtx t c x).reqNo = s.reqNo := rfl
@[simp] theorem State.setCtx_agenda (s : State) (t : Tile) (c : Nat) (x : Ctx) : (s.setCtx t c x).agenda = s.agenda := rfl
@[simp] theorem State.modCtx_cur (s : State) (t : Tile) (c : Nat) (f : Ctx → Ctx) : (s.modCtx t c f).cur = s.cur := rfl
@[simp] theorem State.modCtx_mem (s : State) (t : Tile) (c : Nat) (f : Ctx → Ctx) : (s.modCtx t c f).mem = s.mem := rfl
@[simp] theorem State.modCtx_full (s : State) (t : Tile) (c : Nat) (f : Ctx → Ctx) : (s.modCtx t c f).full = s.full := rfl
@[simp] theorem State.modCtx_poison (s : State) (t : Tile) (c : Nat) (f : Ctx → Ctx) : (s.modCtx t c f).poison = s.poison := rfl
@[simp] theorem State.modCtx_latent (s : State) (t : Tile) (c : Nat) (f : Ctx → Ctx) : (s.modCtx t c f).latent = s.latent := rfl
@[simp] theorem State.modCtx_net (s : State) (t : Tile) (c : Nat) (f : Ctx → Ctx) : (s.modCtx t c f).net = s.net := rfl
@[simp] theorem State.modCtx_parts (s : State) (t : Tile) (c : Nat) (f : Ctx → Ctx) : (s.modCtx t c f).parts = s.parts := rfl
@[simp] theorem State.modCtx_queues (s : State) (t : Tile) (c : Nat) (f : Ctx → Ctx) : (s.modCtx t c f).queues = s.queues := rfl
@[simp] theorem State.modCtx_fields (s : State) (t : Tile) (c : Nat) (f : Ctx → Ctx) : (s.modCtx t c f).fields = s.fields := rfl
@[simp] theorem State.modCtx_links (s : State) (t : Tile) (c : Nat) (f : Ctx → Ctx) : (s.modCtx t c f).links = s.links := rfl
@[simp] theorem State.modCtx_linkKeys (s : State) (t : Tile) (c : Nat) (f : Ctx → Ctx) : (s.modCtx t c f).linkKeys = s.linkKeys := rfl
@[simp] theorem State.modCtx_left (s : State) (t : Tile) (c : Nat) (f : Ctx → Ctx) : (s.modCtx t c f).left = s.left := rfl
@[simp] theorem State.modCtx_badSpares (s : State) (t : Tile) (c : Nat) (f : Ctx → Ctx) : (s.modCtx t c f).badSpares = s.badSpares := rfl
@[simp] theorem State.modCtx_spareVaults (s : State) (t : Tile) (c : Nat) (f : Ctx → Ctx) : (s.modCtx t c f).spareVaults = s.spareVaults := rfl
@[simp] theorem State.modCtx_badLanes (s : State) (t : Tile) (c : Nat) (f : Ctx → Ctx) : (s.modCtx t c f).badLanes = s.badLanes := rfl
@[simp] theorem State.modCtx_ringSlot (s : State) (t : Tile) (c : Nat) (f : Ctx → Ctx) : (s.modCtx t c f).ringSlot = s.ringSlot := rfl
@[simp] theorem State.modCtx_hostReqs (s : State) (t : Tile) (c : Nat) (f : Ctx → Ctx) : (s.modCtx t c f).hostReqs = s.hostReqs := rfl
@[simp] theorem State.modCtx_frameq (s : State) (t : Tile) (c : Nat) (f : Ctx → Ctx) : (s.modCtx t c f).frameq = s.frameq := rfl
@[simp] theorem State.modCtx_frames (s : State) (t : Tile) (c : Nat) (f : Ctx → Ctx) : (s.modCtx t c f).frames = s.frames := rfl
@[simp] theorem State.modCtx_ioq (s : State) (t : Tile) (c : Nat) (f : Ctx → Ctx) : (s.modCtx t c f).ioq = s.ioq := rfl
@[simp] theorem State.modCtx_peerReqs (s : State) (t : Tile) (c : Nat) (f : Ctx → Ctx) : (s.modCtx t c f).peerReqs = s.peerReqs := rfl
@[simp] theorem State.modCtx_retired (s : State) (t : Tile) (c : Nat) (f : Ctx → Ctx) : (s.modCtx t c f).retired = s.retired := rfl
@[simp] theorem State.modCtx_unavailable (s : State) (t : Tile) (c : Nat) (f : Ctx → Ctx) : (s.modCtx t c f).unavailable = s.unavailable := rfl
@[simp] theorem State.modCtx_up (s : State) (t : Tile) (c : Nat) (f : Ctx → Ctx) : (s.modCtx t c f).up = s.up := rfl
@[simp] theorem State.modCtx_cooling (s : State) (t : Tile) (c : Nat) (f : Ctx → Ctx) : (s.modCtx t c f).cooling = s.cooling := rfl
@[simp] theorem State.modCtx_stopped (s : State) (t : Tile) (c : Nat) (f : Ctx → Ctx) : (s.modCtx t c f).stopped = s.stopped := rfl
@[simp] theorem State.modCtx_budget (s : State) (t : Tile) (c : Nat) (f : Ctx → Ctx) : (s.modCtx t c f).budget = s.budget := rfl
@[simp] theorem State.modCtx_out (s : State) (t : Tile) (c : Nat) (f : Ctx → Ctx) : (s.modCtx t c f).out = s.out := rfl
@[simp] theorem State.modCtx_pfSeq (s : State) (t : Tile) (c : Nat) (f : Ctx → Ctx) : (s.modCtx t c f).pfSeq = s.pfSeq := rfl
@[simp] theorem State.modCtx_fresh (s : State) (t : Tile) (c : Nat) (f : Ctx → Ctx) : (s.modCtx t c f).fresh = s.fresh := rfl
@[simp] theorem State.modCtx_reqNo (s : State) (t : Tile) (c : Nat) (f : Ctx → Ctx) : (s.modCtx t c f).reqNo = s.reqNo := rfl
@[simp] theorem State.modCtx_agenda (s : State) (t : Tile) (c : Nat) (f : Ctx → Ctx) : (s.modCtx t c f).agenda = s.agenda := rfl
@[simp] theorem State.modMe_cur (s : State) (f : Ctx → Ctx) : (s.modMe f).cur = s.cur := rfl
@[simp] theorem State.modMe_mem (s : State) (f : Ctx → Ctx) : (s.modMe f).mem = s.mem := rfl
@[simp] theorem State.modMe_full (s : State) (f : Ctx → Ctx) : (s.modMe f).full = s.full := rfl
@[simp] theorem State.modMe_poison (s : State) (f : Ctx → Ctx) : (s.modMe f).poison = s.poison := rfl
@[simp] theorem State.modMe_latent (s : State) (f : Ctx → Ctx) : (s.modMe f).latent = s.latent := rfl
@[simp] theorem State.modMe_net (s : State) (f : Ctx → Ctx) : (s.modMe f).net = s.net := rfl
@[simp] theorem State.modMe_parts (s : State) (f : Ctx → Ctx) : (s.modMe f).parts = s.parts := rfl
@[simp] theorem State.modMe_queues (s : State) (f : Ctx → Ctx) : (s.modMe f).queues = s.queues := rfl
@[simp] theorem State.modMe_fields (s : State) (f : Ctx → Ctx) : (s.modMe f).fields = s.fields := rfl
@[simp] theorem State.modMe_links (s : State) (f : Ctx → Ctx) : (s.modMe f).links = s.links := rfl
@[simp] theorem State.modMe_linkKeys (s : State) (f : Ctx → Ctx) : (s.modMe f).linkKeys = s.linkKeys := rfl
@[simp] theorem State.modMe_left (s : State) (f : Ctx → Ctx) : (s.modMe f).left = s.left := rfl
@[simp] theorem State.modMe_badSpares (s : State) (f : Ctx → Ctx) : (s.modMe f).badSpares = s.badSpares := rfl
@[simp] theorem State.modMe_spareVaults (s : State) (f : Ctx → Ctx) : (s.modMe f).spareVaults = s.spareVaults := rfl
@[simp] theorem State.modMe_badLanes (s : State) (f : Ctx → Ctx) : (s.modMe f).badLanes = s.badLanes := rfl
@[simp] theorem State.modMe_ringSlot (s : State) (f : Ctx → Ctx) : (s.modMe f).ringSlot = s.ringSlot := rfl
@[simp] theorem State.modMe_hostReqs (s : State) (f : Ctx → Ctx) : (s.modMe f).hostReqs = s.hostReqs := rfl
@[simp] theorem State.modMe_frameq (s : State) (f : Ctx → Ctx) : (s.modMe f).frameq = s.frameq := rfl
@[simp] theorem State.modMe_frames (s : State) (f : Ctx → Ctx) : (s.modMe f).frames = s.frames := rfl
@[simp] theorem State.modMe_ioq (s : State) (f : Ctx → Ctx) : (s.modMe f).ioq = s.ioq := rfl
@[simp] theorem State.modMe_peerReqs (s : State) (f : Ctx → Ctx) : (s.modMe f).peerReqs = s.peerReqs := rfl
@[simp] theorem State.modMe_retired (s : State) (f : Ctx → Ctx) : (s.modMe f).retired = s.retired := rfl
@[simp] theorem State.modMe_unavailable (s : State) (f : Ctx → Ctx) : (s.modMe f).unavailable = s.unavailable := rfl
@[simp] theorem State.modMe_up (s : State) (f : Ctx → Ctx) : (s.modMe f).up = s.up := rfl
@[simp] theorem State.modMe_cooling (s : State) (f : Ctx → Ctx) : (s.modMe f).cooling = s.cooling := rfl
@[simp] theorem State.modMe_stopped (s : State) (f : Ctx → Ctx) : (s.modMe f).stopped = s.stopped := rfl
@[simp] theorem State.modMe_budget (s : State) (f : Ctx → Ctx) : (s.modMe f).budget = s.budget := rfl
@[simp] theorem State.modMe_out (s : State) (f : Ctx → Ctx) : (s.modMe f).out = s.out := rfl
@[simp] theorem State.modMe_pfSeq (s : State) (f : Ctx → Ctx) : (s.modMe f).pfSeq = s.pfSeq := rfl
@[simp] theorem State.modMe_fresh (s : State) (f : Ctx → Ctx) : (s.modMe f).fresh = s.fresh := rfl
@[simp] theorem State.modMe_reqNo (s : State) (f : Ctx → Ctx) : (s.modMe f).reqNo = s.reqNo := rfl
@[simp] theorem State.modMe_agenda (s : State) (f : Ctx → Ctx) : (s.modMe f).agenda = s.agenda := rfl
@[simp] theorem State.modTh_cur (s : State) (f : Thread → Thread) : (s.modTh f).cur = s.cur := rfl
@[simp] theorem State.modTh_mem (s : State) (f : Thread → Thread) : (s.modTh f).mem = s.mem := rfl
@[simp] theorem State.modTh_full (s : State) (f : Thread → Thread) : (s.modTh f).full = s.full := rfl
@[simp] theorem State.modTh_poison (s : State) (f : Thread → Thread) : (s.modTh f).poison = s.poison := rfl
@[simp] theorem State.modTh_latent (s : State) (f : Thread → Thread) : (s.modTh f).latent = s.latent := rfl
@[simp] theorem State.modTh_net (s : State) (f : Thread → Thread) : (s.modTh f).net = s.net := rfl
@[simp] theorem State.modTh_parts (s : State) (f : Thread → Thread) : (s.modTh f).parts = s.parts := rfl
@[simp] theorem State.modTh_queues (s : State) (f : Thread → Thread) : (s.modTh f).queues = s.queues := rfl
@[simp] theorem State.modTh_fields (s : State) (f : Thread → Thread) : (s.modTh f).fields = s.fields := rfl
@[simp] theorem State.modTh_links (s : State) (f : Thread → Thread) : (s.modTh f).links = s.links := rfl
@[simp] theorem State.modTh_linkKeys (s : State) (f : Thread → Thread) : (s.modTh f).linkKeys = s.linkKeys := rfl
@[simp] theorem State.modTh_left (s : State) (f : Thread → Thread) : (s.modTh f).left = s.left := rfl
@[simp] theorem State.modTh_badSpares (s : State) (f : Thread → Thread) : (s.modTh f).badSpares = s.badSpares := rfl
@[simp] theorem State.modTh_spareVaults (s : State) (f : Thread → Thread) : (s.modTh f).spareVaults = s.spareVaults := rfl
@[simp] theorem State.modTh_badLanes (s : State) (f : Thread → Thread) : (s.modTh f).badLanes = s.badLanes := rfl
@[simp] theorem State.modTh_ringSlot (s : State) (f : Thread → Thread) : (s.modTh f).ringSlot = s.ringSlot := rfl
@[simp] theorem State.modTh_hostReqs (s : State) (f : Thread → Thread) : (s.modTh f).hostReqs = s.hostReqs := rfl
@[simp] theorem State.modTh_frameq (s : State) (f : Thread → Thread) : (s.modTh f).frameq = s.frameq := rfl
@[simp] theorem State.modTh_frames (s : State) (f : Thread → Thread) : (s.modTh f).frames = s.frames := rfl
@[simp] theorem State.modTh_ioq (s : State) (f : Thread → Thread) : (s.modTh f).ioq = s.ioq := rfl
@[simp] theorem State.modTh_peerReqs (s : State) (f : Thread → Thread) : (s.modTh f).peerReqs = s.peerReqs := rfl
@[simp] theorem State.modTh_retired (s : State) (f : Thread → Thread) : (s.modTh f).retired = s.retired := rfl
@[simp] theorem State.modTh_unavailable (s : State) (f : Thread → Thread) : (s.modTh f).unavailable = s.unavailable := rfl
@[simp] theorem State.modTh_up (s : State) (f : Thread → Thread) : (s.modTh f).up = s.up := rfl
@[simp] theorem State.modTh_cooling (s : State) (f : Thread → Thread) : (s.modTh f).cooling = s.cooling := rfl
@[simp] theorem State.modTh_stopped (s : State) (f : Thread → Thread) : (s.modTh f).stopped = s.stopped := rfl
@[simp] theorem State.modTh_budget (s : State) (f : Thread → Thread) : (s.modTh f).budget = s.budget := rfl
@[simp] theorem State.modTh_out (s : State) (f : Thread → Thread) : (s.modTh f).out = s.out := rfl
@[simp] theorem State.modTh_pfSeq (s : State) (f : Thread → Thread) : (s.modTh f).pfSeq = s.pfSeq := rfl
@[simp] theorem State.modTh_fresh (s : State) (f : Thread → Thread) : (s.modTh f).fresh = s.fresh := rfl
@[simp] theorem State.modTh_reqNo (s : State) (f : Thread → Thread) : (s.modTh f).reqNo = s.reqNo := rfl
@[simp] theorem State.modTh_agenda (s : State) (f : Thread → Thread) : (s.modTh f).agenda = s.agenda := rfl
@[simp] theorem State.nextFresh_cur (s : State) : (s.nextFresh).cur = s.cur := rfl
@[simp] theorem State.nextFresh_mem (s : State) : (s.nextFresh).mem = s.mem := rfl
@[simp] theorem State.nextFresh_full (s : State) : (s.nextFresh).full = s.full := rfl
@[simp] theorem State.nextFresh_poison (s : State) : (s.nextFresh).poison = s.poison := rfl
@[simp] theorem State.nextFresh_latent (s : State) : (s.nextFresh).latent = s.latent := rfl
@[simp] theorem State.nextFresh_tiles (s : State) : (s.nextFresh).tiles = s.tiles := rfl
@[simp] theorem State.nextFresh_net (s : State) : (s.nextFresh).net = s.net := rfl
@[simp] theorem State.nextFresh_parts (s : State) : (s.nextFresh).parts = s.parts := rfl
@[simp] theorem State.nextFresh_queues (s : State) : (s.nextFresh).queues = s.queues := rfl
@[simp] theorem State.nextFresh_fields (s : State) : (s.nextFresh).fields = s.fields := rfl
@[simp] theorem State.nextFresh_links (s : State) : (s.nextFresh).links = s.links := rfl
@[simp] theorem State.nextFresh_linkKeys (s : State) : (s.nextFresh).linkKeys = s.linkKeys := rfl
@[simp] theorem State.nextFresh_left (s : State) : (s.nextFresh).left = s.left := rfl
@[simp] theorem State.nextFresh_badSpares (s : State) : (s.nextFresh).badSpares = s.badSpares := rfl
@[simp] theorem State.nextFresh_spareVaults (s : State) : (s.nextFresh).spareVaults = s.spareVaults := rfl
@[simp] theorem State.nextFresh_badLanes (s : State) : (s.nextFresh).badLanes = s.badLanes := rfl
@[simp] theorem State.nextFresh_ringSlot (s : State) : (s.nextFresh).ringSlot = s.ringSlot := rfl
@[simp] theorem State.nextFresh_hostReqs (s : State) : (s.nextFresh).hostReqs = s.hostReqs := rfl
@[simp] theorem State.nextFresh_frameq (s : State) : (s.nextFresh).frameq = s.frameq := rfl
@[simp] theorem State.nextFresh_frames (s : State) : (s.nextFresh).frames = s.frames := rfl
@[simp] theorem State.nextFresh_ioq (s : State) : (s.nextFresh).ioq = s.ioq := rfl
@[simp] theorem State.nextFresh_peerReqs (s : State) : (s.nextFresh).peerReqs = s.peerReqs := rfl
@[simp] theorem State.nextFresh_retired (s : State) : (s.nextFresh).retired = s.retired := rfl
@[simp] theorem State.nextFresh_unavailable (s : State) : (s.nextFresh).unavailable = s.unavailable := rfl
@[simp] theorem State.nextFresh_up (s : State) : (s.nextFresh).up = s.up := rfl
@[simp] theorem State.nextFresh_cooling (s : State) : (s.nextFresh).cooling = s.cooling := rfl
@[simp] theorem State.nextFresh_stopped (s : State) : (s.nextFresh).stopped = s.stopped := rfl
@[simp] theorem State.nextFresh_budget (s : State) : (s.nextFresh).budget = s.budget := rfl
@[simp] theorem State.nextFresh_out (s : State) : (s.nextFresh).out = s.out := rfl
@[simp] theorem State.nextFresh_pfSeq (s : State) : (s.nextFresh).pfSeq = s.pfSeq := rfl
@[simp] theorem State.nextFresh_reqNo (s : State) : (s.nextFresh).reqNo = s.reqNo := rfl
@[simp] theorem State.nextFresh_agenda (s : State) : (s.nextFresh).agenda = s.agenda := rfl
@[simp] theorem State.nextReq_cur (s : State) : (s.nextReq).cur = s.cur := rfl
@[simp] theorem State.nextReq_mem (s : State) : (s.nextReq).mem = s.mem := rfl
@[simp] theorem State.nextReq_full (s : State) : (s.nextReq).full = s.full := rfl
@[simp] theorem State.nextReq_poison (s : State) : (s.nextReq).poison = s.poison := rfl
@[simp] theorem State.nextReq_latent (s : State) : (s.nextReq).latent = s.latent := rfl
@[simp] theorem State.nextReq_tiles (s : State) : (s.nextReq).tiles = s.tiles := rfl
@[simp] theorem State.nextReq_net (s : State) : (s.nextReq).net = s.net := rfl
@[simp] theorem State.nextReq_parts (s : State) : (s.nextReq).parts = s.parts := rfl
@[simp] theorem State.nextReq_queues (s : State) : (s.nextReq).queues = s.queues := rfl
@[simp] theorem State.nextReq_fields (s : State) : (s.nextReq).fields = s.fields := rfl
@[simp] theorem State.nextReq_links (s : State) : (s.nextReq).links = s.links := rfl
@[simp] theorem State.nextReq_linkKeys (s : State) : (s.nextReq).linkKeys = s.linkKeys := rfl
@[simp] theorem State.nextReq_left (s : State) : (s.nextReq).left = s.left := rfl
@[simp] theorem State.nextReq_badSpares (s : State) : (s.nextReq).badSpares = s.badSpares := rfl
@[simp] theorem State.nextReq_spareVaults (s : State) : (s.nextReq).spareVaults = s.spareVaults := rfl
@[simp] theorem State.nextReq_badLanes (s : State) : (s.nextReq).badLanes = s.badLanes := rfl
@[simp] theorem State.nextReq_ringSlot (s : State) : (s.nextReq).ringSlot = s.ringSlot := rfl
@[simp] theorem State.nextReq_hostReqs (s : State) : (s.nextReq).hostReqs = s.hostReqs := rfl
@[simp] theorem State.nextReq_frameq (s : State) : (s.nextReq).frameq = s.frameq := rfl
@[simp] theorem State.nextReq_frames (s : State) : (s.nextReq).frames = s.frames := rfl
@[simp] theorem State.nextReq_ioq (s : State) : (s.nextReq).ioq = s.ioq := rfl
@[simp] theorem State.nextReq_peerReqs (s : State) : (s.nextReq).peerReqs = s.peerReqs := rfl
@[simp] theorem State.nextReq_retired (s : State) : (s.nextReq).retired = s.retired := rfl
@[simp] theorem State.nextReq_unavailable (s : State) : (s.nextReq).unavailable = s.unavailable := rfl
@[simp] theorem State.nextReq_up (s : State) : (s.nextReq).up = s.up := rfl
@[simp] theorem State.nextReq_cooling (s : State) : (s.nextReq).cooling = s.cooling := rfl
@[simp] theorem State.nextReq_stopped (s : State) : (s.nextReq).stopped = s.stopped := rfl
@[simp] theorem State.nextReq_budget (s : State) : (s.nextReq).budget = s.budget := rfl
@[simp] theorem State.nextReq_out (s : State) : (s.nextReq).out = s.out := rfl
@[simp] theorem State.nextReq_pfSeq (s : State) : (s.nextReq).pfSeq = s.pfSeq := rfl
@[simp] theorem State.nextReq_fresh (s : State) : (s.nextReq).fresh = s.fresh := rfl
@[simp] theorem State.nextReq_agenda (s : State) : (s.nextReq).agenda = s.agenda := rfl
@[simp] theorem State.setPart_cur (s : State) (p : Part) : (s.setPart p).cur = s.cur := rfl
@[simp] theorem State.setPart_mem (s : State) (p : Part) : (s.setPart p).mem = s.mem := rfl
@[simp] theorem State.setPart_full (s : State) (p : Part) : (s.setPart p).full = s.full := rfl
@[simp] theorem State.setPart_poison (s : State) (p : Part) : (s.setPart p).poison = s.poison := rfl
@[simp] theorem State.setPart_latent (s : State) (p : Part) : (s.setPart p).latent = s.latent := rfl
@[simp] theorem State.setPart_tiles (s : State) (p : Part) : (s.setPart p).tiles = s.tiles := rfl
@[simp] theorem State.setPart_net (s : State) (p : Part) : (s.setPart p).net = s.net := rfl
@[simp] theorem State.setPart_queues (s : State) (p : Part) : (s.setPart p).queues = s.queues := rfl
@[simp] theorem State.setPart_fields (s : State) (p : Part) : (s.setPart p).fields = s.fields := rfl
@[simp] theorem State.setPart_links (s : State) (p : Part) : (s.setPart p).links = s.links := rfl
@[simp] theorem State.setPart_linkKeys (s : State) (p : Part) : (s.setPart p).linkKeys = s.linkKeys := rfl
@[simp] theorem State.setPart_left (s : State) (p : Part) : (s.setPart p).left = s.left := rfl
@[simp] theorem State.setPart_badSpares (s : State) (p : Part) : (s.setPart p).badSpares = s.badSpares := rfl
@[simp] theorem State.setPart_spareVaults (s : State) (p : Part) : (s.setPart p).spareVaults = s.spareVaults := rfl
@[simp] theorem State.setPart_badLanes (s : State) (p : Part) : (s.setPart p).badLanes = s.badLanes := rfl
@[simp] theorem State.setPart_ringSlot (s : State) (p : Part) : (s.setPart p).ringSlot = s.ringSlot := rfl
@[simp] theorem State.setPart_hostReqs (s : State) (p : Part) : (s.setPart p).hostReqs = s.hostReqs := rfl
@[simp] theorem State.setPart_frameq (s : State) (p : Part) : (s.setPart p).frameq = s.frameq := rfl
@[simp] theorem State.setPart_frames (s : State) (p : Part) : (s.setPart p).frames = s.frames := rfl
@[simp] theorem State.setPart_ioq (s : State) (p : Part) : (s.setPart p).ioq = s.ioq := rfl
@[simp] theorem State.setPart_peerReqs (s : State) (p : Part) : (s.setPart p).peerReqs = s.peerReqs := rfl
@[simp] theorem State.setPart_retired (s : State) (p : Part) : (s.setPart p).retired = s.retired := rfl
@[simp] theorem State.setPart_unavailable (s : State) (p : Part) : (s.setPart p).unavailable = s.unavailable := rfl
@[simp] theorem State.setPart_up (s : State) (p : Part) : (s.setPart p).up = s.up := rfl
@[simp] theorem State.setPart_cooling (s : State) (p : Part) : (s.setPart p).cooling = s.cooling := rfl
@[simp] theorem State.setPart_stopped (s : State) (p : Part) : (s.setPart p).stopped = s.stopped := rfl
@[simp] theorem State.setPart_budget (s : State) (p : Part) : (s.setPart p).budget = s.budget := rfl
@[simp] theorem State.setPart_out (s : State) (p : Part) : (s.setPart p).out = s.out := rfl
@[simp] theorem State.setPart_pfSeq (s : State) (p : Part) : (s.setPart p).pfSeq = s.pfSeq := rfl
@[simp] theorem State.setPart_fresh (s : State) (p : Part) : (s.setPart p).fresh = s.fresh := rfl
@[simp] theorem State.setPart_reqNo (s : State) (p : Part) : (s.setPart p).reqNo = s.reqNo := rfl
@[simp] theorem State.setPart_agenda (s : State) (p : Part) : (s.setPart p).agenda = s.agenda := rfl
@[simp] theorem State.modField_cur (s : State) (i : Nat) (f : Field → Field) : (s.modField i f).cur = s.cur := rfl
@[simp] theorem State.modField_mem (s : State) (i : Nat) (f : Field → Field) : (s.modField i f).mem = s.mem := rfl
@[simp] theorem State.modField_full (s : State) (i : Nat) (f : Field → Field) : (s.modField i f).full = s.full := rfl
@[simp] theorem State.modField_poison (s : State) (i : Nat) (f : Field → Field) : (s.modField i f).poison = s.poison := rfl
@[simp] theorem State.modField_latent (s : State) (i : Nat) (f : Field → Field) : (s.modField i f).latent = s.latent := rfl
@[simp] theorem State.modField_tiles (s : State) (i : Nat) (f : Field → Field) : (s.modField i f).tiles = s.tiles := rfl
@[simp] theorem State.modField_net (s : State) (i : Nat) (f : Field → Field) : (s.modField i f).net = s.net := rfl
@[simp] theorem State.modField_parts (s : State) (i : Nat) (f : Field → Field) : (s.modField i f).parts = s.parts := rfl
@[simp] theorem State.modField_queues (s : State) (i : Nat) (f : Field → Field) : (s.modField i f).queues = s.queues := rfl
@[simp] theorem State.modField_links (s : State) (i : Nat) (f : Field → Field) : (s.modField i f).links = s.links := rfl
@[simp] theorem State.modField_linkKeys (s : State) (i : Nat) (f : Field → Field) : (s.modField i f).linkKeys = s.linkKeys := rfl
@[simp] theorem State.modField_left (s : State) (i : Nat) (f : Field → Field) : (s.modField i f).left = s.left := rfl
@[simp] theorem State.modField_badSpares (s : State) (i : Nat) (f : Field → Field) : (s.modField i f).badSpares = s.badSpares := rfl
@[simp] theorem State.modField_spareVaults (s : State) (i : Nat) (f : Field → Field) : (s.modField i f).spareVaults = s.spareVaults := rfl
@[simp] theorem State.modField_badLanes (s : State) (i : Nat) (f : Field → Field) : (s.modField i f).badLanes = s.badLanes := rfl
@[simp] theorem State.modField_ringSlot (s : State) (i : Nat) (f : Field → Field) : (s.modField i f).ringSlot = s.ringSlot := rfl
@[simp] theorem State.modField_hostReqs (s : State) (i : Nat) (f : Field → Field) : (s.modField i f).hostReqs = s.hostReqs := rfl
@[simp] theorem State.modField_frameq (s : State) (i : Nat) (f : Field → Field) : (s.modField i f).frameq = s.frameq := rfl
@[simp] theorem State.modField_frames (s : State) (i : Nat) (f : Field → Field) : (s.modField i f).frames = s.frames := rfl
@[simp] theorem State.modField_ioq (s : State) (i : Nat) (f : Field → Field) : (s.modField i f).ioq = s.ioq := rfl
@[simp] theorem State.modField_peerReqs (s : State) (i : Nat) (f : Field → Field) : (s.modField i f).peerReqs = s.peerReqs := rfl
@[simp] theorem State.modField_retired (s : State) (i : Nat) (f : Field → Field) : (s.modField i f).retired = s.retired := rfl
@[simp] theorem State.modField_unavailable (s : State) (i : Nat) (f : Field → Field) : (s.modField i f).unavailable = s.unavailable := rfl
@[simp] theorem State.modField_up (s : State) (i : Nat) (f : Field → Field) : (s.modField i f).up = s.up := rfl
@[simp] theorem State.modField_cooling (s : State) (i : Nat) (f : Field → Field) : (s.modField i f).cooling = s.cooling := rfl
@[simp] theorem State.modField_stopped (s : State) (i : Nat) (f : Field → Field) : (s.modField i f).stopped = s.stopped := rfl
@[simp] theorem State.modField_budget (s : State) (i : Nat) (f : Field → Field) : (s.modField i f).budget = s.budget := rfl
@[simp] theorem State.modField_out (s : State) (i : Nat) (f : Field → Field) : (s.modField i f).out = s.out := rfl
@[simp] theorem State.modField_pfSeq (s : State) (i : Nat) (f : Field → Field) : (s.modField i f).pfSeq = s.pfSeq := rfl
@[simp] theorem State.modField_fresh (s : State) (i : Nat) (f : Field → Field) : (s.modField i f).fresh = s.fresh := rfl
@[simp] theorem State.modField_reqNo (s : State) (i : Nat) (f : Field → Field) : (s.modField i f).reqNo = s.reqNo := rfl
@[simp] theorem State.modField_agenda (s : State) (i : Nat) (f : Field → Field) : (s.modField i f).agenda = s.agenda := rfl
@[simp] theorem State.send_cur (s : State) (a b vc : Nat) (q : Body) : (s.send a b vc q).cur = s.cur := rfl
@[simp] theorem State.send_mem (s : State) (a b vc : Nat) (q : Body) : (s.send a b vc q).mem = s.mem := rfl
@[simp] theorem State.send_full (s : State) (a b vc : Nat) (q : Body) : (s.send a b vc q).full = s.full := rfl
@[simp] theorem State.send_poison (s : State) (a b vc : Nat) (q : Body) : (s.send a b vc q).poison = s.poison := rfl
@[simp] theorem State.send_latent (s : State) (a b vc : Nat) (q : Body) : (s.send a b vc q).latent = s.latent := rfl
@[simp] theorem State.send_tiles (s : State) (a b vc : Nat) (q : Body) : (s.send a b vc q).tiles = s.tiles := rfl
@[simp] theorem State.send_parts (s : State) (a b vc : Nat) (q : Body) : (s.send a b vc q).parts = s.parts := rfl
@[simp] theorem State.send_queues (s : State) (a b vc : Nat) (q : Body) : (s.send a b vc q).queues = s.queues := rfl
@[simp] theorem State.send_fields (s : State) (a b vc : Nat) (q : Body) : (s.send a b vc q).fields = s.fields := rfl
@[simp] theorem State.send_links (s : State) (a b vc : Nat) (q : Body) : (s.send a b vc q).links = s.links := rfl
@[simp] theorem State.send_linkKeys (s : State) (a b vc : Nat) (q : Body) : (s.send a b vc q).linkKeys = s.linkKeys := rfl
@[simp] theorem State.send_left (s : State) (a b vc : Nat) (q : Body) : (s.send a b vc q).left = s.left := rfl
@[simp] theorem State.send_badSpares (s : State) (a b vc : Nat) (q : Body) : (s.send a b vc q).badSpares = s.badSpares := rfl
@[simp] theorem State.send_spareVaults (s : State) (a b vc : Nat) (q : Body) : (s.send a b vc q).spareVaults = s.spareVaults := rfl
@[simp] theorem State.send_badLanes (s : State) (a b vc : Nat) (q : Body) : (s.send a b vc q).badLanes = s.badLanes := rfl
@[simp] theorem State.send_ringSlot (s : State) (a b vc : Nat) (q : Body) : (s.send a b vc q).ringSlot = s.ringSlot := rfl
@[simp] theorem State.send_hostReqs (s : State) (a b vc : Nat) (q : Body) : (s.send a b vc q).hostReqs = s.hostReqs := rfl
@[simp] theorem State.send_frameq (s : State) (a b vc : Nat) (q : Body) : (s.send a b vc q).frameq = s.frameq := rfl
@[simp] theorem State.send_frames (s : State) (a b vc : Nat) (q : Body) : (s.send a b vc q).frames = s.frames := rfl
@[simp] theorem State.send_ioq (s : State) (a b vc : Nat) (q : Body) : (s.send a b vc q).ioq = s.ioq := rfl
@[simp] theorem State.send_peerReqs (s : State) (a b vc : Nat) (q : Body) : (s.send a b vc q).peerReqs = s.peerReqs := rfl
@[simp] theorem State.send_retired (s : State) (a b vc : Nat) (q : Body) : (s.send a b vc q).retired = s.retired := rfl
@[simp] theorem State.send_unavailable (s : State) (a b vc : Nat) (q : Body) : (s.send a b vc q).unavailable = s.unavailable := rfl
@[simp] theorem State.send_up (s : State) (a b vc : Nat) (q : Body) : (s.send a b vc q).up = s.up := rfl
@[simp] theorem State.send_cooling (s : State) (a b vc : Nat) (q : Body) : (s.send a b vc q).cooling = s.cooling := rfl
@[simp] theorem State.send_stopped (s : State) (a b vc : Nat) (q : Body) : (s.send a b vc q).stopped = s.stopped := rfl
@[simp] theorem State.send_budget (s : State) (a b vc : Nat) (q : Body) : (s.send a b vc q).budget = s.budget := rfl
@[simp] theorem State.send_out (s : State) (a b vc : Nat) (q : Body) : (s.send a b vc q).out = s.out := rfl
@[simp] theorem State.send_pfSeq (s : State) (a b vc : Nat) (q : Body) : (s.send a b vc q).pfSeq = s.pfSeq := rfl
@[simp] theorem State.send_fresh (s : State) (a b vc : Nat) (q : Body) : (s.send a b vc q).fresh = s.fresh := rfl
@[simp] theorem State.send_reqNo (s : State) (a b vc : Nat) (q : Body) : (s.send a b vc q).reqNo = s.reqNo := rfl
@[simp] theorem State.send_agenda (s : State) (a b vc : Nat) (q : Body) : (s.send a b vc q).agenda = s.agenda := rfl
@[simp] theorem State.dropPkt_cur (s : State) (n : Nat) : (s.dropPkt n).cur = s.cur := rfl
@[simp] theorem State.dropPkt_mem (s : State) (n : Nat) : (s.dropPkt n).mem = s.mem := rfl
@[simp] theorem State.dropPkt_full (s : State) (n : Nat) : (s.dropPkt n).full = s.full := rfl
@[simp] theorem State.dropPkt_poison (s : State) (n : Nat) : (s.dropPkt n).poison = s.poison := rfl
@[simp] theorem State.dropPkt_latent (s : State) (n : Nat) : (s.dropPkt n).latent = s.latent := rfl
@[simp] theorem State.dropPkt_tiles (s : State) (n : Nat) : (s.dropPkt n).tiles = s.tiles := rfl
@[simp] theorem State.dropPkt_parts (s : State) (n : Nat) : (s.dropPkt n).parts = s.parts := rfl
@[simp] theorem State.dropPkt_queues (s : State) (n : Nat) : (s.dropPkt n).queues = s.queues := rfl
@[simp] theorem State.dropPkt_fields (s : State) (n : Nat) : (s.dropPkt n).fields = s.fields := rfl
@[simp] theorem State.dropPkt_links (s : State) (n : Nat) : (s.dropPkt n).links = s.links := rfl
@[simp] theorem State.dropPkt_linkKeys (s : State) (n : Nat) : (s.dropPkt n).linkKeys = s.linkKeys := rfl
@[simp] theorem State.dropPkt_left (s : State) (n : Nat) : (s.dropPkt n).left = s.left := rfl
@[simp] theorem State.dropPkt_badSpares (s : State) (n : Nat) : (s.dropPkt n).badSpares = s.badSpares := rfl
@[simp] theorem State.dropPkt_spareVaults (s : State) (n : Nat) : (s.dropPkt n).spareVaults = s.spareVaults := rfl
@[simp] theorem State.dropPkt_badLanes (s : State) (n : Nat) : (s.dropPkt n).badLanes = s.badLanes := rfl
@[simp] theorem State.dropPkt_ringSlot (s : State) (n : Nat) : (s.dropPkt n).ringSlot = s.ringSlot := rfl
@[simp] theorem State.dropPkt_hostReqs (s : State) (n : Nat) : (s.dropPkt n).hostReqs = s.hostReqs := rfl
@[simp] theorem State.dropPkt_frameq (s : State) (n : Nat) : (s.dropPkt n).frameq = s.frameq := rfl
@[simp] theorem State.dropPkt_frames (s : State) (n : Nat) : (s.dropPkt n).frames = s.frames := rfl
@[simp] theorem State.dropPkt_ioq (s : State) (n : Nat) : (s.dropPkt n).ioq = s.ioq := rfl
@[simp] theorem State.dropPkt_peerReqs (s : State) (n : Nat) : (s.dropPkt n).peerReqs = s.peerReqs := rfl
@[simp] theorem State.dropPkt_retired (s : State) (n : Nat) : (s.dropPkt n).retired = s.retired := rfl
@[simp] theorem State.dropPkt_unavailable (s : State) (n : Nat) : (s.dropPkt n).unavailable = s.unavailable := rfl
@[simp] theorem State.dropPkt_up (s : State) (n : Nat) : (s.dropPkt n).up = s.up := rfl
@[simp] theorem State.dropPkt_cooling (s : State) (n : Nat) : (s.dropPkt n).cooling = s.cooling := rfl
@[simp] theorem State.dropPkt_stopped (s : State) (n : Nat) : (s.dropPkt n).stopped = s.stopped := rfl
@[simp] theorem State.dropPkt_budget (s : State) (n : Nat) : (s.dropPkt n).budget = s.budget := rfl
@[simp] theorem State.dropPkt_out (s : State) (n : Nat) : (s.dropPkt n).out = s.out := rfl
@[simp] theorem State.dropPkt_pfSeq (s : State) (n : Nat) : (s.dropPkt n).pfSeq = s.pfSeq := rfl
@[simp] theorem State.dropPkt_fresh (s : State) (n : Nat) : (s.dropPkt n).fresh = s.fresh := rfl
@[simp] theorem State.dropPkt_reqNo (s : State) (n : Nat) : (s.dropPkt n).reqNo = s.reqNo := rfl
@[simp] theorem State.dropPkt_agenda (s : State) (n : Nat) : (s.dropPkt n).agenda = s.agenda := rfl

-- Reading back.
@[simp] theorem State.tile_setTile (s : State) (t : Tile) (x : TileSt) : (s.setTile t x).tile t = x := aget_aput_same _ _ _ _
theorem State.tile_setTile_ne (s : State) (t u : Tile) (x : TileSt) (h : u ≠ t) : (s.setTile t x).tile u = s.tile u :=
  aget_aput_ne _ _ _ _ _ h
@[simp] theorem State.tile_modTile (s : State) (t : Tile) (f : TileSt → TileSt) : (s.modTile t f).tile t = f (s.tile t) :=
  State.tile_setTile _ _ _
theorem State.tile_modTile_ne (s : State) (t u : Tile) (f : TileSt → TileSt) (h : u ≠ t) : (s.modTile t f).tile u = s.tile u :=
  State.tile_setTile_ne _ _ _ _ h
@[simp] theorem State.tile_setCtx (s : State) (t : Tile) (c : Nat) (x : Ctx) :
    (s.setCtx t c x).tile t = { s.tile t with ctxs := aput (s.tile t).ctxs c x } := State.tile_modTile _ _ _
theorem State.tile_setCtx_ne (s : State) (t u : Tile) (c : Nat) (x : Ctx) (h : u ≠ t) : (s.setCtx t c x).tile u = s.tile u :=
  State.tile_modTile_ne _ _ _ _ h
@[simp] theorem State.ctx_setCtx (s : State) (t : Tile) (c : Nat) (x : Ctx) : (s.setCtx t c x).ctx t c = x := by
  simp [State.ctx]
theorem State.ctx_setCtx_ne (s : State) (t u : Tile) (c d : Nat) (x : Ctx) (h : u ≠ t ∨ d ≠ c) :
    (s.setCtx t c x).ctx u d = s.ctx u d := by
  by_cases hu : u = t
  · subst hu
    have hd : d ≠ c := h.resolve_left fun e => e rfl
    simp [State.ctx, aget_aput_ne _ _ _ _ _ hd]
  · simp [State.ctx, State.tile_setCtx_ne _ _ _ _ _ hu]
@[simp] theorem State.ctx_modCtx (s : State) (t : Tile) (c : Nat) (f : Ctx → Ctx) : (s.modCtx t c f).ctx t c = f (s.ctx t c) :=
  State.ctx_setCtx _ _ _ _
theorem State.ctx_modCtx_ne (s : State) (t u : Tile) (c d : Nat) (f : Ctx → Ctx) (h : u ≠ t ∨ d ≠ c) :
    (s.modCtx t c f).ctx u d = s.ctx u d := State.ctx_setCtx_ne _ _ _ _ _ _ h
@[simp] theorem State.me_modMe (s : State) (f : Ctx → Ctx) : (s.modMe f).me = f s.me := State.ctx_modCtx _ _ _ _
@[simp] theorem State.me_modTh (s : State) (f : Thread → Thread) : (s.modTh f).me = { s.me with th := f s.th } := State.me_modMe _ _
@[simp] theorem State.th_modMe (s : State) (f : Ctx → Ctx) : (s.modMe f).th = (f s.me).th := congrArg Ctx.th (State.me_modMe s f)
@[simp] theorem State.th_modTh (s : State) (f : Thread → Thread) : (s.modTh f).th = f s.th := congrArg Ctx.th (State.me_modTh s f)
/-- A change of one context changes nothing else of any tile: p is any reading of a tile that ctxs does not enter. -/
theorem State.proj_setCtx {α : Type} (p : TileSt → α) (hp : ∀ x l, p { x with ctxs := l } = p x) (s : State) (t u : Tile) (c : Nat)
    (x : Ctx) : p ((s.setCtx t c x).tile u) = p (s.tile u) := by
  by_cases h : u = t
  · subst h; rw [State.tile_setCtx]; exact hp _ _
  · rw [State.tile_setCtx_ne _ _ _ _ _ h]
theorem State.proj_modTh {α : Type} (p : TileSt → α) (hp : ∀ x l, p { x with ctxs := l } = p x) (s : State) (u : Tile)
    (f : Thread → Thread) : p ((s.modTh f).tile u) = p (s.tile u) := State.proj_setCtx p hp _ _ _ _ _

end Sys2Proof.Machine
end

