-- ==== Sys2Proof/Laws/Memory.lean ====
section
/-! SUPPORT. Sys2Proof/Laws/Memory.lean: the cells of memory (log 1): reading back a byte, and the canonical form that every
operation on cells keeps. -/

namespace Sys2Proof.Machine

/-- The cells of a list all stand above an address. -/
def above (a : Nat) (m : List Host.Cell) : Prop := ∀ e ∈ m, a < e.1

theorem wf_nil : Memory.wf [] := rfl
/-- Canonical form, one cell at a time. -/
theorem wf_cons {a : Nat} {v : Byte} {m : List Host.Cell} : Memory.wf ((a, v) :: m) ↔ v ≠ 0 ∧ above a m ∧ Memory.wf m := by
  induction m generalizing a v with
  | nil => simp [Memory.wf, cellsOk, above]
  | cons e r ih =>
    obtain ⟨b, w⟩ := e
    have hr := ih (a := b) (v := w)
    simp only [Memory.wf] at hr ⊢
    simp only [cellsOk, Bool.and_eq_true, bne_iff_ne, decide_eq_true_eq, above, List.mem_cons, forall_eq_or_imp, and_assoc]
    constructor
    · rintro ⟨h1, h2, h3⟩
      exact ⟨h1, h2, fun e he => Nat.lt_trans h2 ((hr.1 h3).2.1 e he), h3⟩
    · rintro ⟨h1, h2, -, h3⟩
      exact ⟨h1, h2, h3⟩
theorem wf_tail {e : Host.Cell} {m : List Host.Cell} (h : Memory.wf (e :: m)) : Memory.wf m := (wf_cons.1 h).2.2

/-- A cell written stands no lower than it did or than the cell written. -/
theorem above_cput {m : List Host.Cell} {a b : Nat} {v : Byte} (hb : b < a) (h : above b m) : above b (cput m a v) := by
  induction m with
  | nil => simp only [cput]; split <;> simp [above, hb]
  | cons e r ih =>
    obtain ⟨c, w⟩ := e
    have hc : b < c := h (c, w) List.mem_cons_self
    have hr : above b r := fun e he => h e (List.mem_cons_of_mem _ he)
    have ih := ih hr
    simp only [cput]
    repeat' split
    · exact hr
    all_goals (intro e he; simp only [List.mem_cons] at he)
    · rcases he with rfl | he
      · exact hb
      · exact hr e he
    · rcases he with rfl | he
      · exact hc
      · exact hr e he
    · rcases he with rfl | rfl | he
      · exact hb
      · exact hc
      · exact hr e he
    · rcases he with rfl | he
      · exact hc
      · exact ih e he

/-- R60, log 1: writing a byte keeps the canonical form. -/
theorem cput_wf {m : List Host.Cell} (h : Memory.wf m) (a : Nat) (v : Byte) : Memory.wf (cput m a v) := by
  induction m with
  | nil =>
    simp only [cput]; split
    · rfl
    · exact wf_cons.2 ⟨‹_›, by simp [above], wf_nil⟩
  | cons e r ih =>
    obtain ⟨b, w⟩ := e
    obtain ⟨hw, hab, hr⟩ := wf_cons.1 h
    simp only [cput]
    split
    · subst_vars
      split
      · exact hr
      · exact wf_cons.2 ⟨‹_›, hab, hr⟩
    · split
      · split
        · exact h
        · refine wf_cons.2 ⟨‹_›, ?_, h⟩
          intro e he
          rcases List.mem_cons.1 he with rfl | he
          · assumption
          · exact Nat.lt_trans ‹_› (hab e he)
      · exact wf_cons.2 ⟨hw, above_cput (by omega) hab, ih hr⟩

theorem cputs_wf {m : List Host.Cell} (h : Memory.wf m) (a : Nat) (l : List Byte) : Memory.wf (cputs m a l) := by
  induction l generalizing m a with
  | nil => exact h
  | cons b r ih => exact ih (cput_wf h a b) (a + 1)

theorem filter_wf {m : List Host.Cell} (h : Memory.wf m) (p : Host.Cell → Bool) : Memory.wf (m.filter p) := by
  induction m with
  | nil => exact h
  | cons e r ih =>
    obtain ⟨b, w⟩ := e
    obtain ⟨hw, hab, hr⟩ := wf_cons.1 h
    simp only [List.filter_cons]
    split
    · exact wf_cons.2 ⟨hw, fun e he => hab e (List.mem_of_mem_filter he), ih hr⟩
    · exact ih hr

theorem czero_wf {m : List Host.Cell} (h : Memory.wf m) (a n : Nat) : Memory.wf (czero m a n) := filter_wf h _

theorem foldl_cput_wf (l : List Host.Cell) {m : List Host.Cell} (h : Memory.wf m) :
    Memory.wf (l.foldl (fun m e => cput m e.1 e.2) m) := by
  induction l generalizing m with
  | nil => exact h
  | cons e r ih => exact ih (cput_wf h e.1 e.2)

theorem rawWrite_wf {m : List Host.Cell} (h : Memory.wf m) (base : Nat) (slot : KeySlot) (key : Nat) (tw : Nat → BitVec 128)
    (a : Nat) (l : List Byte) : Memory.wf (rawWrite m base slot key tw a l) := by
  simp only [rawWrite]
  split <;> exact cputs_wf h _ _

-- Reading back.
theorem cget_above {m : List Host.Cell} {a : Nat} (h : above a m) : cget m a = 0 := by
  cases m with
  | nil => rfl
  | cons e r =>
    obtain ⟨b, w⟩ := e
    have : a < b := h (b, w) List.mem_cons_self
    simp [cget, show ¬ b = a by omega, this]

/-- A byte written reads back. -/
theorem cget_cput_same {m : List Host.Cell} (h : Memory.wf m) (a : Nat) (v : Byte) : cget (cput m a v) a = v := by
  induction m with
  | nil => simp only [cput]; split <;> simp_all [cget]
  | cons e r ih =>
    obtain ⟨b, w⟩ := e
    obtain ⟨hw, hab, hr⟩ := wf_cons.1 h
    simp only [cput]
    split
    · subst_vars
      split
      · subst_vars; exact cget_above hab
      · simp [cget]
    · split
      · split
        · subst_vars; simp [cget, *]
        · simp [cget]
      · simp only [cget, ih hr]
        rw [if_neg (by assumption), if_neg (by assumption)]

/-- A write leaves every other byte alone. -/
theorem cget_cput_ne {m : List Host.Cell} (h : Memory.wf m) (a b : Nat) (v : Byte) (hab : b ≠ a) : cget (cput m a v) b = cget m b := by
  induction m with
  | nil => simp only [cput]; split <;> simp [cget, Ne.symm hab]
  | cons e r ih =>
    obtain ⟨c, w⟩ := e
    obtain ⟨hw, habv, hr⟩ := wf_cons.1 h
    simp only [cput]
    split
    · subst_vars
      split
      · simp only [cget, if_neg (Ne.symm hab)]
        split
        · exact cget_above fun e he => Nat.lt_trans ‹_› (habv e he)
        · rfl
      · simp [cget, Ne.symm hab]
    · split
      · split
        · rfl
        · simp only [cget, if_neg (Ne.symm hab)]
          split
          · rw [if_neg (by omega), if_pos (by omega)]
          · rfl
      · simp only [cget, ih hr]

theorem cget_cputs_out {m : List Host.Cell} (h : Memory.wf m) (a b : Nat) (l : List Byte) (hb : b < a ∨ a + l.length ≤ b) :
    cget (cputs m a l) b = cget m b := by
  induction l generalizing m a with
  | nil => rfl
  | cons v r ih =>
    simp only [List.length_cons] at hb
    simp only [cputs]
    rw [ih (cput_wf h a v) (a + 1) (by omega), cget_cput_ne h a b v (by omega)]

theorem cgets_cputs_same {m : List Host.Cell} (h : Memory.wf m) (a : Nat) (l : List Byte) : cgets (cputs m a l) a l.length = l := by
  induction l generalizing m a with
  | nil => rfl
  | cons v r ih =>
    simp only [cputs, List.length_cons, cgets]
    rw [ih (cput_wf h a v) (a + 1), cget_cputs_out (cput_wf h a v) (a + 1) a r (by omega), cget_cput_same h]

theorem cget_czero {m : List Host.Cell} (h : Memory.wf m) (a n b : Nat) :
    cget (czero m a n) b = if a ≤ b ∧ b < a + n then 0 else cget m b := by
  induction m with
  | nil => simp [czero, cget]
  | cons e r ih =>
    obtain ⟨c, w⟩ := e
    obtain ⟨hw, hab, hr⟩ := wf_cons.1 h
    have ih := ih hr
    simp only [czero, List.filter_cons] at ih ⊢
    by_cases hc : a ≤ c ∧ c < a + n
    · simp only [hc.1, hc.2, decide_true, Bool.and_self, Bool.not_true, Bool.false_eq_true, if_false, ih]
      by_cases hb : a ≤ b ∧ b < a + n
      · rw [if_pos hb, if_pos hb]
      · rw [if_neg hb, if_neg hb]
        simp only [cget]
        split
        · subst_vars; exact absurd hc hb
        · split
          · exact cget_above fun e he => Nat.lt_trans ‹_› (hab e he)
          · rfl
    · have : (!(decide (a ≤ c) && decide (c < a + n))) = true := by simp; omega
      rw [if_pos this]
      simp only [cget, ih]
      split
      · subst_vars; rw [if_neg hc]
      · split
        · split <;> rfl
        · rfl

end Sys2Proof.Machine
end

