-- ==== Sys2Proof/Laws/Storage.lean ====
section
/-! SUPPORT. Sys2Proof/Laws/Storage.lean: what the operations on stored bytes do to memory: a read and a translation leave it as it
is, and every write keeps its canonical form. -/

namespace Sys2Proof.Machine

/-- A fold over states keeps the canonical form when each of its steps does. -/
theorem foldl_wf {α : Type} (f : State → α → State) (hf : ∀ s a, Memory.wf s.mem → Memory.wf (f s a).mem) (l : List α) {s : State}
    (h : Memory.wf s.mem) : Memory.wf (l.foldl f s).mem := by
  induction l generalizing s with
  | nil => exact h
  | cons a r ih => exact ih (hf s a h)
/-- A fold over states leaves memory alone when each of its steps does. -/
theorem foldl_mem {α : Type} (f : State → α → State) (hf : ∀ s a, (f s a).mem = s.mem) (l : List α) (s : State) :
    (l.foldl f s).mem = s.mem := by
  induction l generalizing s with
  | nil => rfl
  | cons a r ih => exact (ih (f s a)).trans (hf s a)

-- What leaves memory alone.
@[simp] theorem clearPoison_mem (s : State) (a n : Nat) : (clearPoison s a n).mem = s.mem := rfl
@[simp] theorem genWrite_mem (s : State) (t a n : Nat) : (genWrite s t a n).mem = s.mem := by
  unfold genWrite; split <;> rfl
@[simp] theorem genRun_mem (s : State) (t a n : Nat) : (genRun s t a n).mem = s.mem := by
  unfold genRun; split
  · rfl
  · exact foldl_mem _ (fun _ _ => genWrite_mem ..) _ s
@[simp] theorem meetErrors_mem (s : State) (ws : List Nat) : (meetErrors s ws).mem = s.mem := by
  unfold meetErrors; dsimp only; split <;> rfl
@[simp] theorem exitArr_mem (s : State) (t : Tile) (a : Arr) : (exitArr s t a).mem = s.mem := by
  unfold exitArr; dsimp only; split <;> simp
@[simp] theorem wakeArrays_mem (s : State) (t r b n : Nat) (l2 : Bool) : (wakeArrays s t r b n l2).mem = s.mem := by
  unfold wakeArrays; dsimp only; split
  · rfl
  · exact foldl_mem _ (fun _ _ => exitArr_mem ..) _ s
@[simp] theorem wakeAll_mem (s : State) (l : List Touch) : (wakeAll s l).mem = s.mem := foldl_mem _ (fun _ _ => wakeArrays_mem ..) l s
@[simp] theorem physWake_mem (s : State) (t a n : Nat) : (physWake s t a n).mem = s.mem := wakeArrays_mem ..
@[simp] theorem viewFill_mem (s : State) (t off n : Nat) : (viewFill s t off n).mem = s.mem := by
  unfold viewFill; split
  · rfl
  · simp
@[simp] theorem checkWrite_mem (s : State) (a n : Nat) : (checkWrite s a n).mem = s.mem := by
  unfold checkWrite; split <;> simp
@[simp] theorem writeBack_mem (s : State) (t line : Nat) : (writeBack s t line).mem = s.mem := by
  unfold writeBack; split <;> simp
@[simp] theorem makeRoom_mem (s : State) (t line : Nat) : (makeRoom s t line).mem = s.mem := by
  unfold makeRoom; dsimp only; split <;> simp
@[simp] theorem dirtyLine_mem (s : State) (t key line : Nat) (g : List Nat) : (dirtyLine s t key line g).mem = s.mem := by
  unfold dirtyLine; split <;> simp
@[simp] theorem dirtyLines_mem (s : State) (t key a n : Nat) : (dirtyLines s t key a n).mem = s.mem :=
  foldl_mem _ (fun _ _ => dirtyLine_mem ..) _ s
@[simp] theorem beneathCheck_mem (s : State) (t a n w : Nat) : (beneathCheck s t a n w).mem = s.mem := by
  unfold beneathCheck; dsimp only; split
  · split <;> simp
  · simp
@[simp] theorem afterWrite_mem (s : State) (t off n pa key : Nat) : (afterWrite s t off n pa key).mem = s.mem := by
  unfold afterWrite
  have hw : ∀ (l : List (Word × Nat)) (s : State), (l.foldl (fun s e => if meets off n (fld e.1 0 44) 8 then
      s.send t (fwSite (fieldOf t)) 7 (.wakeNotice e.2) else s) s).mem = s.mem :=
    fun l s => foldl_mem _ (fun s e => by split <;> rfl) l s
  dsimp only
  split
  · exact hw _ s
  · exact (foldl_mem _ (fun s e => by split <;> rfl) _ _).trans (hw _ s)
/-- Translation changes the TLB and the arrays that it uses. -/
theorem xlate_mem {s u : State} {t off : Nat} {k : Acc} {x : Xl} (h : xlate s t off k = .ok (u, x)) : u.mem = s.mem := by
  unfold xlate at h
  dsimp only at h
  split at h
  · simp at h
  · split at h
    · split at h <;> simp_all
    · split at h
      · simp at h
      · split at h
        · simp at h
        · simp only [Except.ok.injEq, Prod.mk.injEq] at h
          rw [← h.1, State.modTile_mem, wakeAll_mem]
/-- A read leaves memory alone. -/
theorem readHome_mem {s u : State} {t off n : Nat} {k : Acc} {l : List Byte} (h : readHome s t off n k = .ok (u, l)) : u.mem = s.mem := by
  unfold readHome at h
  split at h
  · split at h
    · simp at h
    · rename_i hx
      split at h
      · simp at h
      · simp only [Except.ok.injEq, Prod.mk.injEq] at h
        rw [← h.1, wakeArrays_mem]; exact xlate_mem hx
  · split at h
    · simp at h
    · simp only [Except.ok.injEq, Prod.mk.injEq] at h
      rw [← h.1, viewFill_mem]
  · split at h
    · simp at h
    · simp only [Except.ok.injEq, Prod.mk.injEq] at h
      rw [← h.1, wakeArrays_mem]
theorem readPieces_mem {t : Nat} {k : Acc} (ps : List (Nat × Nat)) {s u : State} {l : List Byte} (h : readPieces s t k ps = .ok (u, l)) :
    u.mem = s.mem := by
  induction ps generalizing s u l with
  | nil => simp_all [readPieces]
  | cons p r ih =>
    simp only [readPieces] at h
    split at h
    · simp at h
    · rename_i hr
      split at h
      · simp at h
      · rename_i hs
        simp only [Except.ok.injEq, Prod.mk.injEq] at h
        rw [← h.1]
        exact (ih hs).trans (readHome_mem hr)

-- What writes memory.
theorem vaultWrite_wf {s : State} (h : Memory.wf s.mem) (t key a : Nat) (l : List Byte) : Memory.wf (vaultWrite s t key a l).mem := by
  unfold vaultWrite
  split
  · exact h
  · simp only [genRun_mem, checkWrite_mem]
    exact rawWrite_wf (by simpa using h) ..
theorem beneathByte_wf {s : State} (h : Memory.wf s.mem) (t a : Nat) (v : Byte) : Memory.wf (beneathByte s t a v).mem := by
  unfold beneathByte
  split
  · dsimp only; split
    · exact h
    · exact cput_wf h ..
  · exact cput_wf h ..
theorem beneathGo_wf (l : List Byte) {s : State} (h : Memory.wf s.mem) (t a : Nat) : Memory.wf (beneathGo s t a l).mem := by
  induction l generalizing s a with
  | nil => exact h
  | cons b r ih => exact ih (beneathByte_wf h t a b) (a + 1)
theorem beneathWrite_wf {s : State} (h : Memory.wf s.mem) (t a : Nat) (l : List Byte) : Memory.wf (beneathWrite s t a l).mem := by
  unfold beneathWrite
  rw [genRun_mem]; split
  · exact beneathGo_wf l h t a
  · rw [foldl_mem _ (fun _ _ => beneathCheck_mem ..)]; exact beneathGo_wf l h t a
theorem discardLine_wf {s : State} (h : Memory.wf s.mem) (t line : Nat) : Memory.wf (discardLine s t line).mem := by
  unfold discardLine
  split
  · exact h
  · exact foldl_cput_wf _ (czero_wf h ..)
theorem paneWrite_wf {s : State} (h : Memory.wf s.mem) (t a : Nat) (l : List Byte) : Memory.wf (paneWrite s t a l).mem := by
  unfold paneWrite
  rw [checkWrite_mem]
  exact cputs_wf ((wakeArrays_mem ..).symm ▸ h) ..
theorem writeHome_wf {s u : State} {t off : Nat} {l : List Byte} {k : Acc} (h : Memory.wf s.mem) (hw : writeHome s t off l k = .ok u) :
    Memory.wf u.mem := by
  unfold writeHome at hw
  split at hw
  · split at hw
    · simp at hw
    · rename_i hx
      simp only [Except.ok.injEq] at hw
      subst hw
      rename_i s1 x
      have hm : Memory.wf (wakeArrays s1 t 0 x.pa l.length (!k.tub)).mem := by rw [wakeArrays_mem, xlate_mem hx]; exact h
      rw [afterWrite_mem]
      split
      · exact beneathWrite_wf hm ..
      · exact vaultWrite_wf hm ..
  · simp only [Except.ok.injEq] at hw
    subst hw
    exact paneWrite_wf h ..
theorem writePieces_wf {t : Nat} {k : Acc} (ps : List (Nat × List Byte)) {s u : State} (h : Memory.wf s.mem)
    (hw : writePieces s t k ps = .ok u) : Memory.wf u.mem := by
  induction ps generalizing s with
  | nil => exact Except.ok.inj hw ▸ h
  | cons p r ih =>
    simp only [writePieces] at hw
    split at hw
    · simp at hw
    · rename_i hs
      exact ih (writeHome_wf h hs) hw
theorem edgeWrite_wf {s u : State} {p : Part} {o : Nat} {l : List Byte} (h : Memory.wf s.mem) (hw : edgeWrite s p o l = .ok u) :
    Memory.wf u.mem := by
  unfold edgeWrite at hw
  split at hw
  · simp at hw
  · simp only [Except.ok.injEq] at hw
    subst hw
    rw [checkWrite_mem]
    exact rawWrite_wf h ..
theorem physPut_wf {s : State} (h : Memory.wf s.mem) (t a : Nat) (l : List Byte) : Memory.wf (physPut s t a l).mem := by
  unfold physPut
  rw [genRun_mem, checkWrite_mem]
  exact cputs_wf ((physWake_mem ..).symm ▸ h) ..
/-- Bytes that a tile's hardware writes are read back. -/
theorem physGet_physPut {s : State} (h : Memory.wf s.mem) (t a : Nat) (l : List Byte) : physGet (physPut s t a l) t a l.length = l := by
  unfold physGet physPut
  rw [genRun_mem, checkWrite_mem]
  exact cgets_cputs_same ((physWake_mem ..).symm ▸ h) ..

end Sys2Proof.Machine
end

