-- ==== Sys2Proof/Laws/Values.lean ====
section
/-! SUPPORT. Sys2Proof/Laws/Values.lean: operands read and results extended by R197, as n-bit vectors. -/

namespace Sys2Proof.Machine

theorem tyBits_le {ty : Ty} (h : ty.isInt = true) : tyBits ty ≤ 64 := by cases ty <;> simp_all [Ty.isInt, tyBits]
theorem isInt_of_isSInt {ty : Ty} (h : ty.isSInt = true) : ty.isInt = true := by cases ty <;> simp_all [Ty.isInt, Ty.isSInt]
theorem isInt_of_isUInt {ty : Ty} (h : ty.isUInt = true) : ty.isInt = true := by cases ty <;> simp_all [Ty.isInt, Ty.isUInt]
theorem signed_of_isSInt {ty : Ty} (h : ty.isSInt = true) : tySigned ty = true := by cases ty <;> simp_all [tySigned, Ty.isSInt]
theorem unsigned_of_isUInt {ty : Ty} (h : ty.isUInt = true) : tySigned ty = false := by cases ty <;> simp_all [tySigned, Ty.isUInt]

/-- Two's complement of the low bits is the integer value of the bit vector. -/
theorem sintN_eq (n v : Nat) : sintN n v = (BitVec.ofNat n v).toInt := by
  have hp : (2 : Int) ^ n = ((2 ^ n : Nat) : Int) := by push_cast; rfl
  simp only [sintN, BitVec.toInt_eq_toNat_cond, BitVec.toNat_ofNat, hp]

theorem toNat_lowBits {ty : Ty} (x : Word) : (lowBits ty x).toNat = x.toNat % 2 ^ tyBits ty := by
  simp [lowBits]

theorem valTy_signed {ty : Ty} (h : tySigned ty = true) (x : Word) : valTy ty x = (lowBits ty x).toInt := by
  simp only [valTy, h, if_true, sintN_eq]
  congr 1
  apply BitVec.eq_of_toNat_eq; simp [lowBits]
theorem valTy_unsigned {ty : Ty} (h : tySigned ty = false) (x : Word) : valTy ty x = ((lowBits ty x).toNat : Int) := by
  simp [valTy, h, toNat_lowBits]
/-- An operand's value modulo 2^n is the operand's low bits. -/
theorem ofInt_valTy (ty : Ty) (x : Word) : BitVec.ofInt (tyBits ty) (valTy ty x) = lowBits ty x := by
  by_cases h : tySigned ty = true
  · rw [valTy_signed h, BitVec.ofInt_toInt]
  · rw [valTy_unsigned (by simpa using h), BitVec.ofInt_natCast, BitVec.ofNat_toNat, BitVec.setWidth_eq]

theorem extTy_eq (ty : Ty) (v : Nat) : extTy ty v = extBits ty (BitVec.ofNat (tyBits ty) v) := by
  unfold extTy extBits
  split
  · rw [sintN_eq, wInt, BitVec.signExtend]
  · apply BitVec.eq_of_toNat_eq; simp [w64]

theorem ofNat_modPow (n : Nat) (x : Int) : BitVec.ofNat n (modPow n x) = BitVec.ofInt n x := by
  apply BitVec.eq_of_toNat_eq
  have hp : (2 : Int) ^ n = ((2 ^ n : Nat) : Int) := by push_cast; rfl
  have h0 : 0 < 2 ^ n := Nat.pos_of_ne_zero (by simp)
  simp only [modPow, BitVec.toNat_ofNat, BitVec.toNat_ofInt, hp]
  rw [Nat.mod_eq_of_lt]
  rw [Int.toNat_lt (Int.emod_nonneg _ (by exact_mod_cast Nat.pos_iff_ne_zero.1 h0))]
  exact Int.emod_lt_of_pos _ (by exact_mod_cast h0)

/-- R197: an integer result is the n-bit vector of its value, extended. -/
theorem intRes_eq (ty : Ty) (r : Int) : intRes ty r = extBits ty (BitVec.ofInt (tyBits ty) r) := by
  rw [intRes, extTy_eq, ofNat_modPow]

end Sys2Proof.Machine
end

