-- ==== Sys2Proof/Laws/Ops.lean ====
section
/-! SUPPORT. Sys2Proof/Laws/Ops.lean: the shared operations on threads: the five ways an instruction ends, retiring, the first
freeze, and what each operation does to memory. -/

namespace Sys2Proof.Machine

-- Composition of updates.
theorem aput_aput_same {α : Type} (l : Assoc α) (k : Nat) (v w : α) : aput (aput l k v) k w = aput l k w := by
  induction l with
  | nil => simp [aput]
  | cons e r ih =>
    obtain ⟨j, u⟩ := e
    simp only [aput]
    split
    · simp [aput]
    · split
      · simp [aput]
      · rename_i h1 h2
        simp only [aput, h1, if_false, h2, ih]
@[simp] theorem State.setTile_setTile (s : State) (t : Tile) (x y : TileSt) : (s.setTile t x).setTile t y = s.setTile t y := by
  simp [State.setTile, aput_aput_same]
@[simp] theorem State.modTile_modTile (s : State) (t : Tile) (f g : TileSt → TileSt) :
    (s.modTile t f).modTile t g = s.modTile t fun x => g (f x) := by
  simp only [State.modTile, State.tile_setTile, State.setTile_setTile]
@[simp] theorem State.setCtx_setCtx (s : State) (t : Tile) (c : Nat) (x y : Ctx) : (s.setCtx t c x).setCtx t c y = s.setCtx t c y := by
  simp only [State.setCtx, State.modTile_modTile, aput_aput_same]
@[simp] theorem State.modCtx_modCtx (s : State) (t : Tile) (c : Nat) (f g : Ctx → Ctx) :
    (s.modCtx t c f).modCtx t c g = s.modCtx t c fun x => g (f x) := by
  simp only [State.modCtx, State.ctx_setCtx, State.setCtx_setCtx]

-- How an instruction ends (R180).
@[simp] theorem finish_ok (s u : State) : finish s (.ok u) = .next u := rfl
@[simp] theorem finish_trap (s : State) (tr : Trap) : finish s (.error (.trap tr)) = .next (takeFault s tr) := rfl
@[simp] theorem finish_wait (s : State) (w : Wait) : finish s (.error (.wait w)) = .next (s.modMe fun c => { c with st := .waiting, wait := w }) := rfl
@[simp] theorem finish_migrate (s : State) (d : Tile) (k : BitVec 2) (p : Nat) :
    finish s (.error (.migrate d k p)) = .next (beginPack s s.cur.t s.cur.c d k p) := rfl
@[simp] theorem finish_ret (s : State) : finish s (.error .ret) = .next (returnTrap s s.cur.t s.cur.c) := rfl
/-- No instruction ends in a fault of the model or a refusal. -/
theorem finish_next (s : State) (r : Except Stop State) : ∃ u, finish s r = .next u := by
  rcases r with (_ | _ | _ | _) | _ <;> exact ⟨_, rfl⟩

/-- An instruction of one source and one result whose ports are free completes. -/
theorem op1_ok {s : State} {d a : GP} (h : checkPorts s [d] [a] = .ok ()) (f : Thread → Word → Word) :
    op1 s d a f = .next (after1 s d a (f s.th)) := by
  simp only [op1, h, finish, after1]
/-- An instruction of two sources and one result whose ports are free completes. -/
theorem op2_ok {s : State} {d a : GP} {b : Src} (h : checkPorts s [d] (a :: srcGps b) = .ok ()) (f : Thread → Word → Word → Word) :
    op2 s d a b f = .next (after2 s d a b (f s.th)) := by
  simp only [op2, h, finish, after2]

-- Retiring.
theorem stepFreeze_quiet {s : State} {t c : Nat} (h : (s.ctx t c).stepping = false) : stepFreeze s t c = s := by
  simp [stepFreeze, h]
/-- Outside STEP, an instruction that retires changes its own context alone. -/
theorem retireCtx_eq {s : State} {t c : Nat} (h : (s.ctx t c).stepping = false) (pc : Word) :
    retireCtx s t c pc = s.modCtx t c fun x =>
      { x with th := spanStep { x.th with pc := (nextPc x pc).1 }, fq := (nextPc x pc).2
               st := (if x.st = .waiting then .ready else x.st), wait := .none, snap := none, joined := none } := by
  apply stepFreeze_quiet; simp [h]
theorem nextPc_alone {x : Ctx} (h : x.gang = .none) (pc : Word) : nextPc x pc = (pc, x.fq) := by simp [nextPc, h]

-- Freezing.
/-- The first fault of a context outside a gang that waits for nothing: the packet is latched in bank 0 and sent, and the context
freezes (R358, R368). -/
theorem freeze_first {s : State} {t c : Nat} {tr : Trap} {pc : Word} {iw : BitVec 96} {fl : PFlags}
    (h0 : (s.ctx t c).tb0 = none) (h1 : (s.ctx t c).tb1 = none) (hw : (s.ctx t c).wait = .none) (hg : (s.ctx t c).gang = .none)
    (hl2 : (s.tile t).leading ≠ some c) (hn : (s.ctx t c).tub.isNcmd = false) (hp : tr.newPoison = [])
    (hu : tr.touched = []) :
    let ws := packetWords s t c tr pc iw (s.ctx t c).th.tid fl false
    freeze s t c tr pc iw fl = (sendPacket s t (packetSite s t c) ws).modCtx t c fun x =>
      { x with st := .frozen, wait := .none, snap := none, stepping := false, stopReq := false, mig := none
               gang := (if x.gang = .armed then .none else x.gang)
               tb0 := if x.tb0.isSome then x.tb0 else some ws, tb1 := if x.tb0.isSome then some ws else x.tb1 } := by
  have hl : learnPoison s tr = s := by simp [learnPoison, hp, hu, wakeAll]
  have ha : abandonWait s t c = s := by simp [abandonWait, hw, hl2]
  have hctx : ∀ ws, ((sendPacket s t (packetSite s t c) ws).ctx t c) = s.ctx t c := by
    intro ws; simp [sendPacket, State.send, State.ctx, State.tile, State.modTile, State.setTile]
  simp only [freeze, hl, hn, h1, ha, h0, Option.isSome_none, Bool.false_eq_true, if_false]
  split
  · rfl
  · simp [gangStops, hctx, hg]

-- What leaves memory alone.
theorem learnWord_mem (s : State) (e : Nat × Bool) : (learnWord s e).mem = s.mem := by
  unfold learnWord
  split
  · dsimp only; split <;> simp
  · simp
@[simp] theorem learnPoison_mem (s : State) (tr : Trap) : (learnPoison s tr).mem = s.mem :=
  (wakeAll_mem ..).trans (foldl_mem _ (fun _ _ => learnWord_mem ..) _ s)
@[simp] theorem sendPacket_mem (s : State) (t site : Nat) (ws : List Word) : (sendPacket s t site ws).mem = s.mem := rfl
@[simp] theorem asyncPacket_mem (s : State) (t c : Nat) (tr : Trap) (pc : Word) (iw : BitVec 96) (tid : BitVec 32) (fl : PFlags) :
    (asyncPacket s t c tr pc iw tid fl).mem = s.mem := rfl
@[simp] theorem releaseCharge_mem (s : State) (t : Tile) (th : Thread) : (releaseCharge s t th).mem = s.mem := by
  unfold releaseCharge; dsimp only; split <;> rfl
@[simp] theorem sendNotice_mem (s : State) (t : Tile) : (sendNotice s t).mem = s.mem := by unfold sendNotice; split <;> rfl
@[simp] theorem freeCtx_mem (s : State) (t c : Nat) : (freeCtx s t c).mem = s.mem := by unfold freeCtx; dsimp only; split <;> simp
@[simp] theorem leaveOuts_mem (s : State) (t c : Nat) : (leaveOuts s t c).mem = s.mem := rfl
@[simp] theorem takeOuts_mem (s : State) (t c : Nat) : (takeOuts s t c).mem = s.mem := by unfold takeOuts; dsimp only; split <;> rfl
@[simp] theorem jobThreadEnd_mem (s : State) (j : Option (Nat × Nat)) (n : Nat) : (jobThreadEnd s j n).mem = s.mem := by
  unfold jobThreadEnd; split <;> rfl
@[simp] theorem flushWhere_mem (s : State) (t : Tile) (f : CombEnt → Bool) : (flushWhere s t f).mem = s.mem := by
  unfold flushWhere; dsimp only; split
  · rfl
  · refine (foldl_mem _ ?_ _ _).trans rfl
    intros; rfl
@[simp] theorem flushCtx_mem (s : State) (t c : Nat) : (flushCtx s t c).mem = s.mem := flushWhere_mem ..
@[simp] theorem closeStream_mem (s : State) (t h : Nat) : (closeStream s t h).1.mem = s.mem := rfl
@[simp] theorem freePorts_mem (s : State) (t c : Nat) : (freePorts s t c).mem = s.mem := rfl
@[simp] theorem releaseFollowers_mem (s : State) (l : List Tile) : (releaseFollowers s l).mem = s.mem := by
  refine foldl_mem _ ?_ l s
  intros; rfl
@[simp] theorem gangStops_mem (s : State) (t c : Nat) : (gangStops s t c).mem = s.mem := by
  unfold gangStops; dsimp only; split
  · refine foldl_mem _ ?_ _ _
    intros; rfl
  · refine (foldl_mem _ ?_ _ _).trans rfl
    intros; split <;> rfl
  · rfl
@[simp] theorem releaseLead_mem (s : State) (t : Tile) (l : List Tile) : (releaseLead s t l).mem = s.mem :=
  foldl_mem (fun s f => s.modTile f fun x =>
    match x.leadRes with | some (l, _, _) => if l = t then { x with leadRes := none } else x | none => x) (fun _ _ => rfl) l s
@[simp] theorem ncmdFault_mem (s : State) (t c : Nat) (tr : Trap) : (ncmdFault s t c tr).mem = s.mem := by
  unfold ncmdFault; dsimp only; split <;> simp
@[simp] theorem resumeCtx_mem (s : State) (t c : Nat) (b : Bool) : (resumeCtx s t c b).mem = s.mem := rfl
@[simp] theorem sendPod_mem (s : State) (t c : Nat) : (sendPod s t c).mem = s.mem := by
  unfold sendPod; dsimp only; split
  · split <;> rfl
  · rfl
@[simp] theorem beginPack_mem (s : State) (t c : Nat) (d : Tile) (k : BitVec 2) (p : Nat) : (beginPack s t c d k p).mem = s.mem := by
  unfold beginPack; simp
@[simp] theorem returnTrap_mem (s : State) (t c : Nat) : (returnTrap s t c).mem = s.mem := rfl
@[simp] theorem readPort_mem (s : State) (t : Nat) (d : Dir) : (readPort s t d).1.mem = s.mem := by unfold readPort; dsimp only; split <;> rfl
@[simp] theorem writePort_mem (s : State) (t : Nat) (d : Dir) (v : Word) : (writePort s t d v).mem = s.mem := by
  unfold writePort; dsimp only; (try split) <;> rfl
@[simp] theorem readGP_mem (s : State) (a : GP) : (readGP s a).1.mem = s.mem := by cases a <;> simp [readGP]
@[simp] theorem readSrc_mem (s : State) (a : Src) : (readSrc s a).1.mem = s.mem := by cases a <;> simp [readSrc]
@[simp] theorem writeGP_mem (s : State) (d : GP) (v : Word) : (writeGP s d v).mem = s.mem := by cases d <;> simp [writeGP]

-- What keeps the canonical form of memory.
theorem putLink_wf {s : State} (h : Memory.wf s.mem) (t slot off v : Nat) : Memory.wf (putLink s t slot off v).mem := physPut_wf h ..
theorem sendLink_wf {s : State} (h : Memory.wf s.mem) (t c slot off v : Nat) : Memory.wf (sendLink s t c slot off v).mem := by
  unfold sendLink; split
  · exact putLink_wf h ..
  · exact h
theorem linkIf_wf {s : State} (h : Memory.wf s.mem) {p : Prop} [Decidable p] (t c slot off v : Nat) :
    Memory.wf (if p then s else sendLink s t c slot off v).mem := by
  split
  · exact h
  · exact sendLink_wf h ..
theorem relink_wf {s : State} (h : Memory.wf s.mem) (t b : Nat) (old : TileSt) : Memory.wf (relink s t b old).mem := by
  have h0 : Memory.wf (if headPtr old (bucketLists old b) = headPtr (s.tile t) (bucketLists (s.tile t) b) then s
      else physPut s t (bucketBase + 4 * b) (leBytes 4 (headPtr (s.tile t) (bucketLists (s.tile t) b)))).mem := by
    split
    · exact h
    · exact physPut_wf h ..
  unfold relink
  dsimp only
  generalize (ite (headPtr old _ = headPtr _ _) _ _ : State) = u at h0 ⊢
  generalize bucketLinks (s.tile t) _ = l
  refine foldl_wf _ ?_ l h0
  rintro u ⟨c, slot, n, tl, ch⟩ hu
  exact linkIf_wf (linkIf_wf (linkIf_wf hu ..) ..) ..
theorem setDefList_wf {s : State} (h : Memory.wf s.mem) (t off : Nat) (l : List DefEnt) : Memory.wf (setDefList s t off l).mem :=
  relink_wf (by exact h) ..
theorem putRecord_wf {s : State} (h : Memory.wf s.mem) (t : Tile) (e : DefEnt) (th : Option Thread) : Memory.wf (putRecord s t e th).mem := by
  unfold putRecord
  rw [State.modTile_mem]
  cases th with
  | none => exact physPut_wf h ..
  | some p => exact physPut_wf (physPut_wf (physPut_wf h ..) ..) ..
theorem clearRecord_wf {s : State} (h : Memory.wf s.mem) (t : Tile) (slot : Nat) : Memory.wf (clearRecord s t slot).mem := physPut_wf h ..
theorem appendWaiter_wf {s : State} (h : Memory.wf s.mem) (t off : Nat) (e : DefEnt) (th : Option Thread) :
    Memory.wf (appendWaiter s t off e th).mem := by
  refine setDefList_wf ?_ ..
  split
  · exact putRecord_wf (by exact h) ..
  · exact h
theorem unlinkSlot_wf {s : State} (h : Memory.wf s.mem) (c slot : Nat) (e : DefEnt) : Memory.wf (unlinkSlot s c slot e).mem := by
  unfold unlinkSlot; split
  · exact clearRecord_wf (setDefList_wf h ..) ..
  · exact clearRecord_wf h ..
theorem withdrawReq_wf {s : State} (h : Memory.wf s.mem) (t c id : Nat) (b : Bool) : Memory.wf (withdrawReq s t c id b).mem := by
  unfold withdrawReq
  exact foldl_wf _ (fun _ _ hs => clearRecord_wf hs ..) _ (foldl_wf _ (fun _ _ hs => setDefList_wf hs ..) _ (by exact h))
theorem abandonWait_wf {s : State} (h : Memory.wf s.mem) (t c : Nat) : Memory.wf (abandonWait s t c).mem := by
  have h1 : Memory.wf (if (s.tile t).leading = some c then s.modTile t fun x => { x with leading := none } else s : State).mem := by
    split <;> exact h
  unfold abandonWait; dsimp only; split
  · exact withdrawReq_wf h1 ..
  · exact withdrawReq_wf h1 ..
  · exact h1
  · rw [releaseLead_mem]; exact h1
  · exact h1
  · exact h1
theorem endHolds_wf {s : State} (h : Memory.wf s.mem) (t c : Nat) (th : Thread) : Memory.wf (endHolds s t c th).mem := by
  unfold endHolds; split
  · rw [releaseCharge_mem]; exact h
  · split
    · exact physPut_wf h ..
    · exact h
/-- A fold that carries a list beside the state. -/
theorem foldlPair_wf {α β : Type} (f : State × β → α → State × β) (hf : ∀ e a, Memory.wf e.1.mem → Memory.wf (f e a).1.mem)
    (l : List α) {e : State × β} (h : Memory.wf e.1.mem) : Memory.wf (l.foldl f e).1.mem := by
  induction l generalizing e with
  | nil => exact h
  | cons a r ih => exact ih (hf e a h)
theorem killQuiet_wf {s : State} (h : Memory.wf s.mem) (t c : Nat) : Memory.wf (killQuiet s t c).1.mem := by
  unfold killQuiet
  rw [freeCtx_mem, jobThreadEnd_mem]
  refine endHolds_wf ?_ ..
  have h1 := foldl_wf (fun s (p : Pend) => p.subs.foldl (fun s r => withdrawReq s t c r.1 false) s)
    (fun s p hs => foldl_wf _ (fun _ _ hs => withdrawReq_wf hs ..) _ hs) (s.ctx t c).pend (abandonWait_wf h t c)
  have h2 := fun u l (hu : Memory.wf u.mem) => foldlPair_wf (fun (e : State × List Nat) h =>
    let (s, l) := closeStream e.1 t h
    (s, e.2 ++ l)) (fun e a he => he) l (e := (u, [])) hu
  split
  · rw [releaseFollowers_mem]; exact h2 _ _ h1
  · rw [State.modCtx_mem, gangStops_mem]; exact h2 _ _ h1
  · exact h2 _ _ h1
theorem crashRecord_wf {s : State} (h : Memory.wf s.mem) (t : Tile) (ws a b : List Word) (n : Nat) :
    Memory.wf (crashRecord s t ws a b n).mem :=
  physPut_wf ((State.modTile_mem ..).symm ▸ h) ..
theorem thirdLevel_wf {s : State} (h : Memory.wf s.mem) (t c : Nat) (ws : List Word) : Memory.wf (thirdLevel s t c ws).mem := by
  have hc : ∀ n, Memory.wf (crashRecord (s.modTile t fun y => { y with seq := y.seq + 1 }) t ws ((s.ctx t c).tb0.getD [])
      ((s.ctx t c).tb1.getD []) n).mem := fun n => crashRecord_wf (by exact h) ..
  unfold thirdLevel; dsimp only; split
  · refine killQuiet_wf ?_ ..
    rw [State.modCtx_mem, jobThreadEnd_mem]; exact hc _
  · rw [State.send_mem, State.modTile_mem]; exact foldl_wf _ (fun _ _ hs => killQuiet_wf hs ..) _ (hc _)
theorem freeze_wf {s : State} (h : Memory.wf s.mem) (t c : Nat) (tr : Trap) (pc : Word) (iw : BitVec 96) (fl : PFlags) :
    Memory.wf (freeze s t c tr pc iw fl).mem := by
  have hl : Memory.wf (learnPoison s tr).mem := by simpa using h
  unfold freeze; dsimp only; split
  · simpa using h
  · split
    · exact thirdLevel_wf hl ..
    · have ha := abandonWait_wf hl t c
      split
      · exact ha
      · rw [gangStops_mem]; exact ha
theorem takeFault_wf {s : State} (h : Memory.wf s.mem) (tr : Trap) : Memory.wf (takeFault s tr).mem := freeze_wf h ..
theorem streamFaults_wf {s : State} (h : Memory.wf s.mem) (t : Nat) (l : List Nat) : Memory.wf (streamFaults s t l).mem :=
  foldl_wf _ (fun _ _ hs => freeze_wf hs ..) l h
theorem killCtx_wf {s : State} (h : Memory.wf s.mem) (t c : Nat) : Memory.wf (killCtx s t c).mem := streamFaults_wf (killQuiet_wf h ..) ..
theorem endStream_wf {s : State} (h : Memory.wf s.mem) (t k : Nat) : Memory.wf (endStream s t k).mem := streamFaults_wf (by exact h) ..
theorem stepFreeze_wf {s : State} (h : Memory.wf s.mem) (t c : Nat) : Memory.wf (stepFreeze s t c).mem := by
  unfold stepFreeze; split
  · exact freeze_wf h ..
  · exact h
theorem retireCtx_wf {s : State} (h : Memory.wf s.mem) (t c : Nat) (pc : Word) : Memory.wf (retireCtx s t c pc).mem :=
  stepFreeze_wf (by exact h) ..
theorem retire_wf {s : State} (h : Memory.wf s.mem) : Memory.wf s.retire.mem := retireCtx_wf h ..
theorem retireAt_wf {s : State} (h : Memory.wf s.mem) (pc : Word) : Memory.wf (s.retireAt pc).mem := retireCtx_wf h ..
theorem exitPanes_wf {s : State} (h : Memory.wf s.mem) (t c : Nat) : Memory.wf (exitPanes s t c).mem :=
  foldl_wf (fun s h => endStream s t h) (fun _ _ hs => endStream_wf hs ..) _ h
theorem exitThread_wf {s : State} (h : Memory.wf s.mem) (t c : Nat) : Memory.wf (exitThread s t c).mem := by
  unfold exitThread; dsimp only
  rw [freeCtx_mem, jobThreadEnd_mem]
  refine endHolds_wf ?_ ..
  have hs := exitPanes_wf h t c
  split
  · rw [releaseFollowers_mem]; exact hs
  · exact hs
/-- However an instruction ends, memory is canonical after it when it is before it and in the instruction's own next state. -/
theorem finish_wf {s u : State} {r : Except Stop State} (h : Memory.wf s.mem) (hr : ∀ v, r = .ok v → Memory.wf v.mem)
    (hu : finish s r = .next u) : Memory.wf u.mem := by
  rcases r with (tr | w | ⟨d, k, p⟩ | _) | v <;> obtain rfl := Host.Outcome.next.inj hu
  · exact takeFault_wf h tr
  · exact h
  · rw [beginPack_mem]; exact h
  · exact h
  · exact hr _ rfl
/-- Reset memory is canonical. -/
theorem reset_memOk : State.reset.memOk := rfl

end Sys2Proof.Machine
end

