-- ==== Sys2Proof/Laws/PerInstr.lean ====
section
/-! SUPPORT. Sys2Proof/Laws/PerInstr.lean: the statements made per instruction. Codec: the fields of a well-formed
instruction decode to it (09 R182). -/

namespace Sys2Proof.Laws.Codec

/-- R182: the fields that the encoder gives a well-formed instruction decode to that instruction. -/
def Statement (i : Instr) : Prop := ∀ f : Fields, i.wf = true → encodeFields i = some f → decodeFields f = some i

/-- An instruction that its own fields name passes the decoder's checks. -/
theorem of_raw {i : Instr} (h : ∀ f, encodeFields i = some f → rawDecode f = some i) : Statement i := by
  intro f hw hf
  simp [decodeFields, h f hf, hw, hf]
/-- An event has no encoding (R182). -/
theorem of_none {i : Instr} (h : encodeFields i = none) : Statement i := fun f _ hf => by simp [h] at hf

theorem add (ty : Ty) (d : GP) (a : GP) (b : Src) : Statement (.add ty d a b) :=
  of_raw fun f h => by cases h; simp [rawDecode, raw01, ins]
theorem sub (ty : Ty) (d : GP) (a : GP) (b : Src) : Statement (.sub ty d a b) :=
  of_raw fun f h => by cases h; simp [rawDecode, raw01, ins]
theorem mul (ty : Ty) (d : GP) (a : GP) (b : Src) : Statement (.mul ty d a b) :=
  of_raw fun f h => by cases h; simp [rawDecode, raw01, ins]
theorem mulh (ty : Ty) (d : GP) (a : GP) (b : Src) : Statement (.mulh ty d a b) :=
  of_raw fun f h => by cases h; simp [rawDecode, raw01, ins]
theorem mulhu (ty : Ty) (d : GP) (a : GP) (b : Src) : Statement (.mulhu ty d a b) :=
  of_raw fun f h => by cases h; simp [rawDecode, raw01, ins]
theorem div (ty : Ty) (d : GP) (a : GP) (b : Src) : Statement (.div ty d a b) :=
  of_raw fun f h => by cases h; simp [rawDecode, raw01, ins]
theorem divu (ty : Ty) (d : GP) (a : GP) (b : Src) : Statement (.divu ty d a b) :=
  of_raw fun f h => by cases h; simp [rawDecode, raw01, ins]
theorem rem (ty : Ty) (d : GP) (a : GP) (b : Src) : Statement (.rem ty d a b) :=
  of_raw fun f h => by cases h; simp [rawDecode, raw01, ins]
theorem remu (ty : Ty) (d : GP) (a : GP) (b : Src) : Statement (.remu ty d a b) :=
  of_raw fun f h => by cases h; simp [rawDecode, raw01, ins]
theorem neg (ty : Ty) (d : GP) (a : GP) : Statement (.neg ty d a) :=
  of_raw fun f h => by cases h; simp [rawDecode, raw01, ins]
theorem abs (ty : Ty) (d : GP) (a : GP) : Statement (.abs ty d a) :=
  of_raw fun f h => by cases h; simp [rawDecode, raw01, ins]
theorem min (ty : Ty) (d : GP) (a : GP) (b : Src) : Statement (.min ty d a b) :=
  of_raw fun f h => by cases h; simp [rawDecode, raw01, ins]
theorem max (ty : Ty) (d : GP) (a : GP) (b : Src) : Statement (.max ty d a b) :=
  of_raw fun f h => by cases h; simp [rawDecode, raw01, ins]
theorem minu (ty : Ty) (d : GP) (a : GP) (b : Src) : Statement (.minu ty d a b) :=
  of_raw fun f h => by cases h; simp [rawDecode, raw01, ins]
theorem maxu (ty : Ty) (d : GP) (a : GP) (b : Src) : Statement (.maxu ty d a b) :=
  of_raw fun f h => by cases h; simp [rawDecode, raw01, ins]
theorem and (ty : Ty) (d : GP) (a : GP) (b : Src) : Statement (.and ty d a b) :=
  of_raw fun f h => by cases h; simp [rawDecode, raw02, ins]
theorem or (ty : Ty) (d : GP) (a : GP) (b : Src) : Statement (.or ty d a b) :=
  of_raw fun f h => by cases h; simp [rawDecode, raw02, ins]
theorem xor (ty : Ty) (d : GP) (a : GP) (b : Src) : Statement (.xor ty d a b) :=
  of_raw fun f h => by cases h; simp [rawDecode, raw02, ins]
theorem andn (ty : Ty) (d : GP) (a : GP) (b : Src) : Statement (.andn ty d a b) :=
  of_raw fun f h => by cases h; simp [rawDecode, raw02, ins]
theorem orn (ty : Ty) (d : GP) (a : GP) (b : Src) : Statement (.orn ty d a b) :=
  of_raw fun f h => by cases h; simp [rawDecode, raw02, ins]
theorem xnor (ty : Ty) (d : GP) (a : GP) (b : Src) : Statement (.xnor ty d a b) :=
  of_raw fun f h => by cases h; simp [rawDecode, raw02, ins]
theorem not (ty : Ty) (d : GP) (a : GP) : Statement (.not ty d a) :=
  of_raw fun f h => by cases h; simp [rawDecode, raw02, ins]
theorem shl (ty : Ty) (d : GP) (a : GP) (b : Src) : Statement (.shl ty d a b) :=
  of_raw fun f h => by cases h; simp [rawDecode, raw03, ins]
theorem shr (ty : Ty) (d : GP) (a : GP) (b : Src) : Statement (.shr ty d a b) :=
  of_raw fun f h => by cases h; simp [rawDecode, raw03, ins]
theorem sra (ty : Ty) (d : GP) (a : GP) (b : Src) : Statement (.sra ty d a b) :=
  of_raw fun f h => by cases h; simp [rawDecode, raw03, ins]
theorem rol (ty : Ty) (d : GP) (a : GP) (b : Src) : Statement (.rol ty d a b) :=
  of_raw fun f h => by cases h; simp [rawDecode, raw03, ins]
theorem ror (ty : Ty) (d : GP) (a : GP) (b : Src) : Statement (.ror ty d a b) :=
  of_raw fun f h => by cases h; simp [rawDecode, raw03, ins]
theorem clz (ty : Ty) (d : GP) (a : GP) : Statement (.clz ty d a) :=
  of_raw fun f h => by cases h; simp [rawDecode, raw04, ins]
theorem ctz (ty : Ty) (d : GP) (a : GP) : Statement (.ctz ty d a) :=
  of_raw fun f h => by cases h; simp [rawDecode, raw04, ins]
theorem popc (ty : Ty) (d : GP) (a : GP) : Statement (.popc ty d a) :=
  of_raw fun f h => by cases h; simp [rawDecode, raw04, ins]
theorem brev (ty : Ty) (d : GP) (a : GP) : Statement (.brev ty d a) :=
  of_raw fun f h => by cases h; simp [rawDecode, raw04, ins]
theorem bswap (ty : Ty) (d : GP) (a : GP) : Statement (.bswap ty d a) :=
  of_raw fun f h => by cases h; simp [rawDecode, raw04, ins]
theorem bext (d : GP) (a : GP) (pos : BitVec 6) (len : BitVec 7) : Statement (.bext d a pos len) :=
  of_raw fun f h => by cases h; simp [rawDecode, raw04, ins]
theorem bextu (d : GP) (a : GP) (pos : BitVec 6) (len : BitVec 7) : Statement (.bextu d a pos len) :=
  of_raw fun f h => by cases h; simp [rawDecode, raw04, ins]
theorem bins (d : G) (a : GP) (pos : BitVec 6) (len : BitVec 7) : Statement (.bins d a pos len) :=
  of_raw fun f h => by cases h; simp [rawDecode, raw04, ins]
theorem mov (ty : Ty) (d : GP) (a : GP) : Statement (.mov ty d a) :=
  of_raw fun f h => by cases h; simp [rawDecode, raw05, ins]
theorem movi (d : GP) (zx : Bool) (v : BitVec 32) : Statement (.movi d zx v) :=
  of_raw fun f h => by cases h; simp [rawDecode, raw05, ins]
theorem movh (d : G) (v : BitVec 32) : Statement (.movh d v) :=
  of_raw fun f h => by cases h; simp [rawDecode, raw05, ins]
theorem sel (ty : Ty) (d : GP) (a : GP) (b : Src) (pn : P) : Statement (.sel ty d a b pn) :=
  of_raw fun f h => by cases h; simp [rawDecode, raw05, ins]
theorem sext (d : GP) (a : GP) (w : BitVec 32) : Statement (.sext d a w) :=
  of_raw fun f h => by cases h; simp [rawDecode, raw05, ins]
theorem zext (d : GP) (a : GP) (w : BitVec 32) : Statement (.zext d a w) :=
  of_raw fun f h => by cases h; simp [rawDecode, raw05, ins]
theorem lea (d : G) (m : MemX) : Statement (.lea d m) :=
  of_raw fun f h => by cases h; simp [rawDecode, raw06, ins]
theorem gaddr (d : G) (a : G) (b : G) : Statement (.gaddr d a b) :=
  of_raw fun f h => by cases h; simp [rawDecode, raw06, ins]
theorem home (d : G) (a : G) : Statement (.home d a) :=
  of_raw fun f h => by cases h; simp [rawDecode, raw06, ins]
theorem nbr (d : G) (a : G) (dir : Dir) : Statement (.nbr d a dir) :=
  of_raw fun f h => by cases h; simp [rawDecode, raw06, ins]
theorem cmp (c : Cond) (ty : Ty) (d : P) (a : G) (b : GSrc) : Statement (.cmp c ty d a b) :=
  of_raw fun f h => by cases h; simp [rawDecode, raw08, ins]
theorem tst (c : Cond) (ty : Ty) (d : P) (a : G) (b : GSrc) : Statement (.tst c ty d a b) :=
  of_raw fun f h => by cases h; simp [rawDecode, raw08, ins]
theorem pand (d : P) (a : P) (b : P) : Statement (.pand d a b) :=
  of_raw fun f h => by cases h; simp [rawDecode, raw08, ins]
theorem por (d : P) (a : P) (b : P) : Statement (.por d a b) :=
  of_raw fun f h => by cases h; simp [rawDecode, raw08, ins]
theorem pxor (d : P) (a : P) (b : P) : Statement (.pxor d a b) :=
  of_raw fun f h => by cases h; simp [rawDecode, raw08, ins]
theorem pnot (d : P) (a : P) : Statement (.pnot d a) :=
  of_raw fun f h => by cases h; simp [rawDecode, raw08, ins]
theorem pmov (d : P) (a : P) : Statement (.pmov d a) :=
  of_raw fun f h => by cases h; simp [rawDecode, raw08, ins]
theorem pset (d : P) (v : Bool) : Statement (.pset d v) :=
  of_raw fun f h => by cases h; simp [rawDecode, raw08, ins]
theorem br (off : BitVec 32) : Statement (.br off) :=
  of_raw fun f h => by cases h; simp [rawDecode, raw0C, ins]
theorem brx (a : G) : Statement (.brx a) :=
  of_raw fun f h => by cases h; simp [rawDecode, raw0C, ins]
theorem call (off : BitVec 32) : Statement (.call off) :=
  of_raw fun f h => by cases h; simp [rawDecode, raw0C, ins]
theorem callx (a : G) : Statement (.callx a) :=
  of_raw fun f h => by cases h; simp [rawDecode, raw0C, ins]
theorem ret : Statement .ret :=
  of_raw fun f h => by cases h; simp [rawDecode, raw0C, ins]
theorem loop (d : G) (off : BitVec 32) : Statement (.loop d off) :=
  of_raw fun f h => by cases h; simp [rawDecode, raw0C, ins]
theorem nop : Statement .nop :=
  of_raw fun f h => by cases h; simp [rawDecode, raw0C, ins]
theorem exit : Statement .exit :=
  of_raw fun f h => by cases h; simp [rawDecode, raw0C, ins]
theorem fadd (rm : RSel) (ty : Ty) (d : G) (a : G) (b : FSrc) : Statement (.fadd rm ty d a b) :=
  of_raw fun f h => by cases h; simp [rawDecode, raw10, ins]
theorem fsub (rm : RSel) (ty : Ty) (d : G) (a : G) (b : FSrc) : Statement (.fsub rm ty d a b) :=
  of_raw fun f h => by cases h; simp [rawDecode, raw10, ins]
theorem fmul (rm : RSel) (ty : Ty) (d : G) (a : G) (b : FSrc) : Statement (.fmul rm ty d a b) :=
  of_raw fun f h => by cases h; simp [rawDecode, raw10, ins]
theorem ffma (rm : RSel) (ty : Ty) (d : G) (a : G) (b : FSrc) : Statement (.ffma rm ty d a b) :=
  of_raw fun f h => by cases h; simp [rawDecode, raw10, ins]
theorem fdiv (rm : RSel) (ty : Ty) (d : G) (a : G) (b : FSrc) : Statement (.fdiv rm ty d a b) :=
  of_raw fun f h => by cases h; simp [rawDecode, raw10, ins]
theorem fsqrt (rm : RSel) (ty : Ty) (d : G) (a : G) : Statement (.fsqrt rm ty d a) :=
  of_raw fun f h => by cases h; simp [rawDecode, raw10, ins]
theorem fmin (ty : Ty) (d : G) (a : G) (b : FSrc) : Statement (.fmin ty d a b) :=
  of_raw fun f h => by cases h; simp [rawDecode, raw10, ins]
theorem fmax (ty : Ty) (d : G) (a : G) (b : FSrc) : Statement (.fmax ty d a b) :=
  of_raw fun f h => by cases h; simp [rawDecode, raw10, ins]
theorem fabs (ty : Ty) (d : G) (a : G) : Statement (.fabs ty d a) :=
  of_raw fun f h => by cases h; simp [rawDecode, raw10, ins]
theorem fneg (ty : Ty) (d : G) (a : G) : Statement (.fneg ty d a) :=
  of_raw fun f h => by cases h; simp [rawDecode, raw10, ins]
theorem fcmp (c : Cond) (ty : Ty) (d : P) (a : G) (b : FSrc) : Statement (.fcmp c ty d a b) :=
  of_raw fun f h => by cases h; simp [rawDecode, raw10, ins]
theorem fcvt (rm : RSel) (dt : Ty) (sty : Ty) (d : G) (a : G) : Statement (.fcvt rm dt sty d a) :=
  of_raw fun f h => by cases h; simp [rawDecode, raw10, ins]
theorem fclass (ty : Ty) (d : G) (a : G) : Statement (.fclass ty d a) :=
  of_raw fun f h => by cases h; simp [rawDecode, raw10, ins]
theorem ld (ty : Ty) (d : G) (m : MemX) : Statement (.ld ty d m) :=
  of_raw fun f h => by cases h; simp [rawDecode, raw20, ins]
theorem st (ty : Ty) (d : G) (m : MemX) : Statement (.st ty d m) :=
  of_raw fun f h => by cases h; simp [rawDecode, raw20, ins]
theorem get (ty : Ty) (d : G) (m : MemX) : Statement (.get ty d m) :=
  of_raw fun f h => by cases h; simp [rawDecode, raw20, ins]
theorem put (ty : Ty) (d : G) (m : MemX) : Statement (.put ty d m) :=
  of_raw fun f h => by cases h; simp [rawDecode, raw20, ins]
theorem putc (ty : Ty) (d : G) (m : MemB) (cnt : G) (inc : BitVec 4) : Statement (.putc ty d m cnt inc) :=
  of_raw fun f h => by cases h; simp [rawDecode, raw20, ins]
theorem migr (pn : P) (m : MemB) : Statement (.migr pn m) :=
  of_raw fun f h => by cases h; simp [rawDecode, raw20, ins]
theorem pin : Statement .pin :=
  of_raw fun f h => by cases h; simp [rawDecode, raw20, ins]
theorem unpin : Statement .unpin :=
  of_raw fun f h => by cases h; simp [rawDecode, raw20, ins]
theorem vld (ty : Ty) (k : K) (d : V) (m : MemX) : Statement (.vld ty k d m) :=
  of_raw fun f h => by cases h; simp [rawDecode, raw21, ins]
theorem vst (ty : Ty) (k : K) (d : V) (m : MemX) : Statement (.vst ty k d m) :=
  of_raw fun f h => by cases h; simp [rawDecode, raw21, ins]
theorem vlds (ty : Ty) (k : K) (sc : BitVec 2) (d : V) (m : MemB) (b : G) : Statement (.vlds ty k sc d m b) :=
  of_raw fun f h => by cases h; simp [rawDecode, raw21, ins]
theorem vsts (ty : Ty) (k : K) (sc : BitVec 2) (d : V) (m : MemB) (b : G) : Statement (.vsts ty k sc d m b) :=
  of_raw fun f h => by cases h; simp [rawDecode, raw21, ins]
theorem vgath (ty : Ty) (k : K) (sc : BitVec 2) (d : V) (m : MemB) (b : V) : Statement (.vgath ty k sc d m b) :=
  of_raw fun f h => by cases h; simp [rawDecode, raw21, ins]
theorem vscat (ty : Ty) (k : K) (sc : BitVec 2) (d : V) (m : MemB) (b : V) : Statement (.vscat ty k sc d m b) :=
  of_raw fun f h => by cases h; simp [rawDecode, raw21, ins]
theorem aadd (ty : Ty) (d : G) (m : MemX) : Statement (.aadd ty d m) :=
  of_raw fun f h => by cases h; simp [rawDecode, raw24, ins]
theorem afadd (ty : Ty) (d : G) (m : MemX) : Statement (.afadd ty d m) :=
  of_raw fun f h => by cases h; simp [rawDecode, raw24, ins]
theorem amin (ty : Ty) (d : G) (m : MemX) : Statement (.amin ty d m) :=
  of_raw fun f h => by cases h; simp [rawDecode, raw24, ins]
theorem amax (ty : Ty) (d : G) (m : MemX) : Statement (.amax ty d m) :=
  of_raw fun f h => by cases h; simp [rawDecode, raw24, ins]
theorem aand (ty : Ty) (d : G) (m : MemX) : Statement (.aand ty d m) :=
  of_raw fun f h => by cases h; simp [rawDecode, raw24, ins]
theorem aor (ty : Ty) (d : G) (m : MemX) : Statement (.aor ty d m) :=
  of_raw fun f h => by cases h; simp [rawDecode, raw24, ins]
theorem axor (ty : Ty) (d : G) (m : MemX) : Statement (.axor ty d m) :=
  of_raw fun f h => by cases h; simp [rawDecode, raw24, ins]
theorem xadd (ty : Ty) (d : G) (m : MemB) (b : G) : Statement (.xadd ty d m b) :=
  of_raw fun f h => by cases h; simp [rawDecode, raw24, ins]
theorem xchg (ty : Ty) (d : G) (m : MemB) (b : G) : Statement (.xchg ty d m b) :=
  of_raw fun f h => by cases h; simp [rawDecode, raw24, ins]
theorem cas (ty : Ty) (d : G) (m : MemB) (b : G) : Statement (.cas ty d m b) :=
  of_raw fun f h => by cases h; simp [rawDecode, raw24, ins]
theorem take (d : G) (m : MemB) : Statement (.take d m) :=
  of_raw fun f h => by cases h; simp [rawDecode, raw28, ins]
theorem tryt (d : G) (pn : P) (m : MemB) : Statement (.tryt d pn m) :=
  of_raw fun f h => by cases h; simp [rawDecode, raw28, ins]
theorem give (pn : P) (m : MemB) (b : G) : Statement (.give pn m b) :=
  of_raw fun f h => by cases h; simp [rawDecode, raw28, ins]
theorem peek (d : G) (m : MemB) : Statement (.peek d m) :=
  of_raw fun f h => by cases h; simp [rawDecode, raw28, ins]
theorem sete (m : MemB) : Statement (.sete m) :=
  of_raw fun f h => by cases h; simp [rawDecode, raw28, ins]
theorem feq (pn : P) (m : MemB) : Statement (.feq pn m) :=
  of_raw fun f h => by cases h; simp [rawDecode, raw28, ins]
theorem bind (pn : P) (m : MemB) (base : G) (len : G) : Statement (.bind pn m base len) :=
  of_raw fun f h => by cases h; simp [rawDecode, raw28, ins]
theorem unbind (pn : P) (m : MemB) (base : G) (len : G) : Statement (.unbind pn m base len) :=
  of_raw fun f h => by cases h; simp [rawDecode, raw28, ins]
theorem fenceAcq (sc : Fin 16) : Statement (.fenceAcq sc) :=
  of_raw fun f h => by cases h; simp [rawDecode, raw28, ins]
theorem fenceRel (sc : Fin 16) : Statement (.fenceRel sc) :=
  of_raw fun f h => by cases h; simp [rawDecode, raw28, ins]
theorem fenceFull (sc : Fin 16) : Statement (.fenceFull sc) :=
  of_raw fun f h => by cases h; simp [rawDecode, raw28, ins]
theorem cwait (m : MemB) (b : G) : Statement (.cwait m b) :=
  of_raw fun f h => by cases h; simp [rawDecode, raw28, ins]
theorem ctest (pn : P) (m : MemB) (b : G) : Statement (.ctest pn m b) :=
  of_raw fun f h => by cases h; simp [rawDecode, raw28, ins]
theorem barr (rel : Bool) (d : G) (pn : P) (a : G) (b : G) : Statement (.barr rel d pn a b) :=
  of_raw fun f h => by cases h; simp [rawDecode, raw29, ins]
theorem bara (rel : Bool) (d : G) (a : G) : Statement (.bara rel d a) :=
  of_raw fun f h => by cases h; simp [rawDecode, raw29, ins]
theorem barw (pn : P) (a : G) (b : G) : Statement (.barw pn a b) :=
  of_raw fun f h => by cases h; simp [rawDecode, raw29, ins]
theorem pref (m : MemB) (b : G) (d : G) (inc : BitVec 4) : Statement (.pref m b d inc) :=
  of_raw fun f h => by cases h; simp [rawDecode, raw2C, ins]
theorem lockl (d : G) (pn : P) (m : MemB) (b : G) : Statement (.lockl d pn m b) :=
  of_raw fun f h => by cases h; simp [rawDecode, raw2C, ins]
theorem unlockl (m : MemB) (b : G) : Statement (.unlockl m b) :=
  of_raw fun f h => by cases h; simp [rawDecode, raw2C, ins]
theorem wback (m : MemB) (b : G) : Statement (.wback m b) :=
  of_raw fun f h => by cases h; simp [rawDecode, raw2C, ins]
theorem wbinv (m : MemB) (b : G) : Statement (.wbinv m b) :=
  of_raw fun f h => by cases h; simp [rawDecode, raw2C, ins]
theorem inval (m : MemB) (b : G) : Statement (.inval m b) :=
  of_raw fun f h => by cases h; simp [rawDecode, raw2C, ins]
theorem spawn (pn : P) (off : BitVec 32) (a : G) (b : G) : Statement (.spawn pn off a b) :=
  of_raw fun f h => by cases h; simp [rawDecode, raw30, ins]
theorem spawnIndirect (pn : P) (d : G) (a : G) (b : G) : Statement (.spawnIndirect pn d a b) :=
  of_raw fun f h => by cases h; simp [rawDecode, raw30, ins]
theorem spawnx (pn : P) (off : BitVec 32) (a : G) (b : G) (d : G) : Statement (.spawnx pn off a b d) :=
  of_raw fun f h => by cases h; simp [rawDecode, raw30, ins]
theorem join (m : MemB) : Statement (.join m) :=
  of_raw fun f h => by cases h; simp [rawDecode, raw30, ins]
theorem yield : Statement .yield :=
  of_raw fun f h => by cases h; simp [rawDecode, raw30, ins]
theorem lead (k : BitVec 3) (dir : Dir) : Statement (.lead k dir) :=
  of_raw fun f h => by cases h; simp [rawDecode, raw30, ins]
theorem follow : Statement .follow :=
  of_raw fun f h => by cases h; simp [rawDecode, raw30, ins]
theorem unlead : Statement .unlead :=
  of_raw fun f h => by cases h; simp [rawDecode, raw30, ins]
theorem pclaim (pn : P) (port : Dir) : Statement (.pclaim pn port) :=
  of_raw fun f h => by cases h; simp [rawDecode, raw30, ins]
theorem pfree (port : Dir) : Statement (.pfree port) :=
  of_raw fun f h => by cases h; simp [rawDecode, raw30, ins]
theorem pcfg (h : H) (a : G) : Statement (.pcfg h a) :=
  of_raw fun f h => by cases h; simp [rawDecode, raw34, ins]
theorem sopen (h : H) (m : MemB) : Statement (.sopen h m) :=
  of_raw fun f h => by cases h; simp [rawDecode, raw34, ins]
theorem sclose (h : H) : Statement (.sclose h) :=
  of_raw fun f h => by cases h; simp [rawDecode, raw34, ins]
theorem pwait (d : G) (h : H) (n : BitVec 32) : Statement (.pwait d h n) :=
  of_raw fun f h => by cases h; simp [rawDecode, raw34, ins]
theorem padvP (h : H) (n : BitVec 32) : Statement (.padvP h n) :=
  of_raw fun f h => by cases h; simp [rawDecode, raw34, ins]
theorem padvC (h : H) (n : BitVec 32) : Statement (.padvC h n) :=
  of_raw fun f h => by cases h; simp [rawDecode, raw34, ins]
theorem pfill (d : G) (h : H) (n : BitVec 32) : Statement (.pfill d h n) :=
  of_raw fun f h => by cases h; simp [rawDecode, raw34, ins]
theorem pstat (c : Bool) (d : G) (h : H) : Statement (.pstat c d h) :=
  of_raw fun f h => by cases h; simp [rawDecode, raw34, ins]
theorem vpop (ty : Ty) (d : V) (h : H) : Statement (.vpop ty d h) :=
  of_raw fun f h => by cases h; simp [rawDecode, raw34, ins]
theorem vpush (ty : Ty) (h : H) (a : V) : Statement (.vpush ty h a) :=
  of_raw fun f h => by cases h; simp [rawDecode, raw34, ins]
theorem job (pool : Bool) (m : MemB) : Statement (.job pool m) :=
  of_raw fun f h => by cases h; simp [rawDecode, raw38, ins]
theorem ncmd (pool : Bool) (d : G) (m : MemB) : Statement (.ncmd pool d m) :=
  of_raw fun f h => by cases h; simp [rawDecode, raw38, ins]
theorem mlds (a : G) (b : G) (nc : BitVec 32) : Statement (.mlds a b nc) :=
  of_raw fun f h => by cases h; simp [rawDecode, raw40, ins]
theorem mswp : Statement .mswp :=
  of_raw fun f h => by cases h; simp [rawDecode, raw40, ins]
theorem mmul (pool : Bool) (m : MemB) : Statement (.mmul pool m) :=
  of_raw fun f h => by cases h; simp [rawDecode, raw40, ins]
theorem mmulg (pool : Bool) (m : MemB) : Statement (.mmulg pool m) :=
  of_raw fun f h => by cases h; simp [rawDecode, raw40, ins]
theorem mred (pool : Bool) (m : MemB) : Statement (.mred pool m) :=
  of_raw fun f h => by cases h; simp [rawDecode, raw40, ins]
theorem msto (pool : Bool) (m : MemB) : Statement (.msto pool m) :=
  of_raw fun f h => by cases h; simp [rawDecode, raw40, ins]
theorem mzero (b : Bool) : Statement (.mzero b) :=
  of_raw fun f h => by cases h; simp [rawDecode, raw40, ins]
theorem mstat (w : Bool) (d : G) (which : BitVec 32) : Statement (.mstat w d which) :=
  of_raw fun f h => by cases h; simp [rawDecode, raw40, ins]
theorem vadd (m : VMod) (ty : Ty) (d : V) (a : V) (b : VSrc) : Statement (.vadd m ty d a b) :=
  of_raw fun f h => by cases h; simp [rawDecode, raw50, ins]
theorem vsub (m : VMod) (ty : Ty) (d : V) (a : V) (b : VSrc) : Statement (.vsub m ty d a b) :=
  of_raw fun f h => by cases h; simp [rawDecode, raw50, ins]
theorem vmul (m : VMod) (ty : Ty) (d : V) (a : V) (b : VSrc) : Statement (.vmul m ty d a b) :=
  of_raw fun f h => by cases h; simp [rawDecode, raw50, ins]
theorem vfma (m : VMod) (ty : Ty) (d : V) (a : V) (b : VSrc) : Statement (.vfma m ty d a b) :=
  of_raw fun f h => by cases h; simp [rawDecode, raw50, ins]
theorem vfms (m : VMod) (ty : Ty) (d : V) (a : V) (b : VSrc) : Statement (.vfms m ty d a b) :=
  of_raw fun f h => by cases h; simp [rawDecode, raw50, ins]
theorem vmin (m : VMod) (ty : Ty) (d : V) (a : V) (b : VSrc) : Statement (.vmin m ty d a b) :=
  of_raw fun f h => by cases h; simp [rawDecode, raw50, ins]
theorem vmax (m : VMod) (ty : Ty) (d : V) (a : V) (b : VSrc) : Statement (.vmax m ty d a b) :=
  of_raw fun f h => by cases h; simp [rawDecode, raw50, ins]
theorem vabs (m : VMod) (ty : Ty) (d : V) (a : V) : Statement (.vabs m ty d a) :=
  of_raw fun f h => by cases h; simp [rawDecode, raw50, ins]
theorem vneg (m : VMod) (ty : Ty) (d : V) (a : V) : Statement (.vneg m ty d a) :=
  of_raw fun f h => by cases h; simp [rawDecode, raw50, ins]
theorem vand (m : VMod) (ty : Ty) (d : V) (a : V) (b : VSrc) : Statement (.vand m ty d a b) :=
  of_raw fun f h => by cases h; simp [rawDecode, raw50, ins]
theorem vor (m : VMod) (ty : Ty) (d : V) (a : V) (b : VSrc) : Statement (.vor m ty d a b) :=
  of_raw fun f h => by cases h; simp [rawDecode, raw50, ins]
theorem vxor (m : VMod) (ty : Ty) (d : V) (a : V) (b : VSrc) : Statement (.vxor m ty d a b) :=
  of_raw fun f h => by cases h; simp [rawDecode, raw50, ins]
theorem vshl (m : VMod) (ty : Ty) (d : V) (a : V) (b : VSrc) : Statement (.vshl m ty d a b) :=
  of_raw fun f h => by cases h; simp [rawDecode, raw50, ins]
theorem vshr (m : VMod) (ty : Ty) (d : V) (a : V) (b : VSrc) : Statement (.vshr m ty d a b) :=
  of_raw fun f h => by cases h; simp [rawDecode, raw50, ins]
theorem vsra (m : VMod) (ty : Ty) (d : V) (a : V) (b : VSrc) : Statement (.vsra m ty d a b) :=
  of_raw fun f h => by cases h; simp [rawDecode, raw50, ins]
theorem vcmp (c : Cond) (ty : Ty) (d : K) (a : V) (b : VSrc) : Statement (.vcmp c ty d a b) :=
  of_raw fun f h => by cases h; simp [rawDecode, raw50, ins]
theorem vsel (k : K) (ty : Ty) (d : V) (a : V) (b : VSrc) : Statement (.vsel k ty d a b) :=
  of_raw fun f h => by cases h; simp [rawDecode, raw50, ins]
theorem vrcp (m : VMod) (ty : Ty) (d : V) (a : V) : Statement (.vrcp m ty d a) :=
  of_raw fun f h => by cases h; simp [rawDecode, raw50, ins]
theorem vrsq (m : VMod) (ty : Ty) (d : V) (a : V) : Statement (.vrsq m ty d a) :=
  of_raw fun f h => by cases h; simp [rawDecode, raw50, ins]
theorem vexp2 (m : VMod) (ty : Ty) (d : V) (a : V) : Statement (.vexp2 m ty d a) :=
  of_raw fun f h => by cases h; simp [rawDecode, raw50, ins]
theorem vlog2 (m : VMod) (ty : Ty) (d : V) (a : V) : Statement (.vlog2 m ty d a) :=
  of_raw fun f h => by cases h; simp [rawDecode, raw50, ins]
theorem vdiv (m : VMod) (ty : Ty) (d : V) (a : V) (b : VSrc) : Statement (.vdiv m ty d a b) :=
  of_raw fun f h => by cases h; simp [rawDecode, raw50, ins]
theorem vsqrt (m : VMod) (ty : Ty) (d : V) (a : V) : Statement (.vsqrt m ty d a) :=
  of_raw fun f h => by cases h; simp [rawDecode, raw50, ins]
theorem vpopc (m : VMod) (ty : Ty) (d : V) (a : V) : Statement (.vpopc m ty d a) :=
  of_raw fun f h => by cases h; simp [rawDecode, raw50, ins]
theorem vdot4 (m : VMod) (ty : Ty) (d : V) (a : V) (b : VSrc) : Statement (.vdot4 m ty d a b) :=
  of_raw fun f h => by cases h; simp [rawDecode, raw50, ins]
theorem vcvt (rm : RSel) (k : K) (z : Bool) (dt : Ty) (sty : Ty) (part : BitVec 2) (d : V) (a : V) : Statement (.vcvt rm k z dt sty part d a) :=
  of_raw fun f h => by cases h; simp [rawDecode, raw51, ins]
theorem vqnt (ty : Ty) (d : V) (a : V) (tier : BitVec 3) (scale : Option G) : Statement (.vqnt ty d a tier scale) :=
  of_raw fun f h => by cases h; simp [rawDecode, raw51, ins]
theorem vdqt (d : V) (a : V) (tier : BitVec 3) : Statement (.vdqt d a tier) :=
  of_raw fun f h => by cases h; simp [rawDecode, raw51, ins]
theorem vred (op : RedOp) (ty : Ty) (k : K) (d : G) (a : V) : Statement (.vred op ty k d a) :=
  of_raw fun f h => by cases h; simp [rawDecode, raw52, ins]
theorem vscan (op : RedOp) (excl : Bool) (ty : Ty) (k : K) (z : Bool) (d : V) (a : V) : Statement (.vscan op excl ty k z d a) :=
  of_raw fun f h => by cases h; simp [rawDecode, raw52, ins]
theorem vperm (ty : Ty) (k : K) (z : Bool) (d : V) (a : V) (b : V) : Statement (.vperm ty k z d a b) :=
  of_raw fun f h => by cases h; simp [rawDecode, raw52, ins]
theorem vbcast (ty : Ty) (k : K) (z : Bool) (d : V) (src : BSrc) : Statement (.vbcast ty k z d src) :=
  of_raw fun f h => by cases h; simp [rawDecode, raw52, ins]
theorem vext (ty : Ty) (d : G) (a : V) (lane : BitVec 4) : Statement (.vext ty d a lane) :=
  of_raw fun f h => by cases h; simp [rawDecode, raw52, ins]
theorem vins (ty : Ty) (d : V) (a : G) (lane : BitVec 4) : Statement (.vins ty d a lane) :=
  of_raw fun f h => by cases h; simp [rawDecode, raw52, ins]
theorem kand (d : K) (a : K) (b : K) : Statement (.kand d a b) :=
  of_raw fun f h => by cases h; simp [rawDecode, raw53, ins]
theorem kor (d : K) (a : K) (b : K) : Statement (.kor d a b) :=
  of_raw fun f h => by cases h; simp [rawDecode, raw53, ins]
theorem knot (d : K) (a : K) : Statement (.knot d a) :=
  of_raw fun f h => by cases h; simp [rawDecode, raw53, ins]
theorem kmov (f : KForm) : Statement (.kmov f) :=
  of_raw fun f h => by cases h; simp [rawDecode, raw53, ins]
theorem kpopc (d : G) (a : K) : Statement (.kpopc d a) :=
  of_raw fun f h => by cases h; simp [rawDecode, raw53, ins]
theorem bscan (a : G) (b : G) (d : G) : Statement (.bscan a b d) :=
  of_raw fun f h => by cases h; simp [rawDecode, raw60, ins]
theorem hamm (d : G) (a : V) : Statement (.hamm d a) :=
  of_raw fun f h => by cases h; simp [rawDecode, raw60, ins]
theorem filt (ne : Bool) (d : G) (a : G) (b : G) : Statement (.filt ne d a b) :=
  of_raw fun f h => by cases h; simp [rawDecode, raw60, ins]
theorem topk (a : G) (b : G) : Statement (.topk a b) :=
  of_raw fun f h => by cases h; simp [rawDecode, raw60, ins]
theorem topkInit (k : BitVec 32) : Statement (.topkInit k) :=
  of_raw fun f h => by cases h; simp [rawDecode, raw60, ins]
theorem tkrd (d : G) (m : MemB) : Statement (.tkrd d m) :=
  of_raw fun f h => by cases h; simp [rawDecode, raw60, ins]
theorem bdot (d : G) (a : G) (b : G) (c : G) : Statement (.bdot d a b c) :=
  of_raw fun f h => by cases h; simp [rawDecode, raw60, ins]
theorem badd (d : G) (a : G) (b : G) (c : G) : Statement (.badd d a b c) :=
  of_raw fun f h => by cases h; simp [rawDecode, raw60, ins]
theorem baxpy (d : G) (a : G) (b : G) (c : G) : Statement (.baxpy d a b c) :=
  of_raw fun f h => by cases h; simp [rawDecode, raw60, ins]
theorem bfill (d : G) (b : G) (c : G) : Statement (.bfill d b c) :=
  of_raw fun f h => by cases h; simp [rawDecode, raw60, ins]
theorem bcopy (d : G) (a : G) (c : G) : Statement (.bcopy d a c) :=
  of_raw fun f h => by cases h; simp [rawDecode, raw60, ins]
theorem srd (d : G) (sr : Sr) : Statement (.srd d sr) :=
  of_raw fun f h => by cases h; simp [rawDecode, raw70, ins]
theorem swr (sr : Sr) (a : G) : Statement (.swr sr a) :=
  of_raw fun f h => by cases h; simp [rawDecode, raw70, ins]
theorem trap (code : BitVec 16) : Statement (.trap code) :=
  of_raw fun f h => by cases h; simp [rawDecode, raw70, ins]
theorem bkpt : Statement .bkpt :=
  of_raw fun f h => by cases h; simp [rawDecode, raw70, ins]
theorem isync : Statement .isync :=
  of_raw fun f h => by cases h; simp [rawDecode, raw70, ins]
theorem illegal : Statement .illegal := of_none rfl
theorem poolexec : Statement .poolexec := of_none rfl
theorem returnTrap : Statement .returnTrap := of_none rfl
theorem returnPodSend (t : Nat) (c : Nat) : Statement (.returnPodSend t c) := of_none rfl
theorem podArrival (n : Nat) : Statement (.podArrival n) := of_none rfl
theorem accept (n : Nat) : Statement (.accept n) := of_none rfl
theorem refuse (n : Nat) : Statement (.refuse n) := of_none rfl
theorem contextFreeNotice (n : Nat) : Statement (.contextFreeNotice n) := of_none rfl
theorem park (t : Nat) (c : Nat) : Statement (.park t c) := of_none rfl
theorem parkDeposit (n : Nat) : Statement (.parkDeposit n) := of_none rfl
theorem chargeRelease (n : Nat) : Statement (.chargeRelease n) := of_none rfl
theorem contextFill (t : Nat) : Statement (.contextFill t) := of_none rfl
theorem pinSpanExpiry (t : Nat) (c : Nat) : Statement (.pinSpanExpiry t c) := of_none rfl
theorem getRequest (t : Nat) : Statement (.getRequest t) := of_none rfl
theorem putRequest (t : Nat) : Statement (.putRequest t) := of_none rfl
theorem putcRequest (t : Nat) : Statement (.putcRequest t) := of_none rfl
theorem handlerMessage (t : Nat) : Statement (.handlerMessage t) := of_none rfl
theorem bindingQuery (t : Nat) : Statement (.bindingQuery t) := of_none rfl
theorem bindingSnapshot (n : Nat) : Statement (.bindingSnapshot n) := of_none rfl
theorem getReply (n : Nat) : Statement (.getReply n) := of_none rfl
theorem putAck (n : Nat) : Statement (.putAck n) := of_none rfl
theorem counterIncrement (n : Nat) : Statement (.counterIncrement n) := of_none rfl
theorem combiningFlush (t : Nat) (e : Nat) : Statement (.combiningFlush t e) := of_none rfl
theorem atomicFlush (t : Nat) : Statement (.atomicFlush t) := of_none rfl
theorem atomicAck (n : Nat) : Statement (.atomicAck n) := of_none rfl
theorem waitRecordDeposit (n : Nat) : Statement (.waitRecordDeposit n) := of_none rfl
theorem linkUpdate (n : Nat) : Statement (.linkUpdate n) := of_none rfl
theorem wake (n : Nat) : Statement (.wake n) := of_none rfl
theorem wakeReturn (n : Nat) : Statement (.wakeReturn n) := of_none rfl
theorem spawnxRecord (t : Nat) : Statement (.spawnxRecord t) := of_none rfl
theorem spawnxReply (n : Nat) : Statement (.spawnxReply n) := of_none rfl
theorem balancePeriod (t : Nat) : Statement (.balancePeriod t) := of_none rfl
theorem depthReport (n : Nat) : Statement (.depthReport n) := of_none rfl
theorem balanceShipment (t : Nat) : Statement (.balanceShipment t) := of_none rfl
theorem shipmentReply (n : Nat) : Statement (.shipmentReply n) := of_none rfl
theorem edgeRequest (n : Nat) : Statement (.edgeRequest n) := of_none rfl
theorem edgeReply (n : Nat) : Statement (.edgeReply n) := of_none rfl
theorem portWord (n : Nat) : Statement (.portWord n) := of_none rfl
theorem portCredit (n : Nat) : Statement (.portCredit n) := of_none rfl
theorem leadReservation (n : Nat) : Statement (.leadReservation n) := of_none rfl
theorem gangForm (t : Nat) (c : Nat) : Statement (.gangForm t c) := of_none rfl
theorem paneClaimGrant (t : Nat) (h : H) : Statement (.paneClaimGrant t h) := of_none rfl
theorem copyUnitFill (t : Nat) (h : H) : Statement (.copyUnitFill t h) := of_none rfl
theorem barrierPhaseComplete (t : Nat) (u : Nat) : Statement (.barrierPhaseComplete t u) := of_none rfl
theorem barrierTimeout (t : Nat) (c : Nat) : Statement (.barrierTimeout t c) := of_none rfl
theorem jobStart (t : Nat) (kind : Nat) : Statement (.jobStart t kind) := of_none rfl
theorem jobCompletion (t : Nat) (j : Nat) : Statement (.jobCompletion t j) := of_none rfl
theorem elementRequest (n : Nat) : Statement (.elementRequest n) := of_none rfl
theorem elementReply (n : Nat) : Statement (.elementReply n) := of_none rfl
theorem vc6Credit (n : Nat) : Statement (.vc6Credit n) := of_none rfl
theorem collContribution (t : Nat) (j : Nat) : Statement (.collContribution t j) := of_none rfl
theorem collResult (t : Nat) (j : Nat) : Statement (.collResult t j) := of_none rfl
theorem mredContribution (n : Nat) : Statement (.mredContribution n) := of_none rfl
theorem matrixStart (t : Nat) (upset : List Nat) : Statement (.matrixStart t upset) := of_none rfl
theorem matrixComplete (t : Nat) : Statement (.matrixComplete t) := of_none rfl
theorem tuberContextFill (t : Nat) : Statement (.tuberContextFill t) := of_none rfl
theorem tuberPreempt (t : Nat) (c : Nat) : Statement (.tuberPreempt t c) := of_none rfl
theorem tuberSave (t : Nat) (c : Nat) : Statement (.tuberSave t c) := of_none rfl
theorem bankAccessComplete (t : Nat) (c : Nat) : Statement (.bankAccessComplete t c) := of_none rfl
theorem agedRequest (t : Nat) (c : Nat) : Statement (.agedRequest t c) := of_none rfl
theorem ncmdReply (n : Nat) : Statement (.ncmdReply n) := of_none rfl
theorem wakeNotice (n : Nat) : Statement (.wakeNotice n) := of_none rfl
theorem packetTake (q : Nat) : Statement (.packetTake q) := of_none rfl
theorem packetPrefetch (q : Nat) : Statement (.packetPrefetch q) := of_none rfl
theorem launch (q : Nat) (j : Nat) : Statement (.launch q j) := of_none rfl
theorem tileVacated (t : Nat) (li : Nat) : Statement (.tileVacated t li) := of_none rfl
theorem jobPacket (q : Nat) (j : Nat) : Statement (.jobPacket q j) := of_none rfl
theorem graph (q : Nat) (j : Nat) : Statement (.graph q j) := of_none rfl
theorem graphNodeStart (q : Nat) (j : Nat) (nd : Nat) : Statement (.graphNodeStart q j nd) := of_none rfl
theorem waitPacket (q : Nat) (j : Nat) : Statement (.waitPacket q j) := of_none rfl
theorem signal (q : Nat) (j : Nat) : Statement (.signal q j) := of_none rfl
theorem barrierPacket (q : Nat) (j : Nat) : Statement (.barrierPacket q j) := of_none rfl
theorem launchEnd (pid : Nat) (li : Nat) : Statement (.launchEnd pid li) := of_none rfl
theorem promoteExpiry (q : Nat) : Statement (.promoteExpiry q) := of_none rfl
theorem queueResetRetry (q : Nat) : Statement (.queueResetRetry q) := of_none rfl
theorem queueResetSkip (q : Nat) : Statement (.queueResetSkip q) := of_none rfl
theorem createQueue (pid : Nat) (desc : QDesc) : Statement (.createQueue pid desc) := of_none rfl
theorem faultPacket (n : Nat) : Statement (.faultPacket n) := of_none rfl
theorem service (w : Writer) (t : Nat) (c : Nat) : Statement (.service w t c) := of_none rfl
theorem resume (w : Writer) (t : Nat) (c : Nat) (rls : Bool) : Statement (.resume w t c rls) := of_none rfl
theorem step (w : Writer) (t : Nat) (c : Nat) (rls : Bool) : Statement (.step w t c rls) := of_none rfl
theorem stop (w : Writer) (t : Nat) (c : Nat) : Statement (.stop w t c) := of_none rfl
theorem kill (w : Writer) (t : Nat) (c : Nat) : Statement (.kill w t c) := of_none rfl
theorem relocate (w : Writer) (t : Nat) (c : Nat) : Statement (.relocate w t c) := of_none rfl
theorem pslotKill (w : Writer) (t : Nat) (v : BitVec 64) : Statement (.pslotKill w t v) := of_none rfl
theorem pslotRelocate (w : Writer) (t : Nat) (v : BitVec 64) : Statement (.pslotRelocate w t v) := of_none rfl
theorem tlbiAll (w : Writer) (t : Nat) (v : BitVec 64) : Statement (.tlbiAll w t v) := of_none rfl
theorem tlbiPage (w : Writer) (t : Nat) (v : BitVec 64) : Statement (.tlbiPage w t v) := of_none rfl
theorem windowEnable (w : Writer) (t : Nat) (wn : Fin 16) (v : BitVec 64) : Statement (.windowEnable w t wn v) := of_none rfl
theorem windowDisable (w : Writer) (t : Nat) (wn : Fin 16) (v : BitVec 64) : Statement (.windowDisable w t wn v) := of_none rfl
theorem windowGeometryWrite (w : Writer) (t : Nat) (wn : Fin 16) (k : Fin 4) (v : BitVec 64) : Statement (.windowGeometryWrite w t wn k v) := of_none rfl
theorem registerWrite (w : Writer) (t : Nat) (off : Nat) (v : BitVec 64) : Statement (.registerWrite w t off v) := of_none rfl
theorem bar2Request (sc : Nat) (pid : Nat) (off : Nat) (data : Option (List (BitVec 8))) (len : Nat) : Statement (.bar2Request sc pid off data len) := of_none rfl
theorem createPartition (r : PartReq) : Statement (.createPartition r) := of_none rfl
theorem destroyPartition (pid : Nat) : Statement (.destroyPartition pid) := of_none rfl
theorem keyLoad (pid : Nat) (k : Fin 16) (wrapped : List (BitVec 8)) : Statement (.keyLoad pid k wrapped) := of_none rfl
theorem keyRevoke (pid : Nat) (k : Fin 16) (unit : Nat) : Statement (.keyRevoke pid k unit) := of_none rfl
theorem revocationDone (pid : Nat) (k : Fin 16) : Statement (.revocationDone pid k) := of_none rfl
theorem edgeSegmentKey (pid : Nat) (seg : Nat) (k : Fin 16) : Statement (.edgeSegmentKey pid seg k) := of_none rfl
theorem peerSegment (pid : Nat) (seg : Nat) (link : Nat) (tgt : PeerTarget) : Statement (.peerSegment pid seg link tgt) := of_none rfl
theorem groupTableWrite (t : Nat) (i : Fin 64) (v : BitVec 64) : Statement (.groupTableWrite t i v) := of_none rfl
theorem loadImage (pid : Nat) (image : List (BitVec 8)) (places : List Nat) : Statement (.loadImage pid image places) := of_none rfl
theorem setParameter (t : Nat) (p : Param) (v : Nat) : Statement (.setParameter t p v) := of_none rfl
theorem setBudget (w : Nat) : Statement (.setBudget w) := of_none rfl
theorem retireTile (t : Nat) : Statement (.retireTile t) := of_none rfl
theorem linkReset (a : Nat) (b : Nat) : Statement (.linkReset a b) := of_none rfl
theorem linkRetry (a : Nat) (b : Nat) : Statement (.linkRetry a b) := of_none rfl
theorem routerFailure (f : Nat) : Statement (.routerFailure f) := of_none rfl
theorem retentionEntry (t : Nat) (a : Arr) : Statement (.retentionEntry t a) := of_none rfl
theorem retentionExit (t : Nat) (a : Arr) : Statement (.retentionExit t a) := of_none rfl
theorem scrub (t : Nat) (sector : Nat) : Statement (.scrub t sector) := of_none rfl
theorem coolingFault : Statement .coolingFault := of_none rfl
theorem coolingClear : Statement .coolingClear := of_none rfl
theorem thermalStop : Statement .thermalStop := of_none rfl
theorem budgetShare (demand : List Nat) : Statement (.budgetShare demand) := of_none rfl
theorem leaseTimeout (f : Nat) : Statement (.leaseTimeout f) := of_none rfl
theorem candidateTimeout (f : Nat) : Statement (.candidateTimeout f) := of_none rfl
theorem voteRequest (n : Nat) : Statement (.voteRequest n) := of_none rfl
theorem vote (n : Nat) : Statement (.vote n) := of_none rfl
theorem crownRenewal (f : Nat) : Statement (.crownRenewal f) := of_none rfl
theorem renewal (n : Nat) : Statement (.renewal n) := of_none rfl
theorem crownExpiry (f : Nat) : Statement (.crownExpiry f) := of_none rfl
theorem linkTraining (link : Nat) : Statement (.linkTraining link) := of_none rfl
theorem bringUp (spares : SpareMap) (bands : List Nat) (reduced : TestMap) : Statement (.bringUp spares bands reduced) := of_none rfl
theorem prefFillComplete (t : Nat) (i : Nat) : Statement (.prefFillComplete t i) := of_none rfl
theorem abortJob (t : Nat) (j : Nat) : Statement (.abortJob t j) := of_none rfl
theorem peerWakeStore (link : Nat) (addr : BitVec 64) (v : BitVec 64) : Statement (.peerWakeStore link addr v) := of_none rfl
theorem attestationReport (pid : Nat) : Statement (.attestationReport pid) := of_none rfl

end Sys2Proof.Laws.Codec
end

