-- ==== Sys2Proof/Tests/Slice0.lean ====
section
/-! SUPPORT. Sys2Proof/Tests/Slice0.lean: words written out from the spec's encodings (test_words_…), ill-formed instructions
(test_wf_…), the spec's worked examples, and for the obligations with hypotheses states and operands that meet them (wit_…). -/

namespace Sys2Proof
theorem test_words_integer : ∀ e ∈ ([
    (0x010000050304700000000000, .add .i64 (.g 5) (.g 3) (.reg (.g 4))),
    (0x0101400405005020FFFFFFF9, .div .i32 (.g 4) (.g 5) (.imm false 0xFFFFFFF9)),
    (0x010080050104600000000000, .mul .u64 (.g 5) (.g 1) (.reg (.g 4))),
    (0x01004009070E600000000000, .sub .u64 (.g 9) (.g 7) (.reg (.g 14))),
    (0x0100C0010203500000000000, .mulh .i32 (.g 1) (.g 2) (.reg (.g 3))),
    (0x010100810283600000000000, .mulhu .u64 (.port .e) (.g 2) (.reg (.port .w))),
    (0x010180010200003080000000, .divu .u8 (.g 1) (.g 2) (.imm true 0x80000000)),
    (0x0101C0010203300000000000, .rem .i16 (.g 1) (.g 2) (.reg (.g 3))),
    (0x010200010203200000000000, .remu .u16 (.g 1) (.g 2) (.reg (.g 3))),
    (0x0102400F8000100000000000, .neg .i8 (.g 15) (.port .n)),
    (0x010280820200700000000000, .abs .i64 (.port .s) (.g 2)),
    (0x0102C0010203700000000000, .min .i64 (.g 1) (.g 2) (.reg (.g 3))),
    (0x010300010200502000000007, .max .i32 (.g 1) (.g 2) (.imm false 7)),
    (0x010340010203400000000000, .minu .u32 (.g 1) (.g 2) (.reg (.g 3))),
    (0x010380010203600000000000, .maxu .u64 (.g 1) (.g 2) (.reg (.g 3)))] : List (BitVec 96 × Instr)),
    decodeWord e.1 = .instr Hdr.plain e.2 := by decide
theorem test_words_logic : ∀ e ∈ ([
    (0x020080080800602000000040, .xor .u64 (.g 8) (.g 8) (.imm false 64)),
    (0x020000010203600000000000, .and .u64 (.g 1) (.g 2) (.reg (.g 3))),
    (0x020040010200403000000009, .or .u32 (.g 1) (.g 2) (.imm true 9)),
    (0x0200C0010203600000000000, .andn .u64 (.g 1) (.g 2) (.reg (.g 3))),
    (0x020100010203700000000000, .orn .i64 (.g 1) (.g 2) (.reg (.g 3))),
    (0x020140010203200000000000, .xnor .u16 (.g 1) (.g 2) (.reg (.g 3))),
    (0x020180018300600000000000, .not .u64 (.g 1) (.port .w))] : List (BitVec 96 × Instr)),
    decodeWord e.1 = .instr Hdr.plain e.2 := by decide
theorem test_words_shift : ∀ e ∈ ([
    (0x030000050500602000000002, .shl .u64 (.g 5) (.g 5) (.imm false 2)),
    (0x030040010203600000000000, .shr .u64 (.g 1) (.g 2) (.reg (.g 3))),
    (0x03008001020050200000001F, .sra .i32 (.g 1) (.g 2) (.imm false 31)),
    (0x0300C0010203000000000000, .rol .u8 (.g 1) (.g 2) (.reg (.g 3))),
    (0x030100010203600000000000, .ror .u64 (.g 1) (.g 2) (.reg (.g 3)))] : List (BitVec 96 × Instr)),
    decodeWord e.1 = .instr Hdr.plain e.2 := by decide
theorem test_words_bits : ∀ e ∈ ([
    (0x040180050F00000000000708, .bextu (.g 5) (.g 15) 8 7),
    (0x040000010200600000000000, .clz .u64 (.g 1) (.g 2)),
    (0x040040010200400000000000, .ctz .u32 (.g 1) (.g 2)),
    (0x040080010200600000000000, .popc .u64 (.g 1) (.g 2)),
    (0x0400C0010200000000000000, .brev .u8 (.g 1) (.g 2)),
    (0x040100010200600000000000, .bswap .u64 (.g 1) (.g 2)),
    (0x04014001020000000000013F, .bext (.g 1) (.g 2) 63 1),
    (0x0401C0010200000000004000, .bins 1 (.g 2) 0 64)] : List (BitVec 96 × Instr)),
    decodeWord e.1 = .instr Hdr.plain e.2 := by decide
theorem test_words_move : ∀ e ∈ ([
    (0x050040070000000000000005, .movi (.g 7) false 5),
    (0x050080090000000000002000, .movh 9 0x2000),
    (0x050000810200600000000000, .mov .u64 (.port .e) (.g 2)),
    (0x0500C0010203500700000000, .sel .i32 (.g 1) (.g 2) (.reg (.g 3)) 7),
    (0x050100010200000000000040, .sext (.g 1) (.g 2) 64),
    (0x050140010200000000000001, .zext (.g 1) (.g 2) 1)] : List (BitVec 96 × Instr)),
    decodeWord e.1 = .instr Hdr.plain e.2 := by decide
theorem test_words_address : ∀ e ∈ ([
    (0x0600400C0406000000000000, .gaddr 12 4 6),
    (0x0600000102030003FFFFFFF8, .lea 1 ⟨2, 3, 3, 0xFFFFFFF8⟩),
    (0x060080060500000000000000, .home 6 5),
    (0x0600C0050400000000000003, .nbr 5 4 .w)] : List (BitVec 96 × Instr)),
    decodeWord e.1 = .instr Hdr.plain e.2 := by decide
theorem test_words_compare : ∀ e ∈ ([
    (0x080000410100700100000000, .cmp .ne .i64 1 1 (.reg 0)),
    (0x080040470100602100000008, .tst .ne .u64 7 1 (.imm false 8)),
    (0x080080414243000000000000, .pand 1 2 3),
    (0x0800C0414243000000000000, .por 1 2 3),
    (0x080100414243000000000000, .pxor 1 2 3),
    (0x080140414000000000000000, .pnot 1 0),
    (0x080180414200000000000000, .pmov 1 2),
    (0x0801C0410000000000000001, .pset 1 true)] : List (BitVec 96 × Instr)),
    decodeWord e.1 = .instr Hdr.plain e.2 := by decide
theorem test_words_control : ∀ e ∈ ([
    (0x0C0180000000000000000000, .nop),
    (0x0C01C0000000000000000000, .exit),
    (0x0C01400700000000FFFFFFFE, .loop 7 0xFFFFFFFE),
    (0x0C0000000000000000000005, .br 5),
    (0x0C0040000300000000000000, .brx 3),
    (0x0C00800000000000FFFFFFFF, .call 0xFFFFFFFF),
    (0x0C00C0000F00000000000000, .callx 15),
    (0x0C0100000000000000000000, .ret)] : List (BitVec 96 × Instr)),
    decodeWord e.1 = .instr Hdr.plain e.2 := by decide
theorem test_words_scalar_fp : ∀ e ∈ ([
    (0x100000010203900300000000, .fadd .rpi .f32 1 2 (.reg 3)),
    (0x100040010203A00000000000, .fsub .dyn .f64 1 2 (.reg 3)),
    (0x10008001020090213F800000, .fmul .rne .f32 1 2 (.imm 0x3F800000)),
    (0x1000C0010203A00200000000, .ffma .rtz .f64 1 2 (.reg 3)),
    (0x100100010203900400000000, .fdiv .rni .f32 1 2 (.reg 3)),
    (0x100140010200A00000000000, .fsqrt .dyn .f64 1 2),
    (0x100180010203900000000000, .fmin .f32 1 2 (.reg 3)),
    (0x1001C0010203A00000000000, .fmax .f64 1 2 (.reg 3)),
    (0x100200010200900000000000, .fabs .f32 1 2),
    (0x100240010200A00000000000, .fneg .f64 1 2),
    (0x100280410203900600000000, .fcmp .un .f32 1 2 (.reg 3)),
    (0x1002C0010200700200000009, .fcvt .rtz .i64 .f32 1 2),
    (0x100300010200A00000000000, .fclass .f64 1 2)] : List (BitVec 96 × Instr)),
    decodeWord e.1 = .instr Hdr.plain e.2 := by decide
theorem test_words_memory : ∀ e ∈ ([
    (0x200000030100700000000000, .ld .i64 3 ⟨1, 0, 0, 0⟩),
    (0x200100030506600000000008, .putc .u64 3 ⟨5, 8⟩ 6 0),
    (0x200000040102800300000020, .ld .u128 4 ⟨1, 2, 3, 0x20⟩),
    (0x200140410900000000000000, .migr 1 ⟨9, 0⟩),
    (0x200040030200700000000000, .st .i64 3 ⟨2, 0, 0, 0⟩),
    (0x200180000000000000000000, .pin),
    (0x200080010203000100000004, .get .u8 1 ⟨2, 3, 1, 4⟩),
    (0x2000C0010200200000000000, .put .u16 1 ⟨2, 0, 0, 0⟩),
    (0x2001C0000000000000000000, .unpin)] : List (BitVec 96 × Instr)),
    decodeWord e.1 = .instr Hdr.plain e.2 := by decide
theorem test_words_vector_memory : ∀ e ∈ ([
    (0x210000210900E00000005000, .vld .i8x4 0 1 ⟨9, 0, 0, 0x5000⟩),
    (0x210040210203900E00000008, .vst .f32 3 1 ⟨2, 3, 2, 8⟩),
    (0x210080230405400600000000, .vlds .u32 1 2 3 ⟨4, 0⟩ 5),
    (0x2100C0230405400300000000, .vsts .u32 0 3 3 ⟨4, 0⟩ 5),
    (0x210100230426400800000010, .vgath .u32 2 0 3 ⟨4, 16⟩ 6),
    (0x210140230426400100000000, .vscat .u32 0 1 3 ⟨4, 0⟩ 6)] : List (BitVec 96 × Instr)),
    decodeWord e.1 = .instr Hdr.plain e.2 := by decide
theorem test_words_atomics : ∀ e ∈ ([
    (0x240240070809600000000010, .cas .u64 7 ⟨8, 16⟩ 9),
    (0x240000010203400200000004, .aadd .u32 1 ⟨2, 3, 2, 4⟩),
    (0x240040010203900200000004, .afadd .f32 1 ⟨2, 3, 2, 4⟩),
    (0x240080010203500200000004, .amin .i32 1 ⟨2, 3, 2, 4⟩),
    (0x2400C0010203600200000004, .amax .u64 1 ⟨2, 3, 2, 4⟩),
    (0x240100010203700200000004, .aand .i64 1 ⟨2, 3, 2, 4⟩),
    (0x240140010203400200000004, .aor .u32 1 ⟨2, 3, 2, 4⟩),
    (0x240180010203600200000004, .axor .u64 1 ⟨2, 3, 2, 4⟩),
    (0x2401C0010203600000000008, .xadd .u64 1 ⟨2, 8⟩ 3),
    (0x240200010203400000000008, .xchg .u32 1 ⟨2, 8⟩ 3)] : List (BitVec 96 × Instr)),
    decodeWord e.1 = .instr Hdr.plain e.2 := by decide
theorem test_words_sync : ∀ e ∈ ([
    (0x280200000000018000000000, .fenceRel 1),
    (0x280240000C09600000000000, .cwait ⟨12, 0⟩ 9),
    (0x2801800E0B0C600100000000, .bind 1 ⟨11, 0⟩ 12 14),
    (0x280080430B04600000000000, .give 3 ⟨11, 0⟩ 4),
    (0x280000040B00600000000000, .take 4 ⟨11, 0⟩),
    (0x280040010300600200000008, .tryt 1 2 ⟨3, 8⟩),
    (0x2800C0010300600000000008, .peek 1 ⟨3, 8⟩),
    (0x280100000300600000000008, .sete ⟨3, 8⟩),
    (0x280140410300600000000008, .feq 1 ⟨3, 8⟩),
    (0x2801C0050304600200000008, .unbind 2 ⟨3, 8⟩ 4 5),
    (0x2802000000000F4000000000, .fenceAcq 15),
    (0x28020000000000C000000000, .fenceFull 0),
    (0x280280410304600000000008, .ctest 1 ⟨3, 8⟩ 4)] : List (BitVec 96 × Instr)),
    decodeWord e.1 = .instr Hdr.plain e.2 := by decide
theorem test_words_barrier : ∀ e ∈ ([
    (0x290000040203008100000000, .barr true 4 1 2 3),
    (0x290080000403000100000000, .barw 1 4 3),
    (0x290040010200000000000000, .bara false 1 2)] : List (BitVec 96 × Instr)),
    decodeWord e.1 = .instr Hdr.plain e.2 := by decide
theorem test_words_cache : ∀ e ∈ ([
    (0x2C0000030102000F00000000, .pref ⟨1, 0⟩ 2 3 15),
    (0x2C0040030102000100000000, .lockl 3 1 ⟨1, 0⟩ 2),
    (0x2C0080000102000000000000, .unlockl ⟨1, 0⟩ 2),
    (0x2C00C0000102000000000000, .wback ⟨1, 0⟩ 2),
    (0x2C0100000102000000000000, .wbinv ⟨1, 0⟩ 2),
    (0x2C0140000102000000000080, .inval ⟨1, 128⟩ 2)] : List (BitVec 96 × Instr)),
    decodeWord e.1 = .instr Hdr.plain e.2 := by decide
theorem test_words_threads : ∀ e ∈ ([
    (0x30000000030D000100000005, .spawn 1 5 3 13),
    (0x300080000D00000000000000, .join ⟨13, 0⟩),
    (0x300140000000000000000000, .follow),
    (0x300100000000000000000107, .lead 7 .e),
    (0x300180000000000000000000, .unlead),
    (0x300000020304000900000000, .spawnIndirect 1 2 3 4),
    (0x300040060304000100000005, .spawnx 1 5 3 4 6),
    (0x3000C0000000000000000000, .yield),
    (0x3001C0008000000100000000, .pclaim 1 .n),
    (0x300200008200000000000000, .pfree .s)] : List (BitVec 96 × Instr)),
    decodeWord e.1 = .instr Hdr.plain e.2 := by decide
theorem test_words_panes : ∀ e ∈ ([
    (0x340200A12200400000000000, .vpush .u32 1 2),
    (0x3401C023A100400000000000, .vpop .u32 3 1),
    (0x340000AF0300000000000000, .pcfg 15 3),
    (0x340040A10200000000000040, .sopen 1 ⟨2, 64⟩),
    (0x340080A10000000000000000, .sclose 1),
    (0x3400C003A100000000000002, .pwait 3 1 2),
    (0x34010000A100000000000002, .padvP 1 2),
    (0x34010000A100000100000002, .padvC 1 2),
    (0x34014003A100000000000002, .pfill 3 1 2),
    (0x34018003A100000100000000, .pstat true 3 1)] : List (BitVec 96 × Instr)),
    decodeWord e.1 = .instr Hdr.plain e.2 := by decide
theorem test_words_jobs : ∀ e ∈ ([
    (0x380000000400000100000000, .job true ⟨4, 0⟩),
    (0x380040030400000000000008, .ncmd false 3 ⟨4, 8⟩)] : List (BitVec 96 × Instr)),
    decodeWord e.1 = .instr Hdr.plain e.2 := by decide
theorem test_words_matrix : ∀ e ∈ ([
    (0x400000000506000000000040, .mlds 5 6 64),
    (0x400040000000000000000000, .mswp),
    (0x400080000400000000000000, .mmul false ⟨4, 0⟩),
    (0x400180000000000000000001, .mzero true),
    (0x4001C0030000000100000000, .mstat true 3 0),
    (0x400140000400000000000040, .msto false ⟨4, 0x40⟩),
    (0x4001000004000000000000C0, .mred false ⟨4, 0xC0⟩),
    (0x4000C0000400000100000000, .mmulg true ⟨4, 0⟩)] : List (BitVec 96 × Instr)),
    decodeWord e.1 = .instr Hdr.plain e.2 := by decide
theorem test_words_vector : ∀ e ∈ ([
    (0x5000C0232122900400000000, .vfma ⟨1, false, false⟩ .f32 3 1 (.v 2)),
    (0x5002C0222222400000000000, .vxor ⟨0, false, false⟩ .u32 2 2 (.v 2)),
    (0x500600222123E00000000000, .vdot4 ⟨0, false, false⟩ .i8x4 2 1 (.v 3)),
    (0x500000232100B02700010002, .vadd ⟨1, true, true⟩ .i16x2 3 1 (.imm 0x00010002)),
    (0x500040232104400C00000000, .vsub ⟨3, false, false⟩ .u32 3 1 (.g 4)),
    (0x500080232122900100000000, .vmul ⟨0, false, true⟩ .f32 3 1 (.v 2)),
    (0x500100232122C00100000000, .vfms ⟨0, false, true⟩ .h16x2 3 1 (.v 2)),
    (0x500140232122D00100000000, .vmin ⟨0, false, true⟩ .b16x2 3 1 (.v 2)),
    (0x500180232122E00100000000, .vmax ⟨0, false, true⟩ .i8x4 3 1 (.v 2)),
    (0x500240232122400100000000, .vand ⟨0, false, true⟩ .u32 3 1 (.v 2)),
    (0x500280232122500100000000, .vor ⟨0, false, true⟩ .i32 3 1 (.v 2)),
    (0x500300232122400100000000, .vshl ⟨0, false, true⟩ .u32 3 1 (.v 2)),
    (0x500340232122500100000000, .vshr ⟨0, false, true⟩ .i32 3 1 (.v 2)),
    (0x500380232122B00100000000, .vsra ⟨0, false, true⟩ .i16x2 3 1 (.v 2)),
    (0x5001C0232100500200000000, .vabs ⟨0, true, false⟩ .i32 3 1),
    (0x500200232100900000000000, .vneg ⟨0, false, false⟩ .f32 3 1),
    (0x5003C0632122900600000000, .vcmp .un .f32 3 1 (.v 2)),
    (0x500400232122400800000000, .vsel 2 .u32 3 1 (.v 2)),
    (0x500440232100900400000000, .vrcp ⟨1, false, false⟩ .f32 3 1),
    (0x500480232100900400000000, .vrsq ⟨1, false, false⟩ .f32 3 1),
    (0x5004C0232100900400000000, .vexp2 ⟨1, false, false⟩ .f32 3 1),
    (0x500500232100900400000000, .vlog2 ⟨1, false, false⟩ .f32 3 1),
    (0x500540232100902040000000, .vdiv ⟨0, false, false⟩ .f32 3 1 (.imm 0x40000000)),
    (0x500580232100900000000000, .vsqrt ⟨0, false, false⟩ .f32 3 1),
    (0x5005C0232100400000000000, .vpopc ⟨0, false, false⟩ .u32 3 1)] : List (BitVec 96 × Instr)),
    decodeWord e.1 = .instr Hdr.plain e.2 := by decide
theorem test_words_conversion : ∀ e ∈ ([
    (0x510040222000900000000000, .vqnt .f32 2 0 0 none),
    (0x510000222100E00500000329, .vcvt .rtz 1 true .i8x4 .f32 3 2 1),
    (0x510080222400900000000004, .vdqt 2 4 4)] : List (BitVec 96 × Instr)),
    decodeWord e.1 = .instr Hdr.plain e.2 := by decide
theorem test_words_reduction : ∀ e ∈ ([
    (0x520000052100900000000000, .vred .sum .f32 0 5 1),
    (0x520040222100900000000000, .vscan .sum false .f32 0 false 2 1),
    (0x5200C0230500E00000000000, .vbcast .i8x4 0 false 3 (.g 5)),
    (0x520080212223400100000000, .vperm .u32 0 true 1 2 3),
    (0x52010001220050000000000F, .vext .i32 1 2 15),
    (0x520140210200400000000003, .vins .u32 1 2 3)] : List (BitVec 96 × Instr)),
    decodeWord e.1 = .instr Hdr.plain e.2 := by decide
theorem test_words_masks : ∀ e ∈ ([
    (0x530000616263000000000000, .kand 1 2 3),
    (0x530040616263000000000000, .kor 1 2 3),
    (0x530080616000000000000000, .knot 1 0),
    (0x5300C062000000200000F00F, .kmov (.imm 2 0xF00F)),
    (0x530100016200000000000000, .kpopc 1 2)] : List (BitVec 96 × Instr)),
    decodeWord e.1 = .instr Hdr.plain e.2 := by decide
theorem test_words_bank : ∀ e ∈ ([
    (0x600000070205000000000000, .bscan 2 5 7),
    (0x600080090308000000000000, .filt false 9 3 8),
    (0x6000C0000000000100000006, .topkInit 6),
    (0x6000400A2000000000000000, .hamm 10 0),
    (0x6001000B0400000000000000, .tkrd 11 ⟨4, 0⟩),
    (0x600180060607000400000000, .badd 6 6 7 4),
    (0x600200020003000400000000, .bfill 2 3 4),
    (0x6000C0000102000000000000, .topk 1 2),
    (0x600140010203000400000000, .bdot 1 2 3 4),
    (0x6001C0010203000400000000, .baxpy 1 2 3 4),
    (0x600240010200000400000000, .bcopy 1 2 4)] : List (BitVec 96 × Instr)),
    decodeWord e.1 = .instr Hdr.plain e.2 := by decide
theorem test_words_system : ∀ e ∈ ([
    (0x700000050000000000000003, .srd 5 .hop),
    (0x700040000300000000000006, .swr .fcr 3),
    (0x70008000000000000000BEEF, .trap 0xBEEF),
    (0x7000C0000000000000000000, .bkpt),
    (0x700100000000000000000000, .isync)] : List (BitVec 96 × Instr)),
    decodeWord e.1 = .instr Hdr.plain e.2 := by decide
end Sys2Proof

open Sys2Proof Sys2Proof.Machine
namespace Slice0Tests
/-- The state after an outcome. -/
def nx (o : Host.Outcome State Fault Refusal) : State := match o with | .next s => s | _ => State.reset
/-- Whether an outcome is a next state. -/
def isNext (o : Host.Outcome State Fault Refusal) : Bool := match o with | .next _ => true | _ => false
/-- Whether a result is no error. -/
def okE {ε α : Type} : Except ε α → Bool | .ok _ => true | .error _ => false
/-- The value of a result, or a default. -/
def val {ε α : Type} (d : α) : Except ε α → α | .ok x => x | .error _ => d
/-- The cause of a trap. -/
def trapOf {α : Type} : Except Stop α → Option Cause | .error (.trap e) => some e.cause | _ => none
/-- Tile 0 of a partition of 8 by 8 tiles with page 0 mapped, c0 about to run (log 6). -/
def base : State := placeWord State.reset 0
/-- Registers of the executing thread set. -/
def withG (s : State) (l : List (G × Word)) : State := s.modTh fun th => l.foldl (fun th e => wrG th e.1 e.2) th
/-- Tile 0 changed. -/
def withT (s : State) (f : TileSt → TileSt) : State := s.modTile 0 f
/-- g1 holds an address of page 0, g2 and g3 numbers, g4 a bad address, g5 an address of tile 1, g6 a pane address. -/
def gS : State := withG base [(1, 0x100), (2, 100), (3, 7), (4, 1 <<< 63), (5, 1 <<< 44), (6, 2 <<< 40)]
/-- The same with port e held, two words in its queue and a neighbour there. -/
def portS : State := withT gS fun x => (x.setPort 1 { owner := some 0, q := [5, 6], bad := [false, false], credits := 8 })
/-- The same in tuber context t0. -/
def tubS : State :=
  let b := placeWord State.reset (0x60#8 ++ 0#88)
  withG { b with cur := ⟨0, 32, 0⟩ } [(1, 0x100), (2, 4), (3, 0x200)]

theorem wit_decode : (Instr.add .i64 (.g 5) (.g 3) (.reg (.g 4))).wf = true ∧
    encode Hdr.plain (.add .i64 (.g 5) (.g 3) (.reg (.g 4))) = some 0x010000050304700000000000 ∧
    decodeWord 0x010000050304700000000000 = .instr Hdr.plain (.add .i64 (.g 5) (.g 3) (.reg (.g 4))) := by decide
theorem wit_step_acts : base.stopped = false ∧ base.agenda = [.issue 0 0] ∧ mayIssue (base.ctx 0 0) (base.ctx 0 0).nextOk = true ∧
    alive { base with agenda := [] } 0 = true ∧ selectCtx (base.tile 0) 0 32 (base.tile 0).ptr (base.tile 0).lcyc = some 0 ∧
    selectCtx (State.reset.tile 0) 0 32 0 0 = none ∧ ({ base with stopped := true } : State).stopped = true ∧
    encodeFields (.thermalStop) = none ∧ actorUp { base with agenda := [] } .thermalStop = true ∧
    actorUp (base.modField 0 fun x => { x with down := true }) (.getRequest 0) = false := by decide
theorem wit_step_tuber :
    let s := serveAged (withT (placeWord State.reset (0x60#8 ++ 0#88)) fun x => x) 0
    alive s 0 = true ∧ (let y := (cycleCtxs s 0 true).tile 0; (selectCtx y 32 8 y.tptr y.tcyc).isSome) = true ∧
      (let y := (cycleCtxs base 0 true).tile 0; selectCtx y 32 8 y.tptr y.tcyc) = none := by decide
/-- c0 about to run a word. -/
def fetchS (w : BitVec 96) : State := { placeWord State.reset w with cur := ⟨0, 0, 0⟩ }
theorem wit_step_words : (fetchTile (fetchS 0) 0 0 0).toOption.map (·.2) = some 0 ∧ decodeWord 0 = .illegal ∧
    (fetchTile (fetchS 0xFF0000000000000000000000) 0 0 0).toOption.map (·.2) = some 0xFF0000000000000000000000 ∧
    decodeWord 0xFF0000000000000000000000 = .pool ∧
    (fetchTile (fetchS 0x010000050304700000000000) 0 0 0).toOption.map (·.2) = some 0x010000050304700000000000 ∧
    decodeWord 0x010000050304700000000000 = .instr Hdr.plain (.add .i64 (.g 5) (.g 3) (.reg (.g 4))) ∧
    guardPending (base.ctx 0 0) 0 = false ∧ interlocked (base.ctx 0 0) (.add .i64 (.g 5) (.g 3) (.reg (.g 4))) = false ∧
    (base.ctx 0 0).gang = .none ∧ rdP (base.ctx 0 0).th 0 ≠ false := by decide
theorem wit_step_waits :
    let x := { base.ctx 0 0 with pend := [⟨.gp 3 1, [(0, [])], [], 0, 0, none⟩] }
    guardPending x 1 = true ∧ interlocked x (.add .i64 (.g 5) (.g 3) (.reg (.g 4))) = true ∧ rdP x.th 1 = false := by decide
theorem wit_step_fetch : okE (readHome base 0 0 12 aFetch) = true ∧ (base.tile 0).icache = [] ∧
    (match resolve base 0 false 0 aFetch 12 with | .ok (.tile t o) => (t, o) | _ => (1, 1)) = (0, 0) ∧ (0x16#64).toNat % 4 ≠ 0 := by decide
theorem wit_memory : State.reset.memOk ∧ isNext (step base) = true ∧ base.memOk := by decide
theorem wit_frames : regDest (.add .i64 (.g 5) (.g 3) (.reg (.g 4))) = some [(0, 5)] ∧
    regDest (.vqnt .f32 1 2 0 none) = some [(1, 1), (1, 2)] ∧ (Instr.vqnt .f32 2 2 0 none).wf = true ∧
    (Instr.add .i64 (.g 5) (.g 3) (.reg (.g 4))).wf = true ∧ base.me.stepping = false := by decide
theorem wit_quiet : quiet gS ∧ Memory.wf gS.mem ∧ Ty.i64.isMem = true := by unfold quiet onCore; decide
theorem wit_own : (homeFor gS 0x100 aWrite 8).toOption = some (.tile 0 0x100) ∧ (homeFor gS 0x100 aRead 8).toOption = some (.tile 0 0x100) ∧
    eaX gS.th ⟨1, 0, 0, 0⟩ = 0x100 ∧ eaB gS.th ⟨1, 0⟩ = 0x100 ∧ okE (xlate gS 0 0x100 aWrite) = true ∧ okE (xlate gS 0 0x2000 aWrite) = false ∧
    (homeFor gS (2 <<< 40) aWrite 4).toOption = some (.tile 0 (2 <<< 40)) ∧ fld (2 <<< 40) 40 4 = 2 := by decide
theorem wit_operands : checkPorts gS [.g 3] [.g 1, .g 2] = .ok () ∧ checkPorts portS [.port .e] [.port .e, .g 2] = .ok () ∧
    Ty.i64.isInt = true ∧ Ty.i8.isSInt = true ∧ Ty.u16.isUInt = true := by decide

/-- Floating-point operands: g1 a quiet NaN, g2 a signalling one, g3 1, g4 and g5 infinities, g6 and g7 zeros, g8 -1. -/
def fS : State := withG base [(1, 0x7FC00000), (2, 0x7F800001), (3, 0x3F800000), (4, 0x7F800000), (5, 0xFF800000), (6, 0), (7, 0x80000000),
  (8, 0xBF800000)]
theorem wit_float : Ty.f32.isScalarF = true ∧ fvA fS.th .f32 1 = .nan false ∧ fvA fS.th .f32 2 = .nan true ∧ fvA fS.th .f32 4 = .inf false ∧
    fvA fS.th .f32 5 = .inf true ∧ fvB fS.th .f32 (.reg 6) = .fin false 0 (-149) ∧ fvA fS.th .f32 3 = .fin false (2 ^ 23) (-23) ∧
    fvB fS.th .f32 (.reg 8) = .fin true (2 ^ 23) (-23) ∧ fvB fS.th .f32 (.imm 0x3F800000) = .fin false (2 ^ 23) (-23) ∧
    fvA fS.th .f32 7 = .fin true 0 (-149) := by decide
theorem wit_float_rat : (FV.fin false (2 ^ 23) (-23)).rat = 1 ∧ (FV.fin true (2 ^ 23) (-23)).rat = -1 ∧ (FV.fin false 0 (-149)).rat = 0 := by
  norm_num [FV.rat]
theorem wit_float_order : (fvA fS.th .f32 7).isNan = false ∧ (fvA fS.th .f32 7).sign = true ∧ (fvB fS.th .f32 (.reg 6)).sign = false := by decide
theorem wit_port : (portS.tile 0).np .e = 1 <<< 63 ∧ ((gS.tile 0).port 1).owner ≠ some gS.cur.c ∧ ((portS.tile 0).port 1).owner = some portS.cur.c ∧
    neighbour { portS.tile 0 with npe := 1 <<< 32 } .e = some 1 := by decide
theorem wit_fields : (1 : Nat) ≤ (0x7F#7 - 63).toNat ∧ (0#6).toNat + (64#7).toNat ≤ 64 ∧ (63#6).toNat + (1#7).toNat ≤ 64 ∧ (64#32).toNat ≤ 64 := by decide
theorem wit_address : (resolve gS 0 false (1 <<< 63) aRead).toOption = none ∧ (resolve gS 0 false (1 <<< 44) aRead).toOption = some (.tile 1 0) ∧
    (match resolve (gS.modTile 0 fun x => x) 0 false (1 <<< 57) aRead with | .error e => e.cause | _ => .address) = .partition ∧
    bit ((gS.tile 0).np .n) 63 = true ∧ bit (({ gS.tile 0 with npe := 1 <<< 32 } : TileSt).np .e) 63 = false := by decide
/-- The partition with an edge channel. -/
def edgeS : State := match gS.part 0 with | some p => gS.setPart { p with chans := [0] } | none => gS
theorem wit_edge : (resolve edgeS 0 false (1 <<< 57) aRead).toOption = some (.edge 0) ∧ (homeFor edgeS (1 <<< 57) aRead 8).toOption = some (.edge 0) := by decide
theorem wit_exit : gS.me.pend = [] ∧ gS.me.outs = [] ∧ (gS.tile 0).comb = [] ∧ gS.me.gang = .none ∧ streamsOf gS 0 0 = [] ∧
    gS.th.tjob = none ∧ gS.cur.c < 32 ∧ chargeTile gS 0 gS.th = 0 ∧ (gS.tile 0).notices = [] ∧
    (gS.modMe fun c => { c with outs := [⟨0, 0, 8, 0, 0, none⟩] }).me.outs ≠ [] ∧ streamDrains gS 0 0 = false := by decide
theorem wit_local : trapOf (homeFor gS (1 <<< 63) aRead 8) = some .address ∧ gS.cur.c < 32 ∧ (0x100 : Nat) / 2 ^ 40 ≠ 3 ∧ (0x100#64).toNat % 16 + 8 ≤ 16 ∧
    constRead gS 0x100 8 = none ∧ okE (readHome gS 0 0x100 8 aRead) = true ∧ okE (readHome gS 0 0x2000 8 aRead) = false ∧ Ty.u128.isMem = true ∧
    relHeld gS = false ∧ (homeFor gS 0x10C aRead 8).toOption = some (.tile 0 0x10C) ∧
    okE (readPieces gS 0 aRead (localPieces 0x10C 8)) = true := by decide
theorem wit_rel : relHeld (gS.modMe fun c => { c with relIds := [0], outs := [⟨0, 0, 8, 0, 0, none⟩] }) = true := by decide
theorem wit_tuber_access : tubS.onTuber = true ∧ (homeFor tubS 0x100 tubR 8).toOption = some (.tile 0 0x100) ∧ footprintOk tubS 0 32 0x100 8 true = true ∧
    okE (readPieces tubS 0 tubR (localPieces 0x100 8)) = true ∧
    (let x := (tubS.modMe fun c => { c with st := .waiting, wait := .bank, tub := { c.tub with prog := some ⟨0, 0, 0x100, 0, 0, 0, 8, 0, [], destOf .u64 3, 0⟩ } }).me
     x.st = .waiting ∧ x.wait = .bank ∧ x.tub.isNcmd = false ∧ x.tub.prog.map (·.dest) = some (destOf .u64 3) ∧ x.gang = .none ∧ x.stepping = false) ∧
    okE (writePieces tubS 0 tubW (splitData (localPieces 0x100 8) [1,2,3,4,5,6,7,8])) = true := by decide
theorem wit_pool : okE (writeHome gS 0 (2 * 2 ^ 40) [1] aWrite) = true ∧ (xlate gS 0 0x100 aWrite).toOption.map (·.2.key) = some 0 := by decide
theorem wit_remote : (homeFor gS (1 <<< 44) aRead 8).toOption = some (.tile 1 0) ∧ (homeFor gS (1 <<< 44) aWrite 8).toOption = some (.tile 1 0) ∧
    (0 : Nat) / 2 ^ 40 ≠ 3 ∧ pinnedTo gS 0 0 1 = false ∧ pinnedTo (gS.modTh fun th => { th with epin := true }) 0 0 1 = true ∧
    vaultAddr gS 0 8 0x100 = true ∧ vaultAddr gS 0 8 0x101 = false ∧ holder gS 0 none 1 = none := by decide

/-- An outstanding write, a pending destination, a combining entry of c0. -/
def outE : Out := ⟨7, 0x100, 8, 0, 0, none⟩
def pendE : Pend := ⟨.g 3 .u64, [(7, [])], [(0x100, 8)], 0, 0, none⟩
def combE : CombEnt := ⟨7, 0x100, .min, .u64, 5, [(0, 0, 0, 0)], 0⟩
def outS : State := gS.modMe fun c => { c with outs := [outE] }
def pendS : State := gS.modMe fun c => { c with pend := [pendE] }
def combS : State := withT gS fun x => { x with comb := [combE] }
/-- Bytes of page 0, and their tags. -/
def withM (s : State) (a : Nat) (l : List Byte) : State := { s with mem := cputs s.mem (vKey 0 (0x1000 + a)) l }
theorem wit_migrate : (match homeFor gS (1 <<< 44) aRead 1 with | .ok (.tile t o) => (t, o) | _ => (0, 9)) = (1, 0) ∧ outS.me.outs ≠ [] ∧
    (combS.tile 0).comb ≠ [] ∧ Ty.u8.isMem = true ∧ constRead gS (1 <<< 44) 8 = none := by decide
theorem wit_vector : rdK gS.th 0 = 0xFFFF ∧ okE (laneHomes gS aRead [(0, 0x100), (1, 0x104)]) = true ∧
    okE (laneHomes gS aWrite [(0, 2 <<< 40), (1, (2 <<< 40) + 4)]) = true ∧ trapOf (laneHomes gS aRead [(0, 0x102)]) = some .address ∧
    ((val [] (laneHomes gS aRead [(0, 0x100), (1, 0x104)])).all (laneNow gS)) = true ∧
    blockHome (val [] (laneHomes gS aRead [(0, 0x100), (1, 0x104)])) = .ok () ∧
    okE (readLanes gS (rdV gS.th 0) (val [] (laneHomes gS aRead [(0, 0x100), (1, 0x104)]))) = true ∧
    okE (writeLanes gS (rdV gS.th 0) (val [] (laneHomes gS aWrite [(0, 0x100), (1, 0x104)]))) = true ∧
    okE (writeGranules gS (rdV gS.th 0) (granules (val [] (laneHomes gS aWrite [(0, 0x100), (1, 0x104)])))) = true ∧
    (val [] (laneHomes gS aRead [(0, 1 <<< 44)])).head? = some (0, (1 <<< 44 : Word), Home.tile 1 0) := by decide
theorem wit_atomics : okE (atomHome gS 0x100 8) = true ∧ trapOf (atomHome gS 0x101 8) = some .address ∧ okE (atomCheck gS 0x100 8) = true ∧
    trapOf (atomCheck gS 0x101 8) = some .address ∧ okE (mayWrite gS 0 0x100 8) = true ∧ okE (xlate gS 0 0x2000 aWrite) = false ∧ (atomHome gS (1 <<< 44) 8).toOption = some (1, 0) ∧
    (atomHome gS 0x100 8).toOption = some (0, 0x100) ∧ (gS.tile 0).comb.length < 32 ∧ (∀ e ∈ (combS.tile 0).comb, e.addr = 0x100 ∧ e.op ≠ .fadd) ∧
    (∀ w ∈ ({ combE with who := [(1, 0, 0, 0)] } : CombEnt).who, ¬ (w.1 = 0 ∧ w.2.1 = gS.th.tid)) ∧ Ty.i32.isAtom = true ∧
    leNat (val (gS, []) (readHome gS 0 0x100 8 aRead)).2 = (rdG gS.th 0).toNat ∧ leNat (val (gS, []) (readHome gS 0 0x100 8 aRead)).2 ≠ (rdG gS.th 2).toNat ∧
    (0x101#64).toNat % 8 ≠ 0 ∧ okE (homeFor gS 0x101 aWrite 1) = true ∧ pinnedTo gS 0 0 1 = false := by decide
/-- Page 0 allows sync words. -/
def syS : State := { gS with mem := cputs gS.mem (vKey 0 0x14000) (wBytes 0x02F0000000001001) }
theorem wit_sync : (syncAddr syS 0x100 true).toOption = some (0, 0x100) ∧ (syncAddr syS 0x100 false).toOption = some (0, 0x100) ∧
    trapOf (syncAddr syS 0x101 true) = some .address ∧ okE (xlate syS 0 0x100 aSyncW) = true ∧ okE (xlate syS 0 0x100 aSyncR) = true ∧
    poisonTrap syS (vKey 0 0x1100) 8 = none ∧ tagAt syS 0 0x1100 = false ∧ tagAt (setTag syS 0 0x1100 true) 0 0x1100 = true ∧
    pinned syS 0 0 = false ∧ bindingsOf syS 0 0x100 = [] ∧ syS.me.snap = none ∧ (syS.tile 0).jobs = [] ∧ defList syS 0 0x100 = [] := by decide
theorem wit_bind : regionOk gS 0x100 8 = true ∧ regionOk gS 0x100 0 = false ∧ (gS.tile 0).binds = [] ∧
    (gS.tile 0).binds.length < 64 ∧
    duePend gS.me (fenceCovers gS 0) = [] ∧ duePend pendS.me (fenceCovers pendS 0) ≠ [] ∧ dueOuts outS.me (fenceCovers outS 0) ≠ [] ∧
    dueOuts gS.me (fenceCovers gS 0) = [] := by decide

theorem wit_barrier : barOk (gS.tile 0) 0 = true ∧ barOk (gS.tile 0) (1 <<< 63) = false ∧ ((gS.tile 0).bar 0).desc = none ∧ fld (0 : Word) 47 17 = 0 ∧ bit (0 : Word) 38 = false ∧
    fld (0 : Word) 40 7 = (gS.tile 0).lx ∧ fld (0 : Word) 32 6 = (gS.tile 0).ly ∧ ((gS.tile 0).bar 0).ph.toNat = fld (0 : Word) 0 32 ∧
    ((gS.tile 0).bar 0).ph.toNat ≠ fld (1 : Word) 0 32 ∧ fld (1 <<< 40 : Word) 40 7 ≠ (gS.tile 0).lx ∧ (gS.tile 0).at 0 0 = 0 := by decide

/-- An instruction is refused by the checks (R182). -/
theorem test_wf_types : Instr.wf (.add .f32 (.g 1) (.g 2) (.reg (.g 3))) = false ∧ Instr.wf (.div .u32 (.g 1) (.g 2) (.reg (.g 3))) = false ∧
    Instr.wf (.divu .i32 (.g 1) (.g 2) (.reg (.g 3))) = false ∧ Instr.wf (.fadd .dyn .i32 1 2 (.reg 3)) = false ∧
    Instr.wf (.fcvt .dyn .i32 .u64 1 2) = false ∧ Instr.wf (.fcvt .dyn .f32 .f32 1 2) = false ∧ Instr.wf (.ld .f32 1 ⟨1, 0, 0, 0⟩) = false ∧
    Instr.wf (.aadd .u8 1 ⟨1, 0, 0, 0⟩) = false ∧ Instr.wf (.vadd ⟨0, false, false⟩ .u64 0 1 (.v 2)) = false ∧ Instr.wf (.vdot4 ⟨0, false, false⟩ .i32 0 1 (.v 2)) = false ∧
    Instr.wf (.vrcp ⟨0, false, false⟩ .h16x2 0 1) = false ∧ Instr.wf (.vpopc ⟨0, false, false⟩ .i8x4 0 1) = false := by decide
theorem test_wf_ranges : Instr.wf (.bext (.g 1) (.g 2) 63 2) = false ∧ Instr.wf (.bins 1 (.g 2) 0 0) = false ∧ Instr.wf (.sext (.g 1) (.g 2) 65) = false ∧
    Instr.wf (.zext (.g 1) (.g 2) 0) = false ∧ Instr.wf (.mlds 1 2 0) = false ∧ Instr.wf (.mlds 1 2 65) = false ∧ Instr.wf (.mstat false 1 3) = false ∧
    Instr.wf (.vqnt .f32 0 2 5 none) = false ∧ Instr.wf (.lead 0 .e) = false := by decide
theorem test_wf_conditions : Instr.wf (.cmp .un .i32 1 1 (.reg 2)) = false ∧ Instr.wf (.tst .lt .i32 1 1 (.reg 2)) = false ∧
    Instr.wf (.vcmp .un .i32 1 0 (.v 1)) = false ∧ Instr.wf (.vadd ⟨0, true, false⟩ .f32 0 1 (.v 2)) = false ∧
    Instr.wf (.vand ⟨0, true, false⟩ .i32 0 1 (.v 2)) = false ∧ Instr.wf (.vred .and .f32 0 1 2) = false ∧ Instr.wf (.vcvt .dyn 0 false .i8x4 .i16x2 0 0 1) = false := by decide
theorem test_wf_pairs : Instr.wf (.ld .u128 3 ⟨1, 0, 0, 0⟩) = false ∧ Instr.wf (.st .u128 0 ⟨1, 0, 0, 0⟩) = false ∧ Instr.wf (.vqnt .f32 1 2 0 none) = false ∧
    Instr.wf (.vdqt 0 3 0) = false ∧ Instr.wf (.vgath .f32 0 0 1 ⟨1, 0⟩ 3) = false ∧ Instr.wf (.pref ⟨1, 0⟩ 8 0 1) = false ∧
    Instr.wf (.vqnt .i32 0 2 0 (some 1)) = false := by decide
-- Words (09 R172, R182, R184, R185).
theorem test_guard_word : decodeWord 0x0130_1001_0200_7020_0000_0010 = .instr { Hdr.plain with gn := false, gp := 3, st := 4 } (.add .i64 (.g 1) (.g 2) (.imm false 16)) ∧
    decodeWord 0x01B0_1001_0200_7020_0000_0010 = .instr { Hdr.plain with gn := true, gp := 3, st := 4 } (.add .i64 (.g 1) (.g 2) (.imm false 16)) ∧
    decodeWord 0x0180_1001_0200_7020_0000_0010 = .illegal ∧ decodeWord 0 = .illegal ∧ decodeWord (0xFF#8 ++ 1#88) = .pool := by decide
theorem test_no_words : encodeFields .thermalStop = none ∧ (decodeTableWord 96 0).isNone = true := by decide
-- The worked examples of chapters 10, 12 and 13.
def g4 (o : Host.Outcome State Fault Refusal) : Word := rdG (nx o).th 4
def divS (v : Word) : State := withG base [(5, 0xFFFF_FFFF_0000_0064), (6, v)]
theorem test_div : g4 (execDiv .i32 (.g 4) (.g 5) (.imm false 0xFFFFFFF9) (divS 0)) = 0xFFFF_FFFF_FFFF_FFF2 ∧
    g4 (execRem .i32 (.g 4) (.g 5) (.imm false 0xFFFFFFF9) (divS 0)) = 2 := by decide
theorem test_div_zero : g4 (execDiv .i32 (.g 4) (.g 5) (.reg (.g 6)) (divS 0)) = 0xFFFF_FFFF_FFFF_FFFF ∧
    g4 (execRem .i32 (.g 4) (.g 5) (.reg (.g 6)) (divS 0)) = 100 := by decide
theorem test_sra_u32 : g4 (execSra .u32 (.g 4) (.g 5) (.imm false 4) (withG base [(5, 0x8000_0000)])) = 0xF800_0000 := by decide
/-- Tile 0 stands at (5, 3) of a partition of 16 by 16. -/
def midS (x y : Nat) : State :=
  withG (withT gS fun t => { t with prt := w64 (16 * 2 ^ 40 + 16 * 2 ^ 32), tco := w64 (x * 2 ^ 8 + y) })
    [(2, w64 (x * 2 ^ 8 + y)), (4, 0x0200_0000_0040), (5, 0x0018_6200_0000_0040)]
theorem test_gaddr : rdG (nx (execGaddr 1 4 2 (midS 5 3))).th 1 = 0x0018_5200_0000_0040 ∧
    rdG (nx (execHome 6 5 (midS 5 3))).th 6 = 0x603 := by decide
def fpS2 (m : BitVec 2) : State := (withG base [(2, 0x3F80_0000), (3, 0x3380_0000), (5, 0x4F00_0000), (6, 0x3F80_0001)]).modTh fun th => { th with rm := m }
theorem test_fadd_rne : (let th := (nx (execFadd .dyn .f32 1 2 (.reg 3) (fpS2 0))).th; (rdG th 1, th.fst)) = (0x3F80_0000, 1) := by decide
theorem test_fadd_rpi : (let th := (nx (execFadd .rpi .f32 1 2 (.reg 3) (fpS2 0))).th; (rdG th 1, th.fst)) = (0x3F80_0001, 1) := by decide
theorem test_fcvt : (let th := (nx (execFcvt .rtz .i32 .f32 4 6 (fpS2 0))).th; (rdG th 4, th.fst)) = (1, 1) := by decide
theorem test_fcvt_range : (let th := (nx (execFcvt .rtz .i32 .f32 4 5 (fpS2 0))).th; (rdG th 4, th.fst)) = (0x7FFF_FFFF, 16) := by decide
/-- The block of the FP32 example of R69 in v0 and v1. -/
def qntS : State := base.modTh fun th => { th with v := th.v.set 0 #v[0x40733333, 0xBF333333, 0x3FF33333, 0x3E4CCCCD, 0x3E800000, 0x3F400000, 0, 0, 0, 0, 0, 0, 0, 0, 0, 0] }
set_option maxRecDepth 20000 in
theorem test_vqnt : (let v := (nx (execVqnt .f32 2 0 0 none qntS)).th.v[2]; (lane v 0, lane v 1, lane v 2, lane v 3)) = (0x8180, 0, 0x002004F7, 0) := by decide
set_option maxRecDepth 20000 in
theorem test_vdqt : (let v := (nx (execVdqt 4 2 0 (nx (execVqnt .f32 2 0 0 none qntS)))).th.v[4]; (lane v 0, lane v 1, lane v 2, lane v 3, lane v 5)) =
    (0x40600000, 0xBF000000, 0x40000000, 0, 0x3F800000) := by decide
/-- 2^24 in lane 0 of v1 and 1 in the others. -/
def sumS : State := base.modTh fun th => { th with v := th.v.set 1 ((Vector.replicate 16 0x3F800000).set 0 0x4B800000) }
theorem test_vred : (let th := (nx (execVred .sum .f32 0 5 1 sumS)).th; (rdG th 5, th.fst)) = (0x4B80_0007, 1) := by decide
theorem test_vscan : (let th := (nx (execVscan .sum false .f32 0 false 2 1 sumS)).th; (th.v[2] == Vector.replicate 16 0x4B800000, th.fst)) = (true, 1) := by decide
-- Memory, control and special registers (11 R228, 10 R213, 09 R176, 17 R359).
theorem test_store_load : (let s := nx (execSt .u16 2 ⟨1, 0, 0, 2⟩ (withG base [(1, 0x100), (2, 0x12345678)])); rdG (nx (execLd .i64 3 ⟨1, 0, 0, 0⟩ s)).th 3) = 0x56780000 := by decide
theorem test_branch : (nx (execBr 0xFFFFFFFB base)).th.pc = base.th.pc + 12 - 60 ∧ (nx (execCall 2 base)).th.pc = base.th.pc + 36 ∧
    rdG (nx (execCall 2 base)).th 15 = base.th.pc + 12 := by decide
theorem test_trap : ((nx (execTrap 5 base)).ctx 0 0).st = .frozen ∧ ((nx (execTrap 5 base)).ctx 0 0).th.pc = base.th.pc + 12 := by decide
theorem test_step_guard : (let s := { placeWord State.reset 0x0130_1001_0200_7020_0000_0010 with stopped := false }; (nx (step s)).ctx 0 0 |>.th.pc) =
    (State.reset |> fun _ => (placeWord State.reset 0).ctx 0 0 |>.th.pc) + 12 := by decide
theorem test_vfma : (let th := (nx (execVfma ⟨1, false, false⟩ .f32 3 1 (.v 2) (base.modTh fun th => { th with k := th.k.set 1 3, v := #v[Vector.replicate 16 0, Vector.replicate 16 0x40400000, Vector.replicate 16 0x3F000000, Vector.replicate 16 0x3F800000, Vector.replicate 16 0, Vector.replicate 16 0, Vector.replicate 16 0, Vector.replicate 16 0] }))).th
    (lane th.v[3] 0, lane th.v[3] 1, lane th.v[3] 2, lane th.v[3] 15, th.fst)) = (0x40200000, 0x40200000, 0x3F800000, 0x3F800000, 0) := by decide
def casS (v : Word) : State := withM (withG base [(8, 0x100), (7, v), (9, 0x77)]) 0x110 [5]
theorem test_cas : (let s := nx (execCas .u64 7 ⟨8, 16⟩ 9 (casS 5)); (rdG s.th 7, cget s.mem (vKey 0 0x1110))) = (5, 0x77) ∧
    (let s := nx (execCas .u64 7 ⟨8, 16⟩ 9 (casS 4)); (rdG s.th 7, cget s.mem (vKey 0 0x1110))) = (5, 5) := by decide

theorem wit_barrier_wait : (∀ k ∈ (gS.tile 0).ctxs, k.2.wait = .none) ∧
    (let s := gS.modMe fun c => { c with st := .waiting, wait := .barrier 0 0 5 0 1 }
     (s.ctx 0 0).st = .waiting ∧ (s.ctx 0 0).wait = .barrier 0 0 5 0 1 ∧ 0 + 5 ≤ ((withT s fun x => { x with lcyc := 5 }).tile 0).lcyc) ∧
    barRect 0 = ⟨(gS.tile 0).lx, (gS.tile 0).ly, 1, 1⟩ ∧ ((withT gS fun x => x.setBar 0 ⟨0, some 0⟩).tile 0).bar 0 = ⟨0, some 0⟩ ∧
    dueOuts gS.me (barCovers (barRect 0)) = [] ∧ dueOuts outS.me (barCovers (barRect 0)) ≠ [] ∧ duePend gS.me (barCovers (barRect 0)) = [] := by decide
/-- c0 at one line of LOCKL or of another instruction of its family. -/
def linesS (op : LineFn) : State := gS.modMe fun c => { c with st := .waiting, wait := .lines op 0x100 1 0 1 }
theorem wit_cache : fld (0x100 : Word) 57 7 = 0 ∧ fld (0x100 : Word) 44 7 < (gS.tile 0).pw ∧ fld (0x100 : Word) 51 6 < (gS.tile 0).phh ∧ tileOf gS 0 0x100 = 0 ∧
    fld (0x100 : Word) 40 4 = 0 ∧ (8 : Word).toNat ≤ 2 ^ 30 ∧ fld (1 <<< 57 : Word) 57 7 ≠ 0 ∧ (linesS .unlock).me.wait = .lines .unlock 0x100 1 0 1 ∧
    ((leafAt (linesS (.lock 5 1)) 0 0x100).map fun e => readable 0 e.1 e.2) = some true ∧ (lockedWays (gS.tile 0) 34).length < 9 ∧
    lockRoom gS 0 none = false ∧ (linesS .inval).me.stepping = false ∧ (linesS .inval).me.gang = .none ∧
    (leafAt gS 0 0x100).isSome = true ∧ ((leafAt gS 0 0x100).map fun e => bit e.2 53) = some true ∧ afind (gS.tile 0).dirty 34 = none ∧
    vaultAddr gS 0 8 1 = false ∧ vaultAddr gS 0 8 0x100 = true ∧
    ((withT gS fun x => { x with prefs := [⟨0x100, 1, 0, 0, 0, 0⟩] }).tile 0).prefs[0]? = some ⟨0x100, 1, 0, 0, 0, 0⟩ := by decide

/-- A thread of launch 0; a deque record. -/
def launchS : State := gS.modTh fun th => { th with launch := some 0 }
def rec0 : Rec := ⟨0, 0x40, 1, 2, 3, 4, none⟩
theorem wit_spawn : jcaOk gS 0 = true ∧ jcaOk gS 1 = false ∧ gS.th.launch = none ∧ launchS.th.launch = some 0 ∧ launchS.th.tjob = none ∧
    (gS.tile 0).deque.length + (gS.tile 0).spCount < 65792 ∧ 65792 ≤ ((withT gS fun x => { x with spCount := 65792 }).tile 0).spCount ∧
    (resolve gS 0 false (1 <<< 44) aRead 1).toOption = some (.tile 1 0) ∧ holder launchS 0 (some 0) 1 = none ∧ pendS.me.pend ≠ [] ∧
    eaB gS.th ⟨0, 0⟩ = 0 ∧ eaB gS.th ⟨1, 0⟩ ≠ 0 ∧ (atomHome gS 0x100 8).toOption = some (0, 0x100) ∧
    leNat (val (gS, []) (readHome (withM gS 0x100 [1]) 0 0x100 8 aRead)).2 = 1 := by decide
theorem wit_settled : settled gS := by unfold settled; decide
/-- Packets in flight, and in tile 0's handler queue. -/
def netS (l : List Packet) : State := { gS with net := l }
def hqS (l : List Packet) : State := withT gS fun x => { x with hq := l }
def req0 : Req := ⟨0, 0, 7, 0, 0, 0, false, 0, 0⟩
theorem wit_deque : ((hqS [⟨1, 0, 3, .spawnx req0 rec0, []⟩]).tile 0).hq = [⟨1, 0, 3, .spawnx req0 rec0, []⟩] ∧ rec0.tjob = none ∧
    deliverable (netS [⟨1, 0, 4, .spawnxRe req0 true, []⟩]) 0 = some ⟨1, 0, 4, .spawnxRe req0 true, []⟩ ∧
    stillThere gS req0 = true ∧ (gS.tile 0).lcyc < (gS.tile 0).balAt + (gS.tile 0).balInt ∧
    ((withT gS fun x => { x with lcyc := 4096 }).tile 0).balAt + 4096 ≤ 4096 ∧ shipTargets gS 0 = [] ∧ neighbour (gS.tile 0) .n = none ∧
    dirsTo { gS.tile 0 with npn := 1 <<< 32 } 1 = [.n] ∧ ((hqS [⟨1, 0, 3, .ship [rec0], []⟩]).tile 0).hq = [⟨1, 0, 3, .ship [rec0], []⟩] ∧ decodeWord 0x310081000506000000000000 = .illegal := by decide
theorem wit_ship :
    let s := withT gS fun x => { x with npe := 1 <<< 32, depths := [(1, 0)], deque := List.replicate 4 rec0 }
    shipTargets s 0 ≠ [] ∧ leastDepth (shipTargets s 0) = some (1, 0) ∧ 2 * 0 < (s.tile 0).deque.length ∧ 0 + 2 ≤ (s.tile 0).deque.length ∧
      (s.tile 0).shipping = [] ∧ (s.tile 0).spCount = 0 := by decide
theorem wit_gang : chain gS .e 1 0 = none ∧ (gS.tile 0).leading = none ∧ gS.me.gang = .none ∧ gS.cur.c ≠ 29 ∧
    (chain (withT gS fun x => { x with npe := 1 <<< 32 }) .e 1 0) = some [1] ∧ outranked (withT gS fun x => { x with npe := 1 <<< 32 }) 0 [1] = false ∧
    (gS.tile 0).leadRes = none ∧ armed (gS.modCtx 1 29 fun x => { x with st := .waiting, gang := .armed }) 1 = true ∧ (gS.ctx 1 29).fq = [] ∧
    bit ((gS.tile 0).np .n) 63 = true ∧ ((gS.tile 0).port 0).owner = none ∧ ((withT gS fun x => { x with leading := some 3 }).tile 0).leading = some 3 := by decide
/-- Pane h1 a slot pane of four slots of 256 bytes with a ready slot. -/
def paneS : State := withT gS fun x => x.setPane 1 { Pane.off with mode := 1, nslot := 4, slots := [(0, .ready)] , pptr := 1 }
theorem wit_pane : paneOk (gS.tile 0) 1 (1 <<< 62 ||| 4 <<< 18) = true ∧ paneOk (gS.tile 0) 1 (1 <<< 30) = false ∧ ((gS.tile 0).pane 1).mode = 0 ∧
    ((paneS.tile 0).pane 1).canClaim true 1 = true ∧ ((paneS.tile 0).pane 1).canClaim false 1 = true ∧ ((paneS.tile 0).pane 1).canClaim true 4 = false ∧
    ((paneS.tile 0).pane 1).claims = [] ∧ ((paneS.tile 0).pane 1).count .filling = 0 ∧ ((paneS.tile 0).pane 1).count .draining = 0 ∧
    poisonTrap paneS (pKey 0 0) 64 = none ∧ ((((paneS.tile 0).pane 1).claim true 1)).count .filling = 1 := by decide

/-- A thread charged to tile 0, and one charged to tile 1. -/
def th0 : Thread := { Thread.zero with tid := 9, pc := 0x24 }
theorem wit_pods : deliverable (netS [⟨1, 0, 0, .pod th0 0 none none, []⟩]) 0 = some ⟨1, 0, 0, .pod th0 0 none none, []⟩ ∧ th0.pid.toNat = (gS.tile 0).pid ∧
    (gS.tile 0).arrSides = [] ∧ chargeTile gS 0 th0 = 0 ∧ freeUser (gS.tile 0) = some 1 ∧
    freeUser ({ gS.tile 0 with ctxs := (List.range 30).map fun i => (i, Ctx.ofThread th0 0) }) = none ∧
    heldCtx (gS.modMe fun c => { c with st := .held, mig := some ⟨1, 0, 0, none, 0⟩ }) 0 0 = some 0 ∧
    chargeTile gS 0 { th0 with cx := 1 } = 1 ∧ holder gS 0 none 1 = none ∧ (gS.tile 0).pops = [] ∧ (takeCharge (gS.tile 0)).map (·.1) = some 1 ∧
    (gS.modTh fun th => { th with apin := true }).th.pspan = 0 ∧ Memory.wf gS.mem ∧ (gS.tile 0).at 1 0 = 1 ∧
    deliverable (netS [⟨1, 0, 2, .parkDeposit th0 0 1 none, []⟩]) 0 = some ⟨1, 0, 2, .parkDeposit th0 0 1 none, []⟩ := by decide
theorem wit_ring : (List.replicate 4096 (sideOf th0)).length = 4096 := List.length_replicate ..
theorem wit_requests : okE (getPieces (hqS []) 0 [(0x100, 8)]) = true ∧ okE (readHome (hqS []) 0 (fld (0x2000 : Word) 0 44) 8 aRead) = false ∧
    okE (writeHome (hqS []) 0 (fld (0x100 : Word) 0 44) [1, 2] aWrite) = true ∧ okE (writeHome (hqS []) 0 (fld (0x2000 : Word) 0 44) [1, 2] aWrite) = false ∧
    okE (homeOp (hqS []) 0 (fld (0x100 : Word) 0 44) (.xadd .u64 1)) = true ∧ okE (homeOp syS 0 (fld (0x100 : Word) 0 44) .tryt) = true ∧
    okE (homeOp syS 0 (fld (0x100 : Word) 0 44) (.take 3)) = true ∧ okE (homeOp (hqS []) 0 (fld (0x2000 : Word) 0 44) (.xadd .u64 1)) = false ∧
    stillThere pendS req0 = true ∧ pendS.me.pend = [⟨.g 3 .u64, [(req0.id, [])], [(0x100, 8)], 0, 0, none⟩] ∧ pendS.me.st ≠ .packing ∧ pendS.me.relocating = none ∧
    okE (incrHome gS 0 (fld (0x100 : Word) 0 44) 1) = true ∧ (gS.tile 0).deferred = [] ∧
    (edgeS.part 0).map (fun p => okE (edgeRead edgeS p 0 8) && okE (edgeWrite edgeS p 0 [1])) = some true := by decide
theorem wit_snapshot : (gS.modMe fun c => { c with st := .waiting, wait := .snapshot 7 }).me.wait = .snapshot req0.id := by decide
/-- A wait record at park slot 0 of tile 0. -/
def defE : DefEnt := ⟨.take, 0, 0x100, 0, 0, 9, false, 0, 0, 0, 3⟩
def parkS : State :=
  { withT gS fun x => { x with park := [(0, ⟨sideOf th0, some defE, true, false, 0⟩)] } with
    mem := cputs gS.mem (vKey 0 parkBase) (podBytes th0 0) }
theorem wit_combining : (combS.tile 0).comb = [combE] ∧ (combS.tile 0).lcyc < combE.born + (combS.tile 0).drainInt ∧
    combE.born + 2048 ≤ ((withT combS fun x => { x with lcyc := 2048 }).tile 0).lcyc ∧ okE (applyComb (hqS []) 0 combE) = true ∧
    okE (applyComb (hqS []) 0 { combE with addr := 0x2000 }) = false ∧ combE.op ≠ .add ∧ combE.who = [(0, 0, 0, 0)] ∧
    (gS.ctx 0 0).st ≠ .free ∧ (gS.ctx 0 0).th.tid = 0 ∧ (gS.ctx 0 5).st = .free := by decide
theorem wit_wake : (recordHere parkS 0 defE).isSome = true ∧ (recordHere gS 0 defE) = none ∧ defE.pin = false ∧ defE.kind = .take ∧
    okE (homeOp syS 0 (fld (0x100 : Word) 0 44) (.give 5)) = true ∧ depositComing gS 0 defE = false ∧
    depositComing (netS [⟨1, 0, 2, .waitDeposit defE none, []⟩]) 0 defE = true := by decide

/-- The supervisor context executing on tile 0. -/
def supS : State := withG { gS with cur := ⟨0, 30, 0⟩ } [(1, 0x8000000000000000), (2, 0x100)]
/-- c0 in a given state. -/
def stS (st : CtxSt) : State := gS.modMe fun c => { c with st := st }
/-- A window that is enabled. -/
def winE : Win := { (gS.tile 0).win 0 with en := true }
theorem wit_special : gS.cur.c < 32 ∧ 32 ≤ tubS.cur.c ∧ rdG gS.th 3 = (7#32).setWidth 64 ∧ rdG gS.th 0 = (0#2).setWidth 64 ∧ rdG gS.th 3 = (7#5).setWidth 64 ∧
    rdG gS.th 3 = ((0#3 ++ 7#8 : BitVec 11)).setWidth 64 ∧ 2 ^ 32 ≤ (rdG gS.th 4).toNat ∧ gS.cur.c ≠ 30 ∧ supS.cur.c = 30 ∧
    winWrite ((supS.tile 0).win 0) 1 (rdG supS.th 1) = none ∧ (winWrite ((supS.tile 0).win 0) 1 (rdG supS.th 2)).isSome = true := by decide
theorem wit_windows : fld (1 <<< 63 : Word) 58 4 = 0 ∧ fld (1 <<< 63 : Word) 32 16 = 0 ∧ bit (1 <<< 63 : Word) 63 = true ∧ winE.en = true ∧
    ((gS.tile 0).win 0).en = false ∧ fld (1 <<< 60 : Word) 58 4 ≠ 0 ∧ winWrite ((gS.tile 0).win 0) 0 (1 <<< 63) ≠ none ∧
    winWrite ((gS.tile 0).win 0) 0 0 ≠ none ∧ winWrite ((gS.tile 0).win 0) (0 + 1) 0x100 ≠ none := by decide
theorem wit_sysregs : bit (1 <<< 40 : Word) 40 = true ∧ fld (1 <<< 40 : Word) 41 23 = 0 ∧ fld (1 <<< 40 : Word) 4 8 = 0 ∧ bit (2 : Word) 40 = false ∧ fld (2 : Word) 0 4 < 10 ∧
    fld (0x2000 : Word) 30 34 = 0 ∧ fld (0x2000 : Word) 1 12 = 0 ∧ ((stS .running).ctx 0 0).st = .running ∧ (base.tile 0).pid = (gS.tile 0).pid := by decide
/-- A ring with a pod at slot 0, told to be discarded or sent. -/
def ringS : State :=
  { withT gS fun x => { x with park := [(0, ⟨sideOf th0, none, true, false, 0⟩)] } with
    mem := cputs gS.mem (vKey 0 (parkBase + 1016)) (wBytes (1 <<< 63)) }
theorem wit_ring_op : fld (0xA000 : Word) 0 13 = 0 ∧ (afind (ringS.tile 0).park 0).isSome = true ∧ fld (0xA000 : Word) 13 3 = 5 ∧ fld (0xC000 : Word) 13 3 = 6 ∧
    fld (0xC000 : Word) 24 7 < (ringS.tile 0).pw ∧ (afind (ringS.tile 0).park 0).all (fun e => e.waiting.isNone && e.side.tjob.isNone && e.side.launch.isNone) = true ∧
    ringS.net = [] := by decide
theorem wit_ring_bit : bit (leWord (physGet ringS 0 (parkSlot 0 + 1016) 8)) 63 = true := by decide
def fpS (b : Bool) (d : Nat) : State := netS [⟨0, d, 7, .faultPkt [1 <<< 63, 4, 5, 6, 7, 8, 9, 10] 1 b, []⟩]
/-- The packet's home has a fault ring whose counter is at page 0. -/
def frS : State := withT (fpS false 0) fun x => { x with frb := 0x400, frc := 0x100, frd := 0 }
theorem wit_fault_packets : deliverable (fpS false 0) 0 = some ⟨0, 0, 7, .faultPkt [1 <<< 63, 4, 5, 6, 7, 8, 9, 10] 1 false, []⟩ ∧ ((fpS false 0).tile 0).frb = 0 ∧
    deliverable (fpS true 10000) 0 = some ⟨0, 10000, 7, .faultPkt [1 <<< 63, 4, 5, 6, 7, 8, 9, 10] 1 true, []⟩ ∧ tileOf frS 0 (frS.tile 0).frc = 0 ∧
    okE (readHome (frS.dropPkt 0) 0 0x100 8 aRead) = true ∧ okE (writeHome (frS.dropPkt 0) 0 0x400 [1] aWrite) = true ∧
    okE (incrHome frS 0 0x100 1) = true := by decide
theorem wit_traps : gS.me.tb1 = none ∧ gS.me.tub.isNcmd = false ∧ gS.me.wait = .none ∧ pendS.me.pend ≠ [] ∧ (pendS.tile 0).comb = [] := by decide
/-- c0 with both trap banks taken. -/
def bankS : State := gS.modMe fun c => { c with tb0 := some [1], tb1 := some [2] }
theorem wit_third : bankS.me.tb0 = some [1] ∧ bankS.me.tb1 = some [2] ∧ bankS.me.tub.isNcmd = false ∧ bankS.cur.c < 32 ∧ bit (bankS.tile 0).supv 63 = false := by decide
theorem wit_debug : writerHere gS .firmware 0 = true ∧ isSup gS .firmware 0 = true ∧ ((stS .frozen).ctx 0 0).st = .frozen ∧
    ((stS .inService).ctx 0 0).st = .inService ∧ ((stS .inService).ctx 0 0).preh = false ∧ ((stS .packing).ctx 0 0).st = .packing ∧
    fld ((stS .frozen).ctx 0 0).dtgt 8 7 < (gS.tile 0).pw ∧ fld ((stS .frozen).ctx 0 0).dtgt 0 6 < (gS.tile 0).phh ∧ gS.th.tjob = none ∧
    (gS.tile 0).panes = [] ∧ (gS.tile 0).ports = [] ∧ (gS.tile 0).notices = [] ∧ chargeTile gS 0 gS.th = 0 ∧ pendS.me.pend ≠ [] := by decide

/-- Words as bytes. -/
def wb (l : List Word) : List Byte := l.flatMap wBytes
/-- A tuber card at 0x80 and its block at 0x100; a null operator's block at 0x180; g1 to g4 point at them or at none. -/
def jobS : State := withG (withM (withM (withM gS 0x80 (wb [3, 0, 0, 0x100])) 0x100 (wb [0x40, 2, 11, 12, 13, 14, 15])) 0x180 (wb [5, 0, 0, 0, 0, 0]))
  [(1, 0x80), (2, 0x180), (3, 0x82), (4, 0x100)]
set_option maxRecDepth 20000 in
theorem wit_card : okE (readCard jobS 0 (priv jobS) 0x80 false) = true ∧ (val Job.empty (readCard jobS 0 (priv jobS) 0x80 false)).kind ≠ 2 ∧
    trapOf (match readCard jobS 0 false 0x82 false with | .error e => (.error (.trap e) : Except Stop Unit) | _ => .ok ()) = some .address := by decide
set_option maxRecDepth 20000 in
theorem wit_ncmd : okE (blockWords jobS 0 (priv jobS) 0x180 6 false .card) = true ∧ okE (ncmdJob jobS 0 [5, 0, 0, 0, 0, 0]) = true ∧
    (blockWords jobS 0 (priv jobS) 0x100 6 false .card).toOption.map (fun w => decide (9 < fld (lget w 0 0) 0 4 ∨ fld (lget w 0 0) 6 58 ≠ 0 ∨ fld (lget w 0 0) 0 4 < 5)) = some true ∧
    okE (blockWords jobS 0 (priv jobS) 0x82 6 false .card) = false ∧ relHeld jobS = false ∧ (jobS.tile 0).jobs = [] ∧
    64 ≤ ((withT jobS fun x => { x with jobs := List.replicate 64 Job.empty }).tile 0).jobs.length := by decide
/-- A COPY of two 8-byte elements from page 0 (or from tile 1) to page 0. -/
def copyJ (src : Word) : Job := { Job.empty with
  prm := [3, 0, src, 0x400, 0x0000000100000002, 0x0000000100000001, 8, 0, 0, 0, 0x0000000100000002, 0x0000000100000001, 8, 0, 0, 0]
  rd := [⟨src, 16, false⟩], wr := [⟨0x400, 16, false⟩], started := true }
def tubJ : Job := { Job.empty with kind := 3, prm := [0x40, 2, 11, 12, 13, 14, 15] }
def collJ : Job := { Job.empty with kind := 2, prm := [0, 1, 0x200, 0x300] }
def withJ (l : List Job) : State := withT gS fun x => { x with jobs := l }
theorem wit_start : dispatchFail (withJ [tubJ]) 0 tubJ = none ∧ ((withJ [tubJ]).tile 0).jobs = [tubJ] ∧
    dispatchFail (withJ [{ tubJ with rd := [⟨0x2000, 16, false⟩] }]) 0 { tubJ with rd := [⟨0x2000, 16, false⟩] } ≠ none ∧
    groupEntry ((withJ [collJ]).tile 0) (collGrp collJ) = none ∧
    ((withJ [{ tubJ with edges := [0] }]).tile 0).jobs.any (fun k => [0].contains k.order) = true := by decide
theorem wit_copy : jobTotal (copyJ 0x300) = 2 ∧ (jobPlaces (copyJ 0x300) 0 0).1 = 0x300 ∧
    (match engineHome (withJ [copyJ 0x300]) 0 (copyJ 0x300) 0x300 8 false with | .ok (.tile t o) => (t, o) | _ => (9, 9)) = (0, 0x300) ∧
    okE (readHome (withJ [copyJ 0x300]) 0 0x300 8 aRead) = true ∧ (jobPlaces (copyJ 0x300) 0 0).2 = some 0x400 ∧
    (match engineHome (withJ [copyJ 0x300]) 0 (copyJ 0x300) 0x400 8 true with | .ok (.tile t o) => (t, o) | _ => (9, 9)) = (0, 0x400) ∧
    okE (writeHome (withJ [copyJ 0x300]) 0 0x400 [1, 2, 3, 4, 5, 6, 7, 8] aWrite) = true ∧
    (match engineHome (withJ [copyJ (1 <<< 44)]) 0 (copyJ (1 <<< 44)) (1 <<< 44) 8 false with | .ok (.tile t o) => (t, o) | _ => (9, 9)) = (1, 0) ∧
    okE (engineHome (withJ [copyJ 0x300]) 0 { copyJ 0x300 with rd := [] } 0x300 8 false) = false ∧ hasCredit gS 0 5 = true ∧ hasCredit (useCredit gS 0 5) 0 5 = false ∧
    (match homeRead (withJ [copyJ 0x300]) 0 0 (copyJ 0x300) 0x300 8 with | .data _ _ => true | _ => false) = true ∧ okE (homeWrite (withJ [copyJ 0x300]) 0 0 (copyJ 0x300) 0x400 [1]) = true := by decide
theorem wit_elements : deliverable (netS [⟨0, 0, 6, .elem 0 0 0x300 8 none, []⟩]) 0 = some ⟨0, 0, 6, .elem 0 0 0x300 8 none, []⟩ ∧
    deliverable (netS [⟨0, 0, 6, .credit 5, []⟩]) 0 = some ⟨0, 0, 6, .credit 5, []⟩ ∧ okE (writeHome (netS []) 0 (fld (0x300 : Word) 0 44) [1] aWrite) = true ∧
    (withJ [copyJ 0]).job 0 0 = some (copyJ 0) ∧ { copyJ 0 with phase := .read }.phase = .read := by decide
theorem wit_job_done : endSlots gS 0 [] = some gS ∧ endSlots paneS 0 [(1, 2)] = none ∧ (withJ [{ copyJ 0 with finished := true }]).job 0 0 = some { copyJ 0 with finished := true } ∧
    okE (writeHome (withJ []) (tileOf gS 0 0x200) (fld (0x200 : Word) 0 44) (wBytes 1) aWrite) = true ∧
    okE (incrHome (withJ []) (tileOf gS 0 0x208) (fld (0x208 : Word) 0 44) 1) = true := by decide

/-- A share of a collective of group 0, whose one member is tile 0, at the root; an entry with a child at port e and UP to it. -/
def coll0 : CollSt := { grp := 0, no := 1, tile := 0, rank := 0, gsize := 1, op := 0, red := 0, ty := 0, count := 1, root := 0, src := [3], bad := false }
def rootE : Word := w64 (2 ^ 63 + 2 ^ 29 + 2 ^ 28 + 15 * 2 ^ 24)
def nodeE : Word := w64 (2 ^ 63 + 2 ^ 29 + 2 ^ 28 + 1 * 2 ^ 24 + 2 ^ 17)
def collJ1 : Job := { collJ with started := true, collNo := some 1, rd := [⟨0x200, 4, false⟩], wr := [⟨0x300, 4, false⟩] }
def collS (e : Word) (l : List CollIn) : State := withT (withJ [collJ1]) fun x => { x with groups := [(0, e)], colls := l }
theorem wit_coll : (collS rootE []).job 0 0 = some collJ1 ∧ groupEntry ((collS rootE []).tile 0) (collGrp collJ1) = some rootE ∧
    okE (collRead 0 { collJ1 with started := false } 0x200 4 1 (collS rootE [])) = true ∧
    collNos ((collS rootE [⟨0, 1, 8, [coll0], none⟩]).tile 0) 0 = [1] ∧ fld rootE 24 4 = 15 ∧ routerEntry ((collS rootE []).tile 0) 0 = some rootE ∧
    ((collS rootE []).part 0).map (fun p => afind p.joins 0) = some none ∧ (collS rootE []).net = [] ∧
    (collPorts rootE).filterMap (fun k => collSlot ((collS rootE [⟨0, 1, 8, [coll0], none⟩]).tile 0) 0 k 1) = [⟨0, 1, 8, [coll0], none⟩] ∧
    fld nodeE 24 4 ≠ 15 ∧ ((collS nodeE []).part 0).map (fun p => portTile (collS nodeE []) p 0 (fld nodeE 24 4)) = some (some 1) ∧
    hasCredit (collS nodeE []) 0 (collKey 0 15 1) = true ∧ collPorts nodeE = [1, 8] ∧ collSlot ((collS nodeE []).tile 0) 0 11 1 = none := by decide
theorem wit_coll_down : collSlot ((collS rootE [⟨0, 1, 9, [coll0], none⟩]).tile 0) 0 9 1 = some ⟨0, 1, 9, [coll0], none⟩ ∧ fld rootE 16 8 = 0 ∧
    collJob ((collS rootE []).tile 0) 0 1 = some collJ1 ∧ collJob (gS.tile 0) 0 1 = none ∧ collAgree [coll0] = true ∧ collMembers [coll0] 1 = [coll0] ∧
    (collWrite 0 collJ1 (lget collJ.prm 3 0) (collEsz coll0.ty) (collOutput [coll0] coll0) (collS rootE [])).2 = none ∧
    coll0.src.length = coll0.count ∧ { coll0 with op := 2 }.op = 2 ∧ ({ coll0 with op := 3, root := 1 } : CollSt).root = 1 := by decide

/-- Blocks of an MMUL (0x80), MRED (0x100), MSTO (0x180) and MMULG (0x200); g5 a view of window 0. -/
def mxS : State := withG (withM (withM (withM (withM gS 0x80 (wb [0x10000, 0, 0x10000000000, 0, 0x400, 0])) 0x100 (wb [0x100000000, 0, 0x400]))
    0x180 (wb [0, 0x600, 8, 0x400, 0])) 0x200 (wb [0x10000, 0, 0x10000000000, 0, 0x400, 0, 0x10000000000, 0x10001]))
  [(1, 0x80), (2, 0x100), (3, 0x180), (4, 0x200), (5, 0x10000000000), (6, 4)]
def mxBusy : State := withT mxS fun x => { x with mx := { x.mx with queue := List.replicate 8 ⟨5, [], 0, 0, 0, 0, 0, 0, 0, 0, [], [], []⟩ } }
def mmulBlk : List Word := [0x10000, 0, 0x10000000000, 0, 0x400, 0]
theorem wit_matrix_view : fld (rdG mxS.th 5) 57 7 = 0 ∧ fld (rdG mxS.th 5) 44 7 = (mxS.tile 0).lx ∧ fld (rdG mxS.th 5) 51 6 = (mxS.tile 0).ly ∧
    fld (rdG mxS.th 5) 40 4 = 1 ∧ viewTier (rdG mxS.th 5) < 6 ∧ fld (rdG mxS.th 5) 0 33 % tierStride (viewTier (rdG mxS.th 5)) = 0 ∧
    (rdG mxS.th 6).toNat < 2 ^ 26 ∧ 2 ^ 26 ≤ (rdG mxS.th 5).toNat ∧ fld (rdG mxS.th 1) 40 4 ≠ 1 ∧ (mxS.tile 0).mx.queue = [] ∧ (mxS.tile 0).mx.run = none ∧
    8 ≤ (mxBusy.tile 0).mx.queue.length := by decide
set_option maxRecDepth 20000 in
theorem wit_mmul_block : (mxBlock mxS false 0x80 6).toOption = some mmulBlk ∧ okE (mmCommon mxS mmulBlk 0x80) = true ∧
    (fld (0x400 : Word) 57 7 = 0 ∧ fld (0x400 : Word) 44 7 < (mxS.tile 0).pw ∧ fld (0x400 : Word) 51 6 < (mxS.tile 0).phh ∧ fld (0x400 : Word) 40 4 = 0) ∧
    fld (lget mmulBlk 0 0) 16 16 ≠ 0 ∧ fld (lget mmulBlk 0 0) 40 8 + fld (lget mmulBlk 0 0) 48 8 + 1 ≤ 128 ∧ fld (lget mmulBlk 0 0) 2 3 ≤ fld (lget mmulBlk 0 0) 5 3 ∧
    fld (lget mmulBlk 0 0) 56 8 = 0 ∧ fld (lget mmulBlk 0 0) 38 2 = 0 ∧ bit (lget mmulBlk 0 0) 1 = false ∧ fld (lget mmulBlk 3 0) 26 38 = 0 := by decide
set_option maxRecDepth 20000 in
theorem wit_mmulg_block : (mxBlock mxS false 0x200 6).toOption = some mmulBlk ∧ groupCount mmulBlk = 1 ∧
    (mxBlock mxS false 0x200 8).toOption = some (mmulBlk ++ [0x10000000000, 0x10001]) ∧ okE (mmCommon mxS (mmulBlk ++ [0x10000000000, 0x10001]) 0x200) = true ∧
    okE (groupOk mxS (mmulBlk ++ [0x10000000000, 0x10001]) 0x200 0) = true ∧ fld (lget mmulBlk 0 0) 52 4 = 0 ∧
    mmRow0 (mmulBlk ++ [0x10000000000, 0x10001]) + ((List.range 1).map (groupRows (mmulBlk ++ [0x10000000000, 0x10001]))).sum ≤ 128 := by decide
set_option maxRecDepth 20000 in
theorem wit_mred_block : (mxBlock mxS false 0x100 3).toOption = some [0x100000000, 0, 0x400] ∧ fld (0x100000000 : Word) 24 6 ≤ fld (0x100000000 : Word) 32 6 ∧
    fld (0x100000000 : Word) 40 8 + fld (0x100000000 : Word) 48 8 + 1 ≤ 128 ∧ (mxS.tile 0).pw ≤ fld (0x7F00 : Word) 8 7 ∧
    (mxBlock mxS false 0x180 5).toOption = some [0, 0x600, 8, 0x400, 0] ∧ fld (8 : Word) 0 32 % 8 = 0 ∧ (0x600 : Word).toNat % 8 = 0 := by decide
/-- A window of one row of 64 bytes; a plane of one unit; instructions at the head of the queue. -/
def winS : State := withT gS fun x => { x with wins := aput x.wins 0 { x.win 0 with en := true, fmt := 18, nrow := 1, rowlen := 64, pitch := 64 } }
def mxI (k : Nat) (b : List Word) : MxIns := ⟨k, b, 0x10000000000, 0, 1, 0, 0, 0, 0, 7, [], [], (List.range 16).map fun i => (((winS.tile 0).win i).gen, ((winS.tile 0).win i).writes)⟩
def mxQ (i : MxIns) : State := withT winS fun x => { x with mx := { x.mx with queue := [i] } }
theorem wit_engine : ((mxQ (mxI 5 [])).tile 0).mx.queue = [mxI 5 []] ∧ ((mxQ (mxI 5 [])).tile 0).mx.run = none ∧
    ((mxQ (mxI 5 [])).ctx 0 0).outs = [] ∧ (planeUnits (mxQ (mxI 4 [])) 0 0 0 0 1 0).toOption.isSome = true ∧
    (planeUnits (withT (mxQ (mxI 4 [])) fun x => { x with wins := [] }) 0 0 0 0 1 0).toOption.isNone = true ∧
    (mstoGo 0 0 (mstoList ((mxQ (mxI 3 [0, 0x600, 8, 0x400, 0])).tile 0).mx [0, 0x600, 8, 0x400, 0]) [0, 0, 0, 0] (mxQ (mxI 3 [0, 0x600, 8, 0x400, 0]))).2.2 = none ∧
    (gS.tile 0).at (fld (0x100 : Word) 8 7) (fld (0x100 : Word) 0 6) ≠ 0 ∧ mmGsync mmulBlk = false := by decide
/-- A plane of one unit with no element. -/
def plane0 : Plane := ⟨0, 0, 0, 1, 0, [List.replicate 32 0], none, false⟩
theorem wit_attempt : (match groupsRun (mxQ (mxI 0 mmulBlk)) 0 0 mmulBlk (fun _ => []) ⟨[], [0, 0, 0, 0], [], []⟩ [⟨0, 0, 1, 0, 0, 0, 1, some plane0.units⟩] with
    | .ok a => a.derr.length + a.ovd.length + lget a.cnt 0 0 | .error _ => 9) = 0 ∧ plane0.tier = mmStier mmulBlk ∧
    lget [0, 0, 0, 0] 0 0 ≤ fld (lget mmulBlk 1 0) 48 16 := by decide
def runS (r : MxRun) : State := withT winS fun x => { x with mx := { x.mx with run := some r } }
def run0 (i : MxIns) : MxRun := { ins := i, status := 0, count := 0, waiting := false, asked := false, cause := none, mdata := false, wins := [], active := none, shadow := none, bank0 := [], bank1 := [] }
theorem wit_complete : mxBroken (winS.tile 0) (run0 (mxI 5 [])) = false ∧ ((runS (run0 (mxI 5 []))).tile 0).mx.run = some (run0 (mxI 5 [])) ∧
    lget [0x10000, 0, 0x10000000000, 0, 0x400, 0x500] 5 0 ≠ (0 : Word) ∧ okE (writeHome winS (tileOf winS 0 0x500) (fld (0x500 : Word) 0 44) (wBytes 0) aWrite) = true ∧
    okE (writeHome winS (tileOf winS 0 0x408) (fld (0x408 : Word) 0 44) (wBytes 0) aWrite) = true ∧ okE (incrHome winS (tileOf winS 0 0x400) (fld (0x400 : Word) 0 44) 1) = true ∧
    deliverable (netS [⟨1, 0, 6, .mred 1 5 0 0 2 0 1 none, []⟩]) 0 = some ⟨1, 0, 6, .mred 1 5 0 0 2 0 1 none, []⟩ ∧
    (gS.tile 0).mx.mredSeen = [] ∧ (gS.tile 0).mx.mredOwn = [] ∧ { run0 (mxI 2 []) with waiting := true }.waiting = true := by decide
def cell0 : MCell := { cell := (0, 0), mass := 0, len := 1, es := 256, sum := 7, ovf := 0, ovd := false, derr := false, no := 0, hits := [] }
def unit0 : MUnit := ⟨128, 0, 0, false, [3, -2], []⟩
theorem wit_chain : cell0.len ≠ 0 ∧ cell0.no ∉ cell0.hits ∧ 2 * cell0.sum.natAbs < tierM 0 ∧ cell0.no ∈ { cell0 with hits := [0] }.hits ∧ 1 < { cell0 with len := 2 }.len ∧ cell0.cell.1 ≠ a64Pois ∧
    unit0.e ≠ 0 ∧ cell0.es = unit0.e + unit0.e ∧ cell0.len + 1 ≠ tierL 0 ∧ { unit0 with pois := true }.pois = true ∧ { unit0 with e := 0 }.e = 0 := by decide

/-- t0 with a job that may write page 0, an open scan of one row, two elements; g2 is 2. -/
def bankC : State := withG ((tubS.modMe fun y => { y with st := .running, tub := { y.tub with so := true, sbase := 0x100, nrow := 1, tcap := 2 } }).modTh fun th => { th with vlive := 1 }) [(1, 0x100), (2, 1), (3, 0x200), (4, 0x300), (5, 1 <<< 32), (6, 2)]
theorem wit_bank : bankC.me.st = .running ∧ bankC.me.stepping = false ∧ (tubJob bankC 0 32).isSome = true ∧ bankRange bankC 0 0x100 8 4 = true ∧
    okE (rangeOk bankC 0 32 0x100 64 64 false) = true ∧ (0x101 : Word).toNat % 4 ≠ 0 ∧ 2 ^ 32 ≤ (rdG bankC.th 5).toNat ∧ tubS.me.tub.so = false ∧
    okE (rangeOk bankC 0 32 (rdG bankC.th 1) (4 * bankC.me.tub.nrow) 4 false) = true ∧ okE (rangeOk bankC 0 32 0x100 (8 * bankC.me.tub.tcap) 8 true) = true ∧
    okE (bankPut bankC 0 4 0x300 5) = true ∧ bankC.me.tub.prog = none ∧ okE (bankRead 0 4 1 0x100 bankC) = true ∧ overlaps 0x104 0x100 2 0 = true ∧
    okE (opAccess bankC 0 bankC.me.tub ⟨0, 8, 0, 0, 0x300, 5, 2, 0, [], .none, 0⟩) = true ∧ okE (hammRow 0 bankC.me.tub 5 0 bankC) = true ∧ bankC.th.vlive.getLsbD 0 = true ∧ okE (bankRead 0 16 4 0x100 bankC) = true ∧
    okE (rangesOk bankC 0 32 [(0x100, 8, false), (0x200, 8, false), (0x300, 8, true)]) = true ∧ okE (bankRead 0 4 2 0x100 bankC) = true ∧
    overlaps 0x300 0x100 2 0 = false ∧ overlaps 0x300 0x100 2 1 = false ∧ bankC.me.tub.fa = false := by decide
/-- A list of one entry and a full list of one. -/
def top1 : Tub := { Tub.zero with tcap := 2, tlist := [(5, 9)] }
theorem wit_topk : top1.tlist.length < top1.tcap ∧ (5#16).toNat * 2 ^ 32 + (9#32).toNat < (6#16).toNat * 2 ^ 32 + (0#32).toNat ∧
    { top1 with tcap := 1 }.tlist = [] ++ [(5, 9)] ∧ { top1 with tcap := 1 }.tlist.length = 1 ∧ Tub.zero.tcap = 0 ∧
    List.Perm [((1 : BitVec 16), (2 : BitVec 32)), (3, 4)] [(3, 4), (1, 2)] := ⟨by decide, by decide, by decide, by decide, by decide, by decide⟩
def sv0 : Saved := { held := false, slot := 0, seq := 0, pri := 1, th := th0, tub := Tub.zero, tb0 := none, tb1 := none, frozen := false }
def tubJ1 : Job := { tubJ with started := true, live := 2 }
def savS (l : List Saved) : State := withT gS fun x => { x with saved := l }
def busyTub (st : CtxSt) : State := withT gS fun x => { x with ctxs := (List.range 8).map fun i => (32 + i, { Ctx.ofThread th0 0 with st := st }) }
set_option maxRecDepth 20000 in
theorem wit_tuber : freeTuber ((withJ [tubJ1]).tile 0) = some 32 ∧ freeTuber ((busyTub .ready).tile 0) = none ∧ ((withJ [tubJ1]).tile 0).saved = [] ∧
    tubJ1.next < fld (lget tubJ1.prm 1 0) 0 16 ∧ freeTuber ((savS [sv0]).tile 0) = some 32 ∧ imageKept (putImage (savS [sv0]) 0 sv0) 0 sv0 = true ∧
    (savS [sv0]).me.st ≠ .saving := by decide
theorem wit_tuber_preempt :
    let s := withT (busyTub .ready) fun x => { x with jobs := [{ tubJ1 with pri := 3 }] }
    let s := withT s fun x => { x with ctxs := x.ctxs.map fun e => (e.1, { e.2 with tub := { Tub.zero with jent := 9 } }) }
    preemptNext s 0 [32, 33, 34, 35, 36, 37, 38, 39] = some 39 ∧ freeTuber (s.tile 0) = none ∧ 0 < waitingAbove s 0 (tubPri s 0 32).1 ∧
      waitingAbove gS 0 0 = 0 := by decide
theorem wit_tuber_save : ((busyTub .saving).ctx 0 32).st = .saving ∧ ((busyTub .saving).ctx 0 32).tub.heldSlot = none ∧
    ((busyTub .saving).ctx 0 32).tub.preempt = false ∧ ((busyTub .saving).tile 0).saved = [] := by decide
def bankW (n : Bool) (l : List Job) : State :=
  withT gS fun x => { x with jobs := l, ctxs := x.ctxs ++ [(32, { Ctx.ofThread th0 0 with st := .waiting, wait := .bank, tub := { Tub.zero with isNcmd := n } })] }
theorem wit_tuber_done : ((bankW false []).ctx 0 32).st = .waiting ∧ ((bankW false []).ctx 0 32).wait = .bank ∧ ((bankW true []).ctx 0 32).tub.isNcmd = true ∧
    ((bankW false []).tile 0).tcyc < 0 + 512 ∧ ((bankW false []).ctx 0 32).tub.prog = none ∧
    (⟨0, 8, 0, 0, 0x300, 5, 2, 0, [], .none, 0⟩ : OpProg).total = 2 ∧ tubJob (bankW true [tubJ1]) 0 32 = some tubJ1 ∧
    0 + 512 ≤ ((withT (bankW false []) fun x => { x with tcyc := 512 }).tile 0).tcyc ∧
    deliverable (netS [⟨0, 0, 4, .ncmdRe req0 5 none, []⟩]) 0 = some ⟨0, 0, 4, .ncmdRe req0 5 none, []⟩ ∧ stillThere pendS req0 = true ∧
    ((pendS.modMe fun c => { c with st := .ready }).ctx 0 0).st = .ready := by decide

/-- The partition of tile 0, and a queue of sixteen packets at 0x800 with its words at 0x300, 0x308 and 0x310. -/
def part0 : Part := ((gS.part 0).getD ⟨0, 0, 0, 1, 1, [], [], [], [], [], 0, [], [], [], [], 0, [], 0, [], [], [], 0, false⟩)
def desc0 : QDesc := ⟨0x800, 0x300, 0x308, 0x310, 0x41⟩
def queue0 : Queue := { pid := 0, desc := desc0, logn := 4, cls := 1, eff := 1, since := none, w := 1, r := 0, pkts := [], stopped := false, untaken := false }
def withQ (x : Queue) : State := { gS with queues := [(0, x)] }
def qpk (w : List Word) : QPkt := { num := 0, ws := w, started := false, done := false, copy := none, nodes := [], graph := [], order := 0 }
def wakeS (w : Nat) : State := { withQ { queue0 with w := w } with net := [⟨0, 10000, 7, .wakeNotice 0, []⟩], mem := cputs gS.mem (vKey 0 0x1300) [3] }
theorem wit_wake_notice : deliverable (wakeS 1) 0 = some ⟨0, 10000, 7, .wakeNotice 0, []⟩ ∧ (wakeS 1).queue 0 = some queue0 ∧ (wakeS 1).part 0 = some part0 ∧
    (procWord ((wakeS 1).dropPkt 0) part0 0x300).toOption.map (fun r => r.2.toNat) = some 3 ∧
    (procWord ((wakeS 1).dropPkt 0) part0 0x300).toOption.map (fun r => (r.1.queue 0, r.1.part 0)) = some (some queue0, some part0) ∧
    (3 : Nat) ≤ queue0.r + 2 ^ queue0.logn ∧ (3 : Nat) < 4 := by decide
theorem wit_take : okE (procRead (withQ queue0) part0 0x800 128) = true ∧ packetBad gS part0 (4 :: 0 :: 0x200 :: List.replicate 13 0) = none ∧
    packetBad gS part0 (6 :: List.replicate 15 0) ≠ none ∧ okE (procWrite gS part0 0x308 (wBytes 1)) = true ∧ okE (procWrite gS part0 0x310 (wBytes 0)) = true ∧
    queueReady gS { queue0 with pkts := [qpk (5 :: List.replicate 15 0)] } = true ∧
    nextPkt { queue0 with pkts := [qpk (3 :: 0 :: 0x200 :: 5 :: List.replicate 12 0)] } = some (qpk (3 :: 0 :: 0x200 :: 5 :: List.replicate 12 0)) ∧
    canStart gS part0 { queue0 with pkts := [qpk (3 :: 0 :: 0x200 :: 5 :: List.replicate 12 0)] } (qpk (3 :: 0 :: 0x200 :: 5 :: List.replicate 12 0)) = false ∧
    procUp gS part0 queue0 = true ∧ procUp gS { part0 with halted := true } queue0 = false ∧ queueCode gS part0 desc0 = 0 ∧ queueCode gS part0 { desc0 with cfg := 0 } = 2 := by decide
def sigW : List Word := 4 :: 0 :: 0x200 :: 7 :: List.replicate 12 0
def barW (c : Word) : List Word := 0x300000005 :: c :: List.replicate 14 0
def waitW : List Word := 3 :: 0 :: 0x200 :: 0 :: List.replicate 12 0
def jobW : List Word := 1 :: 0 :: 0x80 :: 0 :: List.replicate 12 0
def graphW : List Word := 2 :: 0 :: 0x600 :: 0 :: List.replicate 12 0
def graphG : List Word := [0x10002, 0x700, 0, 0, 0, 0, 0, 0] ++ ((sigW ++ [0xFFFFFFFFFFFFFFFF, 0, 0, 0]) ++ (sigW ++ [0xFFFFFFFFFFFF0000, 0, 0, 0]))
def launchW : List Word := [0, 0, 0x40, 0x0000000101010000, 0, 0, 0x200, 1, 2, 3, 4, 5, 6, 0, 0, 0]
def qS (k : QPkt) : State := { jobS with queues := [(0, { queue0 with pkts := [k], r := 1 })] }
set_option maxRecDepth 20000 in
theorem wit_starts : chosenQueue (qS (qpk (barW 0))) 0 = some 0 ∧ fieldOf (wakeHome part0 queue0) = 0 ∧ chosenQueue (qS (qpk sigW)) 0 = some 0 ∧
    chosenQueue (qS (qpk waitW)) 0 = some 0 ∧ part0.pid = 0 ∧ (qS (qpk sigW)).part 0 = some part0 ∧
    okE (procIncr (qS (qpk (barW 0x208))) part0 0x208 3) = true ∧ fld (lget (barW 0x208) 0 0) 32 32 ≠ 0 ∧ okE (procIncr (qS (qpk sigW)) part0 0x200 7) = true ∧
    okE (procWord (qS (qpk waitW)) part0 0x200) = true ∧ (procHome (qS (qpk jobW)) part0 0x80 128 aRead).toOption = some (0, 0x80) ∧
    freeCopy gS part0 { qpk graphW with graph := graphG } = some 0 ∧ patches graphG (patchCount graphW) = [] ∧ goNodes graphG = 2 ∧ lpPre launchW = false ∧
    part0.rectTiles (lpRect launchW) = [0] ∧ lowestFree (part0.launches.map (·.1)) 0 64 = some 0 ∧ pkKind launchW = 0 ∧
    okE (procWrite (qS (qpk launchW)) part0 0x200 (wBytes 1)) = true ∧ (∀ t ∈ part0.rectTiles (lpRect launchW), ((qS (qpk launchW)).tile t).pid = 0) ∧
    part0.launches = [] ∧ lpPre (0x50 :: launchW.drop 1) = true := by decide

def launch0 : Launch := { li := 0, no := 0, q := 0, pkt := 0, node := none, prio := 0, dom := 0, quota := 1, rect := ⟨0, 0, 1, 1⟩, pc := 0x40, args := 0, argsz := 0, lockq := 0
                          seeds := [], lwa := 0x200, holds := false, victims := [], begun := [] }
def laS (l : List (Nat × Launch)) : State := gS.setPart { part0 with launches := l }
def holdL (v : Assoc Rect) : Launch := { launch0 with holds := true, victims := v }
/-- A replay of two nodes, both waiting. -/
def replay0 : QPkt := { qpk graphW with graph := graphG, started := true, copy := some 0, nodes := [.waiting, .waiting] }
/-- A ready context of a victim, launch 1, on tile 0. -/
def vicC : Ctx := { Ctx.ofThread { Thread.zero with launch := some 1 } 0 with st := .ready, outs := [⟨7, 0x100, 8, 0, 0, none⟩] }
def vicS : State := withT (laS [(0, holdL [(1, ⟨0, 0, 1, 1⟩)])]) fun x => { x with ctxs := [(0, vicC)] }
theorem wit_launches : nodeReady gS part0 replay0 0 = true ∧ nodeReady gS part0 replay0 1 = false ∧ replay0.copy.isSome = true ∧
    pkKind (nodeWs graphG 0) = 4 ∧ pkCnt (nodeWs graphG 0) = 0 ∧ launchOf (laS [(0, holdL [])]) 0 0 = some (holdL []) ∧
    (holdL []).rect.has (0 % 128 - part0.x0) (0 / 128 - part0.y0) = true ∧ ((laS [(0, holdL [])]).tile 0).pops = [] ∧
    launchOf (laS [(0, launch0)]) 0 0 = some launch0 ∧ (vicS.tile 0).ctxs = [(0, vicC)] ∧ vicC.th.launch = some 1 ∧ vicC.gang = .none ∧
    launchOf vicS 0 0 = some (holdL [(1, ⟨0, 0, 1, 1⟩)]) ∧ holder vicS 0 (some 0) 0 = none ∧ (vicS.tile 0).arrSides = [] ∧ (vicS.tile 0).panes = [] ∧ (vicS.tile 0).ports = [] ∧
    (0 : Nat) ∉ (holdL []).begun ∧ (0 : Nat) ∈ { launch0 with begun := [0] }.begun ∧ (vicS.tile 0).moving = [] ∧ procUp gS part0 queue0 = true := by decide
def endS : State := { laS [(0, launch0)] with net := [⟨0, 10000, 7, .launchDone 0 0, []⟩], queues := [(0, { queue0 with pkts := [{ qpk launchW with started := true }] })] }
theorem wit_launch_end : (procWord (endS.dropPkt 0) { part0 with launches := [(0, launch0)] } 0x200).toOption.map (fun r => r.2.toNat) = some 0 ∧
    endS.net = [⟨0, 10000, 7, .launchDone 0 0, []⟩] ∧ endS.links = [] ∧ ({ part0 with launches := [(0, launch0)] } : Part).launchNo 0 = some launch0 ∧
    ({ part0 with launches := [(0, launch0)] } : Part).launchNo 64 = none ∧ pkCnt launchW = 0 := by decide

def crownF : Field := { Field.zero with lease := .crown }
def upS : State := { State.reset with up := true, fields := [(0, crownF)] }
def req1 : PartReq := ⟨3, 8, 0, 8, 8, [0], [1], [(8, 0x40)], [0]⟩
/-- A partition of one tile. -/
def onePart : Part := { part0 with pid := 5, x0 := 0, y0 := 0, w := 1, h := 1, revoking := [(2, 0)], chans := [] }
def oneS : State := (withT gS fun x => { x with prt := w64 (5 * 2 ^ 48 + 2 ^ 40 + 2 ^ 32) }).setPart onePart
theorem wit_partitions : partOk upS req1 = true ∧ partOk gS { req1 with x0 := 4 } = false ∧ part0.tiles.contains 0 = true ∧ part0.pid = 0 ∧
    (∀ t ∈ onePart.tiles, (2, t) ∈ onePart.revoking) ∧ (3, 0) ∉ onePart.revoking ∧ 0 ∈ onePart.tiles ∧ (0 : Nat) < 2048 * { part0 with chans := [0], links := [1] }.chans.length ∧
    2048 * part0.chans.length ≤ 0 ∧ crownOf upS = some 0 ∧ crownOf gS = none ∧ groupReserved rootE = false ∧ groupReserved (1 <<< 62) = true ∧ groupBusy gS 0 5 = false ∧
    groupBusy (withT (withJ [{ collJ with started := true, prm := [5 <<< 16 ||| 5 <<< 32 ||| 5, 1, 0x200, 0x300] }]) id) 0 5 = true := by decide

/-- An image of one segment of eight bytes for tile 0 of the partition. -/
def image0 : List Byte := wb [2 ^ 32 + 0x4657384C, 1, 0x40, 0, 0, 0, 0, 0, 0, 0x60, 0x100000000008, 0x30, 0x1122334455667788]
theorem wit_image : fld (imgWord image0 0) 0 48 = 2 ^ 32 + 0x4657384C ∧ (imgSegs image0 [0x8000]).all (segChecks part0) = true ∧
    imageCause gS part0 0 0 = none ∧ imageCause gS part0 65535 0 ≠ none ∧ imgSegs image0 [0x8000] = [⟨0, [0x88, 0x77, 0x66, 0x55, 0x44, 0x33, 0x22, 0x11], 4096, 0x30, 0x8000⟩] ∧
    imageOk image0 = true ∧ imageOk [] = false ∧ imageCause gS part0 2200 0 = none ∧ bit (0x30 : Word) 7 = false ∧ bit (gS.tile 0).vtb 0 = true ∧
    (gS.tile 0).wins = [] ∧ (placeSeg [] ⟨0, [], 0, 0x30, 0x8000⟩ gS 0).isSome = true := by decide
/-- The partition with service core 0, whose aperture is at 0, and a wake word at 0x300 written over link 1. -/
def scPart : Part := { part0 with scs := [0], links := [1] }
def scS : State := withT (gS.setPart scPart) fun x => { x with wakeTab := [(0x300, 0)] }
theorem wit_host : scPart.scs.contains 0 = true ∧ (aget scPart.apb 0 0 + w64 0x100).toNat % 16 + 8 ≤ 16 ∧
    (match resolve scS (scPart.at 0 0) false 0x100 aRead 8 with | .ok (.tile t o) => (t, o) | _ => (9, 9)) = (0, 0x100) ∧ okE (readHome scS 0 0x100 8 aRead) = true ∧
    okE (writeHome scS 0 0x100 [1, 2, 3, 4, 5, 6, 7, 8] aWrite) = true ∧ okE (resolve (scS.setPart { scPart with apb := [(0, 1 <<< 63)] }) 0 false (1 <<< 63) aWrite 8) = false ∧
    scS.queues = [] ∧ scS.parts = [(0, scPart)] ∧ (0x300, 0) ∈ (scS.tile (scPart.at 0 0)).wakeTab ∧ okE (procWrite scS scPart 0x300 (wBytes 1)) = true := by decide
theorem wit_module : spareFor gS 0 = some 0 ∧ (gS.tile 0).jobs = [] ∧ ((withJ [collJ]).tile 0).jobs ≠ [] ∧ spareFor { gS with retired := [(0, List.range 8)] } 0 = none ∧
    (gS.parts.find? fun e => e.2.tiles.contains 0).isSome = true ∧ (State.reset.parts.find? fun e => e.2.tiles.contains 0) = none ∧ standsAt gS 0 = some 0 ∧
    gS.latent = [] ∧ (gS.tile 0).retained = [] ∧ afind (gS.tile 0).dirty (0 / 4) = none ∧ scPart.halted = false ∧ { scPart with halted := true }.halted = true ∧ (gS.link 0 1).retries < 8 ∧
    8 ≤ ((gS.setLink 0 1 { Link.zero with retries := 8 }).link 0 1).retries ∧ mayRetain (gS.tile 0) (.pane 1) = true ∧ Arr.pane 1 ∉ (gS.tile 0).retained ∧
    mayRetain ((gS.tile 0).setPane 1 { Pane.off with mode := 2 }) (.pane 1) = false ∧ upS.up = true ∧ State.reset.up = false := by decide
def fldS (f : Field → Field) : State := gS.modField 3 f
theorem wit_crown : (gS.field 3).lease = .follower ∧ (gS.field 3).down = false ∧ (gS.field 3).cyc < (gS.field 3).timer + 2 ^ 24 ∧
    ((fldS fun x => { x with cyc := 2 ^ 24 }).field 3).timer + 2 ^ 24 ≤ ((fldS fun x => { x with cyc := 2 ^ 24 }).field 3).cyc ∧
    ((fldS fun x => { x with lease := .candidate, cyc := 2 ^ 22 }).field 3).timer + 2 ^ 20 * (1 + 3) ≤ 2 ^ 22 ∧
    ((fldS fun x => { x with lease := .crown }).field 3).lease = .crown ∧ (crownOf (fldS fun x => { x with lease := .crown })).isSome = true ∧
    crownOf gS = none ∧ gS.cooling = false ∧ { gS with cooling := true }.cooling = true ∧ gS.part 0 = some part0 ∧
    deliverable (netS [⟨10003, 10003, 7, .voteReq 3 1, []⟩]) 0 = some ⟨10003, 10003, 7, .voteReq 3 1, []⟩ ∧ (gS.field 3).epoch ≤ 1 ∧
    ((fldS fun x => { x with votes := List.range 32 }).field 3).votes.length < 33 ∧ 33 ≤ (sadd (List.range 32) 40).length := by decide

-- Premises of single clauses.
theorem wit_step_host : directEvent .thermalStop = true ∧ directEvent .illegal = false ∧
    ({ base with agenda := [.moduleReset] } : State).agenda.head? = some .moduleReset ∧ base.agenda.head? ≠ some .moduleReset ∧
    (netS [⟨0, 1, 6, .peerIn 2 (.wake 0x300 1), []⟩]).net.findIdx? (fun p => p.body == .peerIn 2 (.wake 0x300 1)) = some 0 := by decide
theorem wit_estimates : fdec f32F 0x3FC00000 = .fin false (3 * 2 ^ 22) (-23) ∧ fdec f32F 0x3F800000 = .fin false (2 ^ 23) (-23) ∧
    fdec f32F 0xB2000000 = .fin true (2 ^ 23) (-50) ∧ fdec f32F 0x44000000 = .fin false (2 ^ 23) (-14) := by decide
theorem wit_estimates_rat : (FV.fin false (3 * 2 ^ 22) (-23)).rat = 3 / 2 ∧ (FV.fin false (2 ^ 23) (-23)).rat = (1 : ℤ) ∧ (1 : ℚ) = 2 ^ (0 : ℤ) ∧
    |(FV.fin true (2 ^ 23) (-50)).rat| < 2 ^ (-26 : ℤ) ∧ 512 ≤ |(FV.fin false (2 ^ 23) (-14)).rat| := by norm_num [FV.rat]
theorem wit_estimates_between : (∀ i : ℤ, (3 / 2 : ℚ) ≠ i) ∧ (2 : ℚ) ^ (-26 : ℤ) ≤ |3 / 2| ∧ |(3 / 2 : ℚ)| < 512 := by
  refine ⟨fun i h => ?_, by norm_num, by norm_num [abs_of_pos]⟩
  have : (3 : ℚ) = ((2 * i : ℤ) : ℚ) := by push_cast; linarith
  have : (3 : ℤ) = 2 * i := by exact_mod_cast this
  omega
theorem wit_fmin_equal : (fvA fS.th .f32 3).same (fvB fS.th .f32 (.imm 0x3F800000)) = true ∧
    (fvA fS.th .f32 3).sign = (fvB fS.th .f32 (.imm 0x3F800000)).sign := by
  have ha : fvA fS.th .f32 3 = .fin false (2 ^ 23) (-23) := by decide
  have hb : fvB fS.th .f32 (.imm 0x3F800000) = .fin false (2 ^ 23) (-23) := by decide
  rw [ha, hb]; exact ⟨by simp [FV.same], rfl⟩
theorem wit_poisoned : (poisonTrap { gS with poison := [vKey 0 0x1100 / 8] } (vKey 0 0x1100) 8).isSome = true := by decide
/-- A put of the thread to tile 1 is on its way. -/
def aheadS : State := { gS with net := [⟨0, 1, 3, .put req0 [(0x100, 1)] [7], []⟩] }
theorem wit_lane_gate : laneGate aheadS [(0, (1 <<< 44 ||| 3 <<< 40 : Word), Home.tile 1 (3 * 2 ^ 40))] ≠ .ok () ∧
    laneGate gS [(0, 0x100, Home.tile 0 0x100)] = .ok () ∧ laneTile (Home.tile 0 0x100) = some 0 := by decide
/-- The line of 0x100 has changed since it was filled. -/
def dirtyE : DirtyLine := { cells := [(vKey 0 0x1100, 5)], full := [], poison := [], latent := [], key := 0, grans := [] }
def dirtyS : State := withT (linesS .inval) fun x => { x with dirty := [(34, dirtyE)] }
theorem wit_dirty : afind (dirtyS.tile 0).dirty 34 = some dirtyE ∧ Memory.wf dirtyE.cells ∧
    (∀ g ∈ dirtyE.cells, vKey 0 (128 * 34) ≤ g.1 ∧ g.1 < vKey 0 (128 * 34) + 128) ∧ ((leafAt dirtyS 0 0x100).map fun e => bit e.2 53) = some true := by decide
/-- The SRAM part of the deque is full. -/
def fullDq : State := withT launchS fun x => { x with deque := rec0 :: List.replicate 255 rec0 }
theorem wit_spill : (fullDq.tile 0).deque = rec0 :: List.replicate 255 rec0 ∧ (rec0 :: List.replicate 255 rec0).length = 255 + 1 ∧
    (fullDq.tile 0).spCount = 0 ∧ fullDq.th.launch = some 0 ∧ fullDq.th.tjob = none := ⟨rfl, congrArg (· + 1) (List.length_replicate ..), rfl, by decide, by decide⟩
theorem wit_spawn_own : (resolve launchS 0 false (0x100 : Word) aRead 1).toOption = some (.tile 0 0x100) ∧ holder launchS 0 (some 0) 0 = none := by decide
/-- c0 holds a stream of pane h1 with a slot that drains. -/
def drainS : State := withT gS fun x => x.setPane 1 { Pane.off with mode := 2, nslot := 4, slots := [(0, .draining)], stream := some ⟨0, 0, 0, 0, 0, 4, [], [], 0⟩ }
theorem wit_join_drain : streamDrains drainS 0 0 = true ∧ (drainS.modMe fun c => { c with joined := some c.th.pc }).me.joined = some gS.th.pc ∧
    gS.me.joined ≠ some gS.th.pc := by decide
theorem wit_ship_answer : ((withT gS fun x => { x with shipping := [] ++ (1, [rec0]) :: [] }).tile 0).shipping = [] ++ (1, [rec0]) :: [] ∧
    deliverable (netS [⟨1, 0, 4, .shipRe 0, []⟩]) 0 = some ⟨1, 0, 4, .shipRe 0, []⟩ := by decide
theorem wit_foreign_pod : { th0 with pid := 9 }.pid.toNat ≠ (gS.tile 0).pid ∧
    deliverable (netS [⟨1, 0, 0, .pod { th0 with pid := 9 } 0 none none, []⟩]) 0 = some ⟨1, 0, 0, .pod { th0 with pid := 9 } 0 none none, []⟩ ∧
    deliverable (netS [⟨1, 0, 0, .pod th0 0 none (some .podFormat), []⟩]) 0 = some ⟨1, 0, 0, .pod th0 0 none (some .podFormat), []⟩ := by decide
/-- A launch whose population of two found tile 0 empty, or did not. -/
def popS (placed : Bool) : State :=
  withT (laS [(0, launch0)]) fun x => { x with pops := [{ li := 0, made := 1, quota := 2, placed := placed }], ctxs := [] }
theorem wit_population : launchOf (popS true) 0 0 = some launch0 ∧ holder (popS true) ((popS true).tile 0).pid (some 0) 0 = none ∧
    (takeCharge ((popS true).tile 0)).isSome = true ∧ isFree ((popS true).tile 0) 1 = true ∧ freeUser ((popS false).tile 0) = some 0 ∧
    placing ((popS false).tile 0) = none ∧ ((popS false).tile 0).arrSides = [] := by decide
def retS : State := withT (netS [⟨0, 0, 1, .refuse 9, []⟩]) fun x => { x with moving := [({ th0 with cx := 1 }, 0, none)] }
theorem wit_return_pod : deliverable retS 0 = some ⟨0, 0, 1, .refuse 9, []⟩ ∧ heldCtx retS 0 9 = none ∧
    (retS.tile 0).moving = [({ th0 with cx := 1 }, 0, none)] ∧ chargeTile retS 0 { th0 with cx := 1 } ≠ 0 ∧ th0.rel = false ∧
    ((busyTub .returning).ctx 0 32).st = .returning ∧ ((busyTub .returning).ctx 0 32).tub.heldSlot = none ∧ (takeCharge ((busyTub .returning).tile 0)).isSome = true := by
  decide
theorem wit_poisoned_put : deliverable (netS [⟨0, 0, 3, .put req0 [(0x100, 8)] [1, 2, 3, 4, 5, 6, 7, 8], [0]⟩]) 0 =
      some ⟨0, 0, 3, .put req0 [(0x100, 8)] [1, 2, 3, 4, 5, 6, 7, 8], [0]⟩ ∧ outsWhere gS (fun o => o.id == 7) = [] := by decide
theorem wit_relocate : (ringS.tile 0).x0 + (ringS.tile 0).pw ≤ 128 ∧ (ringS.tile 0).y0 + (ringS.tile 0).phh ≤ 64 ∧ Memory.wf ringS.mem ∧
    (podThread (physGet ringS 0 (parkSlot 0) 672) (sideOf th0)).cx.toNat < (ringS.tile 0).pw ∧
    (podThread (physGet ringS 0 (parkSlot 0) 672) (sideOf th0)).cy.toNat < (ringS.tile 0).phh := by decide
/-- A COLL card of group 0 at 0x80, and an entry of the group. -/
def collCardS : State :=
  withT (withG (withM (withM gS 0x80 (wb [2, 0, 0, 0x100])) 0x100 (wb [0, 1, 0x200, 0x300])) [(1, 0x80)]) fun x => { x with groups := [(0, rootE)] }
set_option maxRecDepth 20000 in
theorem wit_coll_card : okE (readCard collCardS 0 (priv collCardS) 0x80 false) = true ∧
    (let j := val Job.empty (readCard collCardS 0 (priv collCardS) 0x80 false)
     j.kind = 2 ∧ groupEntry (collCardS.tile 0) (collGrp j) = some rootE) ∧ (collCardS.part (collCardS.tile 0).pid).isSome = true := by decide
theorem wit_engine_reads :
    (match homeRead paneS 0 0 (copyJ 0x300) (2 * 2 ^ 40 + 256) 8 with | .wait _ => true | _ => false) = true ∧
    (match homeRead (withJ [copyJ 0x300]) 0 0 (copyJ 0x300) 0x2000 8 with | .fail _ => true | _ => false) = true ∧
    ((gS.tile 0).pane 1).claims.any (fun q => q.c == 64) = false ∧
    deliverable (netS [⟨0, 0, 4, .incrFor ⟨0, 0, 0, 0, 0, 0, false⟩ 0x100 1, []⟩]) 0 = some ⟨0, 0, 4, .incrFor ⟨0, 0, 0, 0, 0, 0, false⟩ 0x100 1, []⟩ := by decide
theorem wit_coll_join : afind ({ part0 with joins := [(0, 1)] } : Part).joins 0 = some 1 := by decide
def arr1 (rank : Nat) : MredArr := { tile := 1, no := 5, tag := 0, set := 1, rank := rank, s := 3, row0 := 0, nr := 1, st := 0, cells := [] }
def mredI : MxIns := mxI 2 [0x200000000, 0, 0x400]
def mredS0 (rank : Nat) : State := withT (mxQ mredI) fun x => { x with mx := { x.mx with arrivals := [arr1 rank] } }
theorem wit_mred_root : mredI.kind = 2 ∧ ((mredS0 1).tile 0).at (fld (lget mredI.blk 1 0) 8 7) (fld (lget mredI.blk 1 0) 0 6) = 0 ∧ mredS mredI.blk = 3 ∧
    ((mredS0 1).tile 0).mx.arrivals = [arr1 1] ∧ (arr1 1).tag = mredTag mredI.blk ∧ (arr1 1).set = aget ((mredS0 1).tile 0).mx.mredOwn (mredTag mredI.blk) 0 + 1 ∧
    (arr1 1).rank < mredS mredI.blk ∧ (arr1 1).rank ≠ mredRank mredI.blk ∧ mredS mredI.blk ≤ (arr1 3).rank := by decide
theorem wit_mred_answers : { run0 mredI with waiting := true }.asked = false ∧
    deliverable (netS [⟨1, 0, 6, .mredRe 7 .granted, []⟩]) 0 = some ⟨1, 0, 6, .mredRe 7 .granted, []⟩ ∧
    ((runS { run0 mredI with waiting := true }).tile 0).mx.run = some { run0 mredI with waiting := true } ∧ mredI.no = 7 ∧
    hasCredit (runS (run0 mredI)) 0 (mredKey 1) = true ∧
    (∃ a ∈ ((withT gS fun x => { x with mx := { x.mx with arrivals := [{ arr1 1 with st := 1 }] } }).tile 0).mx.arrivals, a.tile = 1 ∧ a.no = 5 ∧ a.st = 1) :=
  ⟨by decide, by decide, by decide, by decide, by decide, { arr1 1 with st := 1 }, by decide⟩
/-- A filter at 0x200, that passes 5 or does not. -/
def filtU (v : BitVec 32) : Tub := { Tub.zero with fa := true, fbase := 0x200, fmask := 0xFF, fval := v, flo := 0, fhi := 9 }
theorem wit_filter : (filtU 5).fa = true ∧ okE (bankRead 0 4 1 ((filtU 5).fbase + w64 (4 * 0)) bankC) = true ∧
    (5 &&& (filtU 5).fmask = (filtU 5).fval ∧ (filtU 5).flo.toNat ≤ (5 : BitVec 32).toNat ∧ (5 : BitVec 32).toNat ≤ (filtU 5).fhi.toNat) ∧
    ¬ (5 &&& (filtU 4).fmask = (filtU 4).fval) := by decide
theorem wit_parts_up : partUp gS part0 = true ∧ partUp gS { part0 with halted := true } = false ∧
    (holder (laS [(0, { launch0 with prio := 9, victims := [(1, ⟨0, 0, 1, 1⟩)], holds := true, no := 64 }), (1, { launch0 with no := 1 })]) 0 (some 1) 0).isSome = true := by
  decide
/-- The queue's tile is of a field that has stopped. -/
theorem wit_part_down : partUp (gS.modField (fieldOf 0) fun x => { x with down := true }) part0 = false := by decide
theorem wit_lease : ((fldS fun x => { x with lease := .crown }).field 3).acts = true ∧ ((fldS fun x => { x with lease := .crown, cyc := 2 ^ 23 }).field 3).acts = false ∧
    crownOf (fldS fun x => { x with lease := .crown }) = some 3 ∧ ((fldS fun x => { x with lease := .crown }).field 3).shareAt ≤ 0 ∧
    deliverable (netS [⟨10003, 10003, 7, .renewAck 3 0 0, []⟩]) 0 = some ⟨10003, 10003, 7, .renewAck 3 0 0, []⟩ ∧
    deliverable (netS [⟨10003, 10003, 7, .share 3 0 150, []⟩]) 0 = some ⟨10003, 10003, 7, .share 3 0 150, []⟩ := by decide
theorem wit_ticks : (∀ i j : Nat, 4 * lget (List.replicate 64 (5 : Nat)) i 0 ≤ 5 * lget (List.replicate 64 (5 : Nat)) j 0 ∨ 64 ≤ j) ∧ 5 * lget [9, 5] 1 0 < 4 * lget [9, 5] 0 0 := by
  refine ⟨fun i j => ?_, by decide⟩
  rcases Nat.lt_or_ge j 64 with h | h
  · left
    have hi : lget (List.replicate 64 (5 : Nat)) i 0 ≤ 5 := by
      simp only [lget, List.getElem?_replicate]; split <;> simp
    have hj : lget (List.replicate 64 (5 : Nat)) j 0 = 5 := by simp only [lget, List.getElem?_replicate, h, if_true]; rfl
    omega
  · exact .inr h
theorem wit_vault_lanes : ∀ e ∈ ([(0, 0x100), (1, 0x104)] : List (Nat × Word)), (homeFor gS e.2 aWrite 4).toOption = some (.tile 0 (fld e.2 0 44)) ∧ fld e.2 40 4 = 0 := by decide

end Slice0Tests
end

section
/-! Control instructions and the end of a thread by EXIT (09 R167, 10 R213 to R215). -/

namespace Sys2Proof.Machine

-- Registers.
@[simp] theorem wrG_zero (th : Thread) (v : Word) : wrG th 0 v = th := rfl
@[simp] theorem rdG_zero (th : Thread) : rdG th 0 = 0 := rfl
theorem rdG_wrG_same {r : G} (h : r ≠ 0) (th : Thread) (v : Word) : rdG (wrG th r v) r = v := by
  simp [rdG, wrG, h]
@[simp] theorem wrG_pc (th : Thread) (r : G) (v : Word) : (wrG th r v).pc = th.pc := by
  unfold wrG; split <;> rfl

-- Retiring after a change of the thread.
/-- What a change of a context does to that context is all that the change is. -/
theorem State.modCtx_congr {s : State} {t c : Nat} {f g : Ctx → Ctx} (h : f (s.ctx t c) = g (s.ctx t c)) :
    s.modCtx t c f = s.modCtx t c g := congrArg (s.setCtx t c) h
/-- A change that leaves a context as it is does not show once its instruction has retired. -/
theorem retireCtx_modCtx_id {s : State} {t c : Nat} {f : Ctx → Ctx} (h : f (s.ctx t c) = s.ctx t c) (pc : Word) :
    retireCtx (s.modCtx t c f) t c pc = retireCtx s t c pc := by
  simp only [retireCtx, State.modCtx_modCtx]
  exact congrArg (stepFreeze · t c) (State.modCtx_congr (by rw [h]))
theorem retireAt_modTh_id {s : State} {f : Thread → Thread} (h : f s.th = s.th) (pc : Word) :
    (s.modTh f).retireAt pc = s.retireAt pc :=
  retireCtx_modCtx_id (congrArg (fun th => ({ s.me with th := th } : Ctx)) h) pc
/-- An instruction that writes a register goes on to the word 12 bytes after its own. -/
theorem retire_modTh_wrG (s : State) (r : G) (v : Thread → Word) :
    (s.modTh fun th => wrG th r (v th)).retire = (s.modTh fun th => wrG th r (v th)).retireAt (s.th.pc + 12) := by
  simp only [State.retire, State.retireAt, State.th_modTh, wrG_pc]

-- LOOP.
theorem execLoop_zero (off : BitVec 32) (s : State) : execLoop 0 off s = .next (s.retireAt (s.th.pc + 12)) := by
  simp only [execLoop, rdG_zero, if_true, retire_modTh_wrG]
  rw [retireAt_modTh_id rfl]
theorem execLoop_ne_zero {d : G} (h : d ≠ 0) (off : BitVec 32) (s : State) :
    execLoop d off s = .next ((s.modTh fun th => wrG th d (rdG th d - 1)).retireAt
      (if rdG s.th d = 1 then s.th.pc + 12 else target s.th.pc off)) := by
  have hz : rdG s.th d - 1 = 0 ↔ rdG s.th d = 1 := by bv_omega
  simp only [execLoop, State.th_modTh, rdG_wrG_same h, hz, retire_modTh_wrG]
  split <;> rfl

-- The flush of combining entries (R96).
theorem flushPick_none {s : State} {t : Tile} {f : CombEnt → Bool} {l : List CombEnt} (h : ∀ e ∈ l, f e = false) :
    flushPick s t f l = [] := by
  induction l with
  | nil => rfl
  | cons e r ih =>
    obtain ⟨he, hr⟩ := List.forall_mem_cons.1 h
    have hany : (r.any fun g => f g && combHome s t g == combHome s t e) = false :=
      List.any_eq_false.2 fun g hg => by simp [hr g hg]
    simp [flushPick, he, hany, ih hr]
/-- A flush that picks no entry changes nothing. -/
theorem flushWhere_none {s : State} {t : Tile} {f : CombEnt → Bool} (h : ∀ e ∈ (s.tile t).comb, f e = false) :
    flushWhere s t f = s := by
  simp [flushWhere, flushPick_none h]
@[simp] theorem flushWhere_cur (s : State) (t : Tile) (f : CombEnt → Bool) : (flushWhere s t f).cur = s.cur := by
  unfold flushWhere; dsimp only; split
  · rfl
  · exact List.foldlRecOn (motive := fun u : State => u.cur = s.cur) _ _ (State.modTile_cur ..) fun _ hu _ _ => hu
/-- A change of one tile is not seen by a reading of tiles that its function leaves alone. -/
theorem State.proj_modTile {α : Type} (p : TileSt → α) {f : TileSt → TileSt} (hp : ∀ x, p (f x) = p x) (s : State) (t u : Tile) :
    p ((s.modTile t f).tile u) = p (s.tile u) := by
  by_cases h : u = t
  · subst h; rw [State.tile_modTile, hp]
  · rw [State.tile_modTile_ne _ _ _ _ h]
/-- A flush changes nothing of any tile but its combining buffer: p is any reading of a tile that comb does not enter. -/
theorem proj_flushWhere {α : Type} (p : TileSt → α) (hp : ∀ x l, p { x with comb := l } = p x) (s : State) (t u : Tile)
    (f : CombEnt → Bool) : p ((flushWhere s t f).tile u) = p (s.tile u) := by
  unfold flushWhere; dsimp only; split
  · rfl
  · exact List.foldlRecOn (motive := fun v : State => p (v.tile u) = p (s.tile u)) _ _ (State.proj_modTile p (fun _ => hp ..) s t u)
      fun _ hv _ _ => hv
@[simp] theorem flushCtx_cur (s : State) (t c : Nat) : (flushCtx s t c).cur = s.cur := flushWhere_cur ..
@[simp] theorem ctx_flushCtx (s : State) (t c u d : Nat) : (flushCtx s t c).ctx u d = s.ctx u d :=
  proj_flushWhere (fun x => aget x.ctxs d Ctx.free) (fun _ _ => rfl) ..
@[simp] theorem panes_flushCtx (s : State) (t c u : Nat) : ((flushCtx s t c).tile u).panes = (s.tile u).panes :=
  proj_flushWhere TileSt.panes (fun _ _ => rfl) ..

-- Streams and ports.
/-- R281: the streams that a thread holds are a matter of its tile's panes and of its context. -/
theorem streamsOf_congr {s u : State} {t c : Nat} (hp : (u.tile t).panes = (s.tile t).panes) (hc : u.ctx t c = s.ctx t c) :
    streamsOf u t c = streamsOf s t c := by
  simp only [streamsOf, hp, hc]
theorem streamDrains_congr {s u : State} {t c : Nat} (hp : (u.tile t).panes = (s.tile t).panes) (hc : u.ctx t c = s.ctx t c) :
    streamDrains u t c = streamDrains s t c := by
  simp only [streamDrains, streamsOf_congr hp hc, TileSt.pane, hp]
@[simp] theorem streamDrains_flushCtx (s : State) (t c : Nat) : streamDrains (flushCtx s t c) t c = streamDrains s t c :=
  streamDrains_congr (panes_flushCtx ..) (ctx_flushCtx ..)
theorem streamDrains_none {s : State} {t c : Nat} (h : streamsOf s t c = []) : streamDrains s t c = false := by
  simp [streamDrains, h]
/-- R162: a port after the claim of a context has ended. -/
def portWithout (c : Nat) (p : Port) : Port := if p.owner = some c then { p with owner := none } else p
theorem owner_portWithout (c : Nat) (p : Port) : (portWithout c p).owner ≠ some c := by
  unfold portWithout; split
  · simp
  · assumption
@[simp] theorem portWithout_portWithout (c : Nat) (p : Port) : portWithout c (portWithout c p) = portWithout c p :=
  if_neg (owner_portWithout c p)
theorem freePorts_eq (s : State) (t c : Nat) : freePorts s t c = s.modTile t fun x =>
    { x with ports := x.ports.map fun e => (e.1, portWithout c e.2) } := rfl
theorem tile_freePorts (s : State) (t c : Nat) : (freePorts s t c).tile t =
    { s.tile t with ports := (s.tile t).ports.map fun e => (e.1, portWithout c e.2) } := State.tile_modTile ..
theorem tile_freePorts_ne {t u : Tile} (h : u ≠ t) (s : State) (c : Nat) : (freePorts s t c).tile u = s.tile u :=
  State.tile_modTile_ne _ _ _ _ h
theorem freePorts_freePorts (s : State) (t c : Nat) : freePorts (freePorts s t c) t c = freePorts s t c := by
  simp [freePorts_eq, Function.comp_def]
@[simp] theorem ctx_freePorts (s : State) (t c d : Nat) : (freePorts s t c).ctx t d = s.ctx t d := by
  simp [State.ctx, tile_freePorts]
theorem streamsOf_freePorts (s : State) (t c : Nat) : streamsOf (freePorts s t c) t c = streamsOf s t c :=
  streamsOf_congr (by rw [tile_freePorts]) (ctx_freePorts ..)
/-- R162: no port is left to a context whose claims have ended. -/
theorem owner_freePorts (s : State) (t c : Nat) : ∀ p ∈ ((freePorts s t c).tile t).ports, p.2.owner ≠ some c := by
  rw [tile_freePorts]
  intro p hp
  obtain ⟨e, -, rfl⟩ := List.mem_map.1 hp
  exact owner_portWithout c e.2
theorem chargeTile_freePorts (s : State) (t c : Nat) (th : Thread) : chargeTile (freePorts s t c) t th = chargeTile s t th := by
  unfold chargeTile; rw [tile_freePorts]; rfl
/-- Without a stream, EXIT ends the port claims alone. -/
theorem exitPanes_of_no_stream {s : State} {t c : Nat} (h : streamsOf s t c = []) : exitPanes s t c = freePorts s t c := by
  simp [exitPanes, h]

-- What a thread gives back.
/-- A charge that the own tile carries ends there, and no packet leaves (R86). -/
theorem endHolds_here {s : State} {t c : Nat} {th : Thread} (hc : c < 32) (h : chargeTile s t th = t) :
    endHolds s t c th = s.modTile t fun x => { x with slots := sdel x.slots th.slot } := by
  simp [endHolds, hc, releaseCharge, h]
/-- With nobody to tell, a context that becomes free sends no notice (R85). -/
theorem freeCtx_of_no_notices {s : State} {t : Tile} (c : Nat) (h : (s.tile t).notices = []) :
    freeCtx s t c = s.setCtx t c Ctx.free := by
  simp [freeCtx, sendNotice, h]

-- EXIT (R215).
/-- A pending destination makes EXIT wait before anything is done. -/
theorem exitOp_of_pend {s : State} {t c : Nat} (h : (s.ctx t c).pend ≠ []) :
    exitOp s t c = s.modCtx t c fun x => { x with st := .waiting, wait := .retry } := by
  simp [exitOp, h]
/-- An unacknowledged write or a draining slot makes EXIT wait once its combining entries have left. -/
theorem exitOp_of_outs_or_drains {s : State} {t c : Nat} (hp : (s.ctx t c).pend = [])
    (h : (s.ctx t c).outs ≠ [] ∨ streamDrains s t c = true) :
    exitOp s t c = (flushCtx s t c).modCtx t c fun x => { x with st := .waiting, wait := .retry } := by
  have hw : (!(s.ctx t c).outs.isEmpty || streamDrains s t c) = true := by simpa using h
  simp [exitOp, hp, hw]
/-- With nothing to wait for and nothing to flush, EXIT ends the port claims and the thread. -/
theorem exitOp_of_quiet {s : State} {t c : Nat} (hp : (s.ctx t c).pend = []) (ho : (s.ctx t c).outs = [])
    (hf : ∀ e ∈ (s.tile t).comb, contributes (s.ctx t c).th.tid e = false) (hg : (s.ctx t c).gang = .none)
    (hs : streamsOf s t c = []) : exitOp s t c = exitThread (freePorts s t c) t c := by
  have hflush : flushCtx s t c = s := flushWhere_none hf
  simp [exitOp, hp, ho, hflush, streamDrains_none hs, exitPanes_of_no_stream hs, followersDone, hg]
/-- A thread outside a gang with no stream, no job and no charge elsewhere gives back its ports, its slot and its context. -/
theorem exitThread_of_quiet {s : State} {t c : Nat} (hs : streamsOf s t c = []) (hg : (s.ctx t c).gang = .none)
    (hj : (s.ctx t c).th.tjob = none) (hc : c < 32) (hct : chargeTile s t (s.ctx t c).th = t) (hn : (s.tile t).notices = []) :
    exitThread s t c = ((freePorts s t c).modTile t fun x =>
      { x with slots := sdel x.slots (s.ctx t c).th.slot }).setCtx t c Ctx.free := by
  have hholds := endHolds_here hc ((chargeTile_freePorts s t c (s.ctx t c).th).trans hct)
  simp only [exitThread, exitPanes_of_no_stream hs, hg, hholds, hj, jobThreadEnd]
  exact freeCtx_of_no_notices c (by simp [tile_freePorts, hn])

/-- R215: EXIT in one step: the thread's ports, slot and context are free, and nothing else has changed. -/
theorem execExit_of_quiet {s : State} (hp : s.me.pend = []) (ho : s.me.outs = [])
    (hf : ∀ e ∈ (s.tile s.cur.t).comb, contributes s.th.tid e = false) (hg : s.me.gang = .none)
    (hs : streamsOf s s.cur.t s.cur.c = []) (hj : s.th.tjob = none) (hc : s.cur.c < 32)
    (hct : chargeTile s s.cur.t s.th = s.cur.t) (hn : (s.tile s.cur.t).notices = []) :
    execExit s = .next (((freePorts s s.cur.t s.cur.c).modTile s.cur.t fun x =>
      { x with slots := sdel x.slots s.th.slot }).setCtx s.cur.t s.cur.c Ctx.free) := by
  have hend := exitThread_of_quiet (s := freePorts s s.cur.t s.cur.c)
    ((streamsOf_freePorts ..).trans hs) (by rw [ctx_freePorts]; exact hg) (by rw [ctx_freePorts]; exact hj) hc
    (by rw [ctx_freePorts, chargeTile_freePorts]; exact hct) (by rw [tile_freePorts]; exact hn)
  rw [execExit, exitOp_of_quiet hp ho hf hg hs, hend, freePorts_freePorts, ctx_freePorts]
  rfl

/-- Settles O13: the branches and NOP are their meanings unfolded, LOOP turns on the count that its own write leaves, and EXIT
on what its thread still waits for. -/
theorem controlResults : Obligations.ControlResults := by
  unfold Obligations.ControlResults
  refine ⟨fun s off a d => ⟨rfl, rfl, rfl, rfl, rfl, rfl, fun hd => execLoop_ne_zero hd off s, execLoop_zero off s⟩,
    fun s => ⟨fun h => ?_, fun hp h => ?_, fun hp ho hf hg hs hj hc hct hn => ?_⟩⟩
  · exact congrArg Host.Outcome.next (exitOp_of_pend h)
  · refine congrArg Host.Outcome.next ((exitOp_of_outs_or_drains hp h).trans ?_)
    rw [State.modMe, flushCtx_cur]
  · refine ⟨_, execExit_of_quiet hp ho hf hg hs hj hc hct hn, State.ctx_setCtx .., ?_, ?_, rfl, rfl, fun k hk => ?_,
      fun v hv => ?_⟩
    · simp [tile_freePorts]
    · rw [State.tile_setCtx, State.tile_modTile]
      exact owner_freePorts s s.cur.t s.cur.c
    · rw [State.ctx_setCtx_ne _ _ _ _ _ _ (.inr hk)]
      simp [State.ctx, tile_freePorts]
    · rw [State.tile_setCtx_ne _ _ _ _ _ hv, State.tile_modTile_ne _ _ _ _ hv, tile_freePorts_ne hv]

end Sys2Proof.Machine
end

section
/-! Division and remainder (10 R202): the model's integer functions, taken to n bits, are the operations on bit vectors. -/

namespace Sys2Proof.Machine

-- Results of two sources as n-bit vectors (R197).
theorem intOp_signed {ty : Ty} (h : tySigned ty = true) (f : Int → Int → Int) (x y : Word) :
    intOp ty f x y = extBits ty (BitVec.ofInt (tyBits ty) (f (lowBits ty x).toInt (lowBits ty y).toInt)) := by
  rw [intOp, intRes_eq, valTy_signed h, valTy_signed h]
theorem intOp_unsigned {ty : Ty} (h : tySigned ty = false) (f : Int → Int → Int) (x y : Word) :
    intOp ty f x y = extBits ty (BitVec.ofInt (tyBits ty) (f (lowBits ty x).toNat (lowBits ty y).toNat)) := by
  rw [intOp, intRes_eq, valTy_unsigned h, valTy_unsigned h]

-- DIV and REM.
theorem toInt_eq_zero {n : Nat} (b : BitVec n) : b.toInt = 0 ↔ b = 0 := by
  rw [← BitVec.toInt_inj, BitVec.ofNat_eq_ofNat, BitVec.toInt_zero]
/-- A vector with a nonzero value has a bit. -/
theorem width_pos_of_ne_zero {n : Nat} {b : BitVec n} (h : b ≠ 0) : 0 < n :=
  Nat.pos_of_ne_zero fun h0 => h (by subst h0; exact Subsingleton.elim ..)
theorem eq_neg_one_of_toInt {n : Nat} {b : BitVec n} (h : b.toInt = -1) : b = -1 := by
  rw [← BitVec.ofInt_toInt (x := b), h, BitVec.ofInt_neg]; rfl
theorem eq_intMin_of_toInt {n : Nat} (hn : 0 < n) {a : BitVec n} (h : a.toInt = -(2 ^ (n - 1))) : a = BitVec.intMin n :=
  BitVec.eq_of_toInt_eq (h.trans (BitVec.toInt_intMin_of_pos hn).symm)
/-- The truncated quotient modulo 2^n is the quotient of the vectors, the overflow included. -/
theorem ofInt_tdiv_toInt {n : Nat} (a b : BitVec n) : BitVec.ofInt n (a.toInt.tdiv b.toInt) = a.sdiv b :=
  BitVec.eq_of_toInt_eq (by rw [BitVec.toInt_ofInt, BitVec.toInt_sdiv])
theorem ofInt_divS {n : Nat} (a b : BitVec n) :
    BitVec.ofInt n (divS n a.toInt b.toInt) = if b = 0 then -1 else a.sdiv b := by
  simp only [divS, toInt_eq_zero]
  split
  case isTrue => rw [BitVec.ofInt_neg]; rfl
  case isFalse hb =>
    split
    case isTrue h =>
      obtain ⟨ha, hb1⟩ := h
      rw [← ha, BitVec.ofInt_toInt, eq_intMin_of_toInt (width_pos_of_ne_zero hb) ha, eq_neg_one_of_toInt hb1]
      exact BitVec.intMin_sdiv_neg_one.symm
    case isFalse => exact ofInt_tdiv_toInt a b
/-- Outside a zero divisor, the remainder of the rule is the one with the sign of the dividend: the overflow's 0 too. -/
theorem remS_eq_tmod {n : Nat} {a b : Int} (hb : b ≠ 0) : remS n a b = a.tmod b := by
  rw [remS, if_neg hb]
  split
  case isTrue h => simp [h.2]
  case isFalse => rw [Int.tmod_def, Int.mul_comm]
theorem ofInt_remS {n : Nat} (a b : BitVec n) :
    BitVec.ofInt n (remS n a.toInt b.toInt) = if b = 0 then a else a.srem b := by
  split
  case isTrue h => rw [remS, if_pos ((toInt_eq_zero b).2 h), BitVec.ofInt_toInt]
  case isFalse h => rw [remS_eq_tmod (mt (toInt_eq_zero b).1 h), ← BitVec.toInt_srem, BitVec.ofInt_toInt]

-- DIVU and REMU.
theorem ofInt_toNat {n : Nat} (a : BitVec n) : BitVec.ofInt n a.toNat = a := by
  rw [BitVec.ofInt_natCast, BitVec.ofNat_toNat, BitVec.setWidth_eq]
theorem natCast_toNat_eq_zero {n : Nat} (b : BitVec n) : (b.toNat : Int) = 0 ↔ b = 0 := by
  rw [Int.natCast_eq_zero, ← BitVec.toNat_inj, BitVec.ofNat_eq_ofNat, BitVec.toNat_zero]
theorem ofInt_two_pow_sub_one (n : Nat) : BitVec.ofInt n (2 ^ n - 1) = -1 := by
  have h : (2 ^ n - 1 : Int) = ((2 ^ n - 1 : Nat) : Int) := by rw [Nat.cast_sub Nat.one_le_two_pow]; norm_cast
  rw [h, BitVec.ofInt_natCast, BitVec.ofNat_eq_ofNat, BitVec.neg_one_eq_allOnes]
  exact BitVec.eq_of_toNat_eq (by simp)
theorem ofInt_divU {n : Nat} (a b : BitVec n) :
    BitVec.ofInt n (divU n a.toNat b.toNat) = if b = 0 then -1 else a / b := by
  simp only [divU, natCast_toNat_eq_zero]
  split
  case isTrue => exact ofInt_two_pow_sub_one n
  case isFalse => rw [← Int.natCast_ediv, ← BitVec.toNat_udiv, ofInt_toNat]
theorem ofInt_remU {n : Nat} (a b : BitVec n) :
    BitVec.ofInt n (remU a.toNat b.toNat) = if b = 0 then a else a % b := by
  simp only [remU, natCast_toNat_eq_zero]
  split
  case isTrue => exact ofInt_toNat a
  case isFalse => rw [← Int.natCast_emod, ← BitVec.toNat_umod, ofInt_toNat]

-- The four instructions.
theorem exec_div (ty : Ty) (d a : GP) (b : Src) (s : State) :
    exec (.div ty d a b) s = op2 s d a b fun _ => intOp ty (divS (tyBits ty)) := by rfl
theorem exec_rem (ty : Ty) (d a : GP) (b : Src) (s : State) :
    exec (.rem ty d a b) s = op2 s d a b fun _ => intOp ty (remS (tyBits ty)) := by rfl
theorem exec_divu (ty : Ty) (d a : GP) (b : Src) (s : State) :
    exec (.divu ty d a b) s = op2 s d a b fun _ => intOp ty (divU (tyBits ty)) := by rfl
theorem exec_remu (ty : Ty) (d a : GP) (b : Src) (s : State) :
    exec (.remu ty d a b) s = op2 s d a b fun _ => intOp ty remU := by rfl

/-- An instruction of two sources whose ports are free answers with any function that agrees with its own. -/
theorem op2_eq {s : State} {d a : GP} {b : Src} (hp : checkPorts s [d] (a :: srcGps b) = .ok ()) {f : Thread → Word → Word → Word}
    {g : Word → Word → Word} (hfg : ∀ x y, f s.th x y = g x y) : op2 s d a b f = .next (after2 s d a b g) := by
  have h : f s.th = g := funext fun x => funext (hfg x)
  rw [op2_ok hp, h]

/-- Settles O7: each of the four functions, taken to n bits, is the operation on bit vectors with the rule's values for a zero
divisor and for the overflow. -/
theorem divisionResults : Obligations.DivisionResults := by
  unfold Obligations.DivisionResults
  intro s d a b hp
  refine ⟨fun ty h => ⟨(exec_div ..).trans (op2_eq hp fun x y => ?_), (exec_rem ..).trans (op2_eq hp fun x y => ?_)⟩,
    fun ty h => ⟨(exec_divu ..).trans (op2_eq hp fun x y => ?_), (exec_remu ..).trans (op2_eq hp fun x y => ?_)⟩⟩
  · rw [intOp_signed (signed_of_isSInt h), ofInt_divS]
  · rw [intOp_signed (signed_of_isSInt h), ofInt_remS]
  · rw [intOp_unsigned (unsigned_of_isUInt h), ofInt_divU]
  · rw [intOp_unsigned (unsigned_of_isUInt h), ofInt_remU]

end Sys2Proof.Machine
end

section
/-! The top-k list (15 R336). Inserting takes an entry to its place and cuts the list at the capacity, and the cut may wait
until the last insertion; so the list is the first part of all entries in ascending order, which their order of insertion
does not change. -/

namespace Sys2Proof.Machine

abbrev TopEntry : Type := BitVec 16 × BitVec 32
/-- R336: the list is in ascending order of its keys. -/
def TopSorted (l : List TopEntry) : Prop := l.Pairwise fun a b => topKey a ≤ topKey b

theorem topKey_injective : Function.Injective topKey := by
  intro a b h
  have ha := a.2.isLt
  have hb := b.2.isLt
  unfold topKey at h
  exact Prod.ext (BitVec.eq_of_toNat_eq (by omega)) (BitVec.eq_of_toNat_eq (by omega))

/-- Keys tell entries apart, so one collection of entries has one ascending list. -/
theorem TopSorted.eq_of_perm {l m : List TopEntry} (hl : TopSorted l) (hm : TopSorted m) (h : l.Perm m) : l = m :=
  h.eq_of_pairwise (fun _ _ _ _ hab hba => topKey_injective (Nat.le_antisymm hab hba)) hl hm
theorem TopSorted.take {l : List TopEntry} (h : TopSorted l) (n : Nat) : TopSorted (l.take n) :=
  h.sublist (l.take_sublist n)

-- The place of an entry.
theorem topPlace_cons_of_lt {e x : TopEntry} (h : topKey e < topKey x) (r : List TopEntry) :
    topPlace e (x :: r) = e :: x :: r := if_pos h
theorem topPlace_cons_of_not_lt {e x : TopEntry} (h : ¬ topKey e < topKey x) (r : List TopEntry) :
    topPlace e (x :: r) = x :: topPlace e r := if_neg h
/-- The place parts a sorted list into keys not above the entry's and keys above it. -/
theorem exists_topPlace (e : TopEntry) {l : List TopEntry} (hl : TopSorted l) :
    ∃ a b, l = a ++ b ∧ topPlace e l = a ++ e :: b ∧ (∀ x ∈ a, topKey x ≤ topKey e) ∧ ∀ x ∈ b, topKey e < topKey x := by
  induction l with
  | nil => exact ⟨[], [], rfl, rfl, by simp, by simp⟩
  | cons x r ih =>
    obtain ⟨hx, hr⟩ := List.pairwise_cons.mp hl
    by_cases h : topKey e < topKey x
    · refine ⟨[], x :: r, rfl, topPlace_cons_of_lt h r, by simp, List.forall_mem_cons.mpr ⟨h, fun y hy => h.trans_le (hx y hy)⟩⟩
    · obtain ⟨a, b, rfl, hp, ha, hb⟩ := ih hr
      exact ⟨x :: a, b, rfl, by rw [topPlace_cons_of_not_lt h, hp, List.cons_append], List.forall_mem_cons.mpr ⟨Nat.le_of_not_lt h, ha⟩, hb⟩
theorem topPlace_perm (e : TopEntry) {l : List TopEntry} (hl : TopSorted l) : (topPlace e l).Perm (e :: l) := by
  obtain ⟨a, b, rfl, hp, -, -⟩ := exists_topPlace e hl
  exact hp ▸ List.perm_middle
theorem TopSorted.topPlace (e : TopEntry) {l : List TopEntry} (hl : TopSorted l) : TopSorted (topPlace e l) := by
  obtain ⟨a, b, rfl, hp, ha, hb⟩ := exists_topPlace e hl
  obtain ⟨hsa, hsb, hab⟩ := List.pairwise_append.mp hl
  rw [hp]
  exact List.pairwise_append.mpr ⟨hsa, List.pairwise_cons.mpr ⟨fun x hx => (hb x hx).le, hsb⟩,
    fun x hx => List.forall_mem_cons.mpr ⟨ha x hx, hab x hx⟩⟩
theorem length_topPlace (e : TopEntry) {l : List TopEntry} (hl : TopSorted l) : (topPlace e l).length = l.length + 1 :=
  (topPlace_perm e hl).length_eq
/-- An entry that is not below the last one has its place at the end. -/
theorem topPlace_append_of_le {e z : TopEntry} {l : List TopEntry} (hl : TopSorted (l ++ [z])) (h : topKey z ≤ topKey e) :
    topPlace e (l ++ [z]) = l ++ [z] ++ [e] := by
  obtain ⟨a, b, hab, hp, -, hb⟩ := exists_topPlace e hl
  obtain rfl | ⟨b, w, rfl⟩ := b.eq_nil_or_concat'
  · rw [hp, hab, List.append_nil]
  · have hzw : z = w := by
      rw [← List.append_assoc] at hab
      exact List.singleton_inj.mp (List.append_inj' hab rfl).2
    exact absurd (hb w (by simp)) (by rw [← hzw]; omega)
/-- An entry below the last one has its place before it. -/
theorem topPlace_append_of_lt {e z : TopEntry} (l : List TopEntry) (h : topKey e < topKey z) :
    topPlace e (l ++ [z]) = topPlace e l ++ [z] := by
  induction l with
  | nil => exact topPlace_cons_of_lt h []
  | cons x r ih =>
    by_cases hx : topKey e < topKey x
    · simp only [List.cons_append, topPlace_cons_of_lt hx]
    · simp only [List.cons_append, topPlace_cons_of_not_lt hx, ih]
/-- What stands beyond the cut does not come before it again. -/
theorem take_topPlace_take (e : TopEntry) (l : List TopEntry) (n : Nat) :
    (topPlace e (l.take n)).take n = (topPlace e l).take n := by
  induction l generalizing n with
  | nil => rw [List.take_nil]
  | cons x r ih =>
    cases n with
    | zero => rw [List.take_zero, List.take_zero]
    | succ n =>
      by_cases hx : topKey e < topKey x
      · have hcut : (x :: r.take n).take n = (x :: r).take n := by
          rw [← List.take_succ_cons, List.take_take, Nat.min_eq_left n.le_succ]
        simp only [List.take_succ_cons, topPlace_cons_of_lt hx, hcut]
      · simp only [List.take_succ_cons, topPlace_cons_of_not_lt hx, ih]

-- One insertion (R336).
theorem topInsert_of_room (e : TopEntry) {u : Tub} (h : u.tlist.length < u.tcap) :
    topInsert u e = { u with tlist := topPlace e u.tlist } := if_pos h
theorem topInsert_of_full_lt {u : Tub} {e z : TopEntry} {l : List TopEntry} (hu : u.tlist = l ++ [z])
    (hn : u.tlist.length = u.tcap) (h : topKey e < topKey z) : topInsert u e = { u with tlist := topPlace e l } := by
  rw [topInsert, if_neg hn.not_lt]
  simp [hu, h]
theorem topInsert_of_full_le {u : Tub} {e z : TopEntry} {l : List TopEntry} (hu : u.tlist = l ++ [z])
    (hn : u.tlist.length = u.tcap) (h : topKey z ≤ topKey e) : topInsert u e = u := by
  rw [topInsert, if_neg hn.not_lt]
  simp [hu, Nat.not_lt.mpr h]
theorem topInsert_of_no_room {u : Tub} (e : TopEntry) (hu : u.tlist = []) (hc : u.tcap = 0) : topInsert u e = u := by
  rw [topInsert, if_neg (by omega)]
  simp [hu]
/-- The three ways of an insertion are one: the entry goes to its place, and the list is cut at its capacity. -/
theorem topInsert_eq_take {u : Tub} (e : TopEntry) (hs : TopSorted u.tlist) (hc : u.tlist.length ≤ u.tcap) :
    topInsert u e = { u with tlist := (topPlace e u.tlist).take u.tcap } := by
  obtain hroom | hfull := hc.lt_or_eq
  · rw [topInsert_of_room e hroom, List.take_of_length_le (by rw [length_topPlace e hs]; omega)]
  · obtain hnil | ⟨l, z, hu⟩ := u.tlist.eq_nil_or_concat'
    · have hcap : u.tcap = 0 := by rw [← hfull, hnil, List.length_nil]
      have hcut : (topPlace e u.tlist).take u.tcap = u.tlist := by rw [hcap, List.take_zero, hnil]
      rw [topInsert_of_no_room e hnil hcap, hcut]
    · have hsl : TopSorted (l ++ [z]) := hu ▸ hs
      by_cases h : topKey e < topKey z
      · have hlen : (topPlace e l).length = u.tcap := by
          rw [length_topPlace e (hsl.sublist (List.sublist_append_left ..)), ← hfull, hu, List.length_append]
          rfl
        rw [topInsert_of_full_lt hu hfull h, hu, topPlace_append_of_lt l h, List.take_left' hlen]
      · have hle : topKey z ≤ topKey e := Nat.le_of_not_lt h
        rw [topInsert_of_full_le hu hfull hle, hu, topPlace_append_of_le hsl hle, ← hu, List.take_left' hfull]

-- Insertions one after another.
/-- Every entry of l at its place in r, with no capacity. -/
def topPlaceAll (r l : List TopEntry) : List TopEntry := l.foldl (fun r e => topPlace e r) r
theorem TopSorted.topPlaceAll {r : List TopEntry} (hr : TopSorted r) (l : List TopEntry) : TopSorted (topPlaceAll r l) := by
  induction l generalizing r with
  | nil => exact hr
  | cons e l ih => exact ih (hr.topPlace e)
theorem topPlaceAll_perm {r : List TopEntry} (hr : TopSorted r) (l : List TopEntry) : (topPlaceAll r l).Perm (l ++ r) := by
  induction l generalizing r with
  | nil => exact .refl r
  | cons e l ih =>
    have hl : (topPlaceAll (topPlace e r) l).Perm (l ++ topPlace e r) := ih (hr.topPlace e)
    exact hl.trans (((topPlace_perm e hr).append_left l).trans List.perm_middle)
theorem topPlaceAll_congr {r l m : List TopEntry} (hr : TopSorted r) (h : l.Perm m) : topPlaceAll r l = topPlaceAll r m :=
  (hr.topPlaceAll l).eq_of_perm (hr.topPlaceAll m)
    ((topPlaceAll_perm hr l).trans ((h.append_right r).trans (topPlaceAll_perm hr m).symm))
/-- Insertions into the cut of a sorted list r leave the cut of r with all of them placed. -/
theorem foldl_topInsert_take {r : List TopEntry} (hr : TopSorted r) (u : Tub) (l : List TopEntry) :
    l.foldl topInsert { u with tlist := r.take u.tcap } = { u with tlist := (topPlaceAll r l).take u.tcap } := by
  induction l generalizing r with
  | nil => rfl
  | cons e l ih =>
    rw [List.foldl_cons, topInsert_eq_take e (hr.take u.tcap) (List.length_take_le ..), take_topPlace_take]
    exact ih (hr.topPlace e)
theorem foldl_topInsert {u : Tub} (hs : TopSorted u.tlist) (hc : u.tlist.length ≤ u.tcap) (l : List TopEntry) :
    l.foldl topInsert u = { u with tlist := (topPlaceAll u.tlist l).take u.tcap } := by
  have h := foldl_topInsert_take hs u l
  rwa [List.take_of_length_le hc] at h

-- The two instructions.
theorem exec_topkInit (k : BitVec 32) (s : State) : exec (.topkInit k) s =
    .next (bankRetire (s.modTub fun u => { u with tcap := k.toNat, tlist := [], spare := [] })) := rfl
theorem exec_topk (a b : G) (s : State) : exec (.topk a b) s =
    .next (bankRetire (s.modTub fun u => topInsert u ((rdG s.th a).setWidth 16, (rdG s.th b).setWidth 32))) := rfl

/-- Settles O46: an insertion is a placing and a cut, cuts may wait for the end, and the placed entries in ascending order are
one list whatever their order. -/
theorem topkList : Obligations.TopkList := by
  unfold Obligations.TopkList
  refine ⟨fun s a b k => ⟨exec_topkInit k s, exec_topk a b s⟩, ?_⟩
  intro u e key hs hc
  refine ⟨fun hroom => ?_, fun l z hu hfull => ⟨fun hlt => ?_, topInsert_of_full_le hu hfull⟩, fun h0 => ?_, fun l m hlm => ?_⟩
  · obtain ⟨a, b, hab, hp, ha, hb⟩ := exists_topPlace e hs
    exact ⟨a, b, hab, by rw [topInsert_of_room e hroom, hp], ha, hb⟩
  · have hl : TopSorted l := List.Pairwise.sublist (List.sublist_append_left l [z]) (hu ▸ hs)
    obtain ⟨a, b, hab, hp, ha, hb⟩ := exists_topPlace e hl
    exact ⟨a, b, hab, by rw [topInsert_of_full_lt hu hfull hlt, hp], ha, hb⟩
  · exact topInsert_of_no_room e (List.eq_nil_of_length_eq_zero (by omega)) h0
  · rw [foldl_topInsert hs hc, foldl_topInsert hs hc, topPlaceAll_congr hs hlm]
    exact ⟨(TopSorted.topPlaceAll hs m).take u.tcap, rfl⟩

end Sys2Proof.Machine
end
